-- ==== Sys2Proof/Word.lean ====
section
/-! DEFINITION. The word types of the KZ-960 and their plainest arithmetic (R3). -/

namespace Sys2Proof

/-- One byte, the smallest location of memory (R80). -/
abbrev Byte := BitVec 8

/-- One instruction word or one vector lane (R109, R172). -/
abbrev Word := BitVec 32

/-- One scalar register (R12). -/
abbrev DWord := BitVec 64

/-- One 2,048-bit vector register, accumulator row or 256-byte line (R12). -/
abbrev Line := BitVec 2048

end Sys2Proof
end

