-- ==== Sys2Proof/Syntax.lean ====
section
/-! DEFINITION. The syntax of Izsyn and of the module's events: one constructor of `Instr` per row
of the table of operations and events. Operand fields keep the width of their encoding (R115 to R118). -/

namespace Sys2Proof

/-- The four instruction streams of a cell (R33). -/
inductive Stream where
  | s | v | m | c
  deriving DecidableEq, Repr

/-- What executes Izsyn words in a cell: a stream or one of the three wickets (R76). -/
inductive Agent where
  | stream (st : Stream)
  | wicket (w : Nat)
  deriving DecidableEq, Repr

/-- The extension word of `MMA` (R239). -/
structure MmaQ where
  kl : BitVec 7
  orb : BitVec 4
  ork : BitVec 4
  ora : BitVec 4
  rnb : BitVec 1
  lb : BitVec 1
  rna : BitVec 1
  la : BitVec 1
  sat : BitVec 1
  ub : BitVec 1
  tb : BitVec 3
  ua : BitVec 1
  ta : BitVec 3
  deriving DecidableEq, Repr

/-- The extension word of `MSPB`, `MSCR` and `MSCN` (R242). -/
structure SparseQ where
  rnb : BitVec 1
  lb : BitVec 1
  rna : BitVec 1
  la : BitVec 1
  sat : BitVec 1
  orb : BitVec 4
  ora : BitVec 4
  cq : BitVec 6
  rq : BitVec 6
  deriving DecidableEq, Repr

/-- The extension word of `MDRAIN` (R249). -/
structure DrainQ where
  cr : BitVec 1
  orc : BitVec 4
  ord : BitVec 4
  cq : BitVec 6
  rq : BitVec 6
  ak : BitVec 2
  satf : BitVec 1
  rm : BitVec 3
  f : BitVec 4
  deriving DecidableEq, Repr

/-- The extension word of `MCFG` (R252). -/
structure CfgQ where
  mode : BitVec 1
  levee : BitVec 6
  split : BitVec 16
  deriving DecidableEq, Repr

/-- The extension word of `COPY` with `F` = 0 (R264). -/
structure CopyQ where
  ors : BitVec 4
  ord : BitVec 4
  rows : BitVec 8
  elems : BitVec 6
  pn : BitVec 2
  rn : BitVec 1
  rm : BitVec 3
  satf : BitVec 1
  tpl : BitVec 3
  deriving DecidableEq, Repr

/-- The extension word of `GATH` and `SCAT` (R269). -/
structure RowQ where
  lt : BitVec 8
  count : BitVec 8
  ori : BitVec 4
  tpl : BitVec 3
  pn : BitVec 2
  rn : BitVec 1
  deriving DecidableEq, Repr

/-- The extension word of `ENC` (R273). -/
structure EncQ where
  ors : BitVec 4
  tpl : BitVec 3
  deriving DecidableEq, Repr

/-- The extension word of `DEC` (R275). -/
structure DecQ where
  ors : BitVec 4
  ord : BitVec 4
  rows : BitVec 8
  padb : BitVec 8
  pn : BitVec 2
  rn : BitVec 1
  tpl : BitVec 3
  deriving DecidableEq, Repr

/-- The extension word of `LAND` (R280). -/
structure LandQ where
  x : BitVec 4
  y : BitVec 4
  z : BitVec 4
  cell : BitVec 8
  tag : BitVec 12
  deriving DecidableEq, Repr

/-- The extension word of `COLL` (R281). -/
structure CollQ where
  op : BitVec 4
  tag : BitVec 8
  nl : BitVec 6
  deriving DecidableEq, Repr

/-- A landing packet (R409). `sender` is the sending module number, `scell` its cell. -/
structure Packet where
  payload : List Byte
  tag : BitVec 16
  ctx : BitVec 16
  sender : BitVec 12
  scell : BitVec 8
  handler : DWord
  deriving DecidableEq, Repr

/-- A peer store as it arrives at its destination (R412, R413). -/
structure PeerStore where
  ctx : BitVec 16
  va : Nat
  size : Nat
  data : DWord
  port : Nat
  deriving DecidableEq, Repr

/-- A continuation record as it travels in a steal grant, with its address (R25, R332) and the address and copy of
its kernel's header (notes/assumptions/26). -/
structure StolenRecord where
  va : Nat
  bytes : List Byte
  khdr : Nat
  header : BitVec 512
  deriving DecidableEq, Repr

/-- What dispatchers of different modules tell each other about groups (R332, R348, R350 to R357, R360). -/
inductive GroupMsg where
  /-- a stolen task of a launch has retired, or was cancelled (R332) -/
  | retired (launch : BitVec 32)
  | cancelled (launch : BitVec 32)
  /-- a peer store is counted in; a peer store or a task of another module is counted out (R351, R352) -/
  | memberAdded (gid : BitVec 32)
  | memberGone (gid : BitVec 32)
  /-- `ERR` is set (R351) -/
  | err (gid : BitVec 32)
  /-- a launch on another module is terminal, or enters CANCELLING (R351, R357) -/
  | childTerminal (parent gid : BitVec 32) (err : Bool)
  | childCancelling (parent gid : BitVec 32)
  /-- its parent has counted a launch out (R350) -/
  | countedOut (gid : BitVec 32)
  /-- a launch's hold has ended (R357) -/
  | release (gid : BitVec 32)
  /-- a group of another module wants to join a parent of a level under a number (a graph's node, R357), has got its id, or
  is not created after all (R346, R353) -/
  | join (parent : BitVec 32) (level : Nat) (ctx : BitVec 16) (node : Nat)
  | joined (parent gid : BitVec 32) (node : Nat)
  | leave (parent : BitVec 32) (node : Nat)
  /-- a task is put on another module than its launch's (R335, R353): the question, and the answer to cell `cell`, or to
  the dispatcher: 0 refused, 1 accepted, 2 accepted and held, with the launch's header address and copy -/
  | enlist (launch : BitVec 32)
  | admitted (cell : Nat) (v : DWord) (khdr : Nat) (header : BitVec 512)
  /-- forms of `GCTL` (R360) -/
  | close (gid : BitVec 32) (ctx : BitVec 16) (bnd : BitVec 2) (bval : DWord)
  | wait (gid : BitVec 32) (ctx : BitVec 16)
  | cancel (gid : BitVec 32) (ctx : BitVec 16)
  | query (gid : BitVec 32) (ctx : BitVec 16) (parent : Bool)
  deriving DecidableEq, Repr

/-- Why the dispatcher stops a task (R301). -/
inductive StopReason where
  | preempt | yield | yieldLand | fault | cancel | faulted
  deriving DecidableEq, Repr

/-- The result of the management core's self-test: failed steps and failed cells (R445, R446). -/
structure SelfTest where
  badSteps : BitVec 16
  badCells : List Nat
  detail : BitVec 16
  imageVersion : Word
  imageDigest : BitVec 512
  weights : List (BitVec 16)
  staticW : List (BitVec 16)
  deriving DecidableEq, Repr

/-- Where an uncorrectable error strikes stored data (R422, R425): DRAM or CXL memory; a stored block or the sidecar line of
a compressed page (R287); a page without ECC, where nothing detects it (R288). -/
inductive ErrorSite where
  | dram (pa : Nat)
  | block (pa : Nat)
  | sidecar (pa : Nat)
  | tolerant (pa : Nat)
  | pad (cell off : Nat)
  | cluster (pa : Nat)
  | scalarReg (cell reg : Nat)
  | vectorReg (cell reg : Nat)
  | accRow (cell row : Nat)
  | codebook (cell entry : Nat)
  | landing (cell slot : Nat)
  deriving DecidableEq, Repr

/-- A register that a plain register write names (R4): a cell control register by its window
offset, or a management register by its offset in the block. -/
inductive RegTarget where
  | cellReg (cell off : Nat)
  | mgmtReg (off : Nat)
  deriving DecidableEq, Repr

/-- One row of the table of operations and events: an S, V, M or C instruction form, or an event of
the module. A field letter of the table is kept as the field's name; `q` is the predicate field. -/
inductive Instr where
  -- S stream: integer instructions (R145 to R151)
  | add (q : BitVec 4) (d a b : BitVec 5) (f : BitVec 6)
  | addImm (q : BitVec 4) (d a : BitVec 5) (i : BitVec 11)
  | sub (q : BitVec 4) (d a b : BitVec 5) (f : BitVec 6)
  | subImm (q : BitVec 4) (d a : BitVec 5) (i : BitVec 11)
  | mul (q : BitVec 4) (d a b : BitVec 5) (f : BitVec 6)
  | mulImm (q : BitVec 4) (d a : BitVec 5) (i : BitVec 11)
  | mulh (q : BitVec 4) (d a b : BitVec 5) (f : BitVec 6)
  | mulhImm (q : BitVec 4) (d a : BitVec 5) (i : BitVec 11)
  | div (q : BitVec 4) (d a b : BitVec 5) (f : BitVec 6)
  | divImm (q : BitVec 4) (d a : BitVec 5) (i : BitVec 11)
  | rem (q : BitVec 4) (d a b : BitVec 5) (f : BitVec 6)
  | remImm (q : BitVec 4) (d a : BitVec 5) (i : BitVec 11)
  | and (q : BitVec 4) (d a b : BitVec 5) (f : BitVec 6)
  | andImm (q : BitVec 4) (d a : BitVec 5) (i : BitVec 11)
  | or (q : BitVec 4) (d a b : BitVec 5) (f : BitVec 6)
  | orImm (q : BitVec 4) (d a : BitVec 5) (i : BitVec 11)
  | xor (q : BitVec 4) (d a b : BitVec 5) (f : BitVec 6)
  | xorImm (q : BitVec 4) (d a : BitVec 5) (i : BitVec 11)
  | shl (q : BitVec 4) (d a b : BitVec 5) (f : BitVec 6)
  | shlImm (q : BitVec 4) (d a : BitVec 5) (i : BitVec 11)
  | shr (q : BitVec 4) (d a b : BitVec 5) (f : BitVec 6)
  | shrImm (q : BitVec 4) (d a : BitVec 5) (i : BitVec 11)
  | sra (q : BitVec 4) (d a b : BitVec 5) (f : BitVec 6)
  | sraImm (q : BitVec 4) (d a : BitVec 5) (i : BitVec 11)
  | setc (q : BitVec 4) (d a b : BitVec 5) (f : BitVec 6)
  | setcImm (q : BitVec 4) (d a : BitVec 5) (i : BitVec 11)
  | sel (q : BitVec 4) (d a b : BitVec 5) (z : BitVec 1) (c : BitVec 5)
  | limm (q : BitVec 4) (d : BitVec 5) (i : BitVec 16)
  | limmSh (q : BitVec 4) (d : BitVec 5) (i : BitVec 16)
  -- S stream: memory, flow, waits (R152 to R171)
  | ld (z : BitVec 3) (q : BitVec 4) (d a : BitVec 5) (o : BitVec 9)
  | st (z : BitVec 3) (q : BitVec 4) (d a : BitVec 5) (o : BitVec 9)
  | atom (s : BitVec 4) (o : BitVec 2) (d a b f : BitVec 5)
  | cas (s : BitVec 4) (o : BitVec 2) (d a b f : BitVec 5)
  | br (c : BitVec 3) (a b : BitVec 5) (o : BitVec 13)
  | jmp (o : BitVec 25)
  | jmpL (o : BitVec 25)
  | jmpi (q : BitVec 4) (a : BitVec 5)
  | jmpiL (q : BitVec 4) (d a : BitVec 5)
  | loops (a b : BitVec 5) (o : BitVec 13)
  | loopsSet (a : BitVec 5)
  | waitc (q b : BitVec 4) (l s : BitVec 5) (c t : BitVec 4)
  | tsig (q : BitVec 4) (k : BitVec 5) (n : BitVec 1) (c : BitVec 12)
  | twait (q b : BitVec 4) (k : BitVec 5) (n : BitVec 1) (c : BitVec 12)
  | shut (q : BitVec 4) (t : BitVec 7) (c : BitVec 3)
  | fence (q b s : BitVec 4) (k : BitVec 2)
  | tdef (q : BitVec 4) (a : BitVec 5) (t : BitVec 8)
  | rdsys (q : BitVec 4) (d : BitVec 5) (x : BitVec 11)
  | wrsys (q : BitVec 4) (a : BitVec 5) (x : BitVec 11)
  -- S stream: the instructions of the object chapters (R310 to R414)
  | trap (q : BitVec 4) (e : BitVec 11)
  | tret (q : BitVec 4)
  | yield (q : BitVec 4) (d : BitVec 5)
  | yieldLand (q : BitVec 4) (d a : BitVec 5)
  | tend (q : BitVec 4)
  | qput (q : BitVec 4) (d a : BitVec 5) (x : BitVec 11)
  | estart (q : BitVec 4) (a : BitVec 5) (m : BitVec 3)
  | etruncImm (q : BitVec 4) (d : BitVec 5) (c : BitVec 8) (e : BitVec 2)
  | etruncReg (q : BitVec 4) (d a : BitVec 5) (e : BitVec 2)
  | launch (q : BitVec 4) (d a : BitVec 5)
  | ifence (q : BitVec 4)
  | gctlOpen (q : BitVec 4) (d a : BitVec 5) (l : BitVec 2)
  | gctlClose (q : BitVec 4) (d a : BitVec 5) (k : BitVec 2)
  | gctlWait (q : BitVec 4) (d a : BitVec 5) (b : BitVec 4)
  | gctlCancel (q : BitVec 4) (d a : BitVec 5)
  | gctlQuery (q : BitVec 4) (d a : BitVec 5) (p : BitVec 1)
  | barrArm (q : BitVec 4) (d a : BitVec 5) (u : BitVec 1) (n : BitVec 8)
  | barrArrive (q : BitVec 4) (a : BitVec 5) (n : BitVec 8)
  | barrWait (q : BitVec 4) (d a : BitVec 5) (b : BitVec 4)
  | waitt (q : BitVec 4) (d a : BitVec 5) (b : BitVec 4)
  | migrStart (q : BitVec 4) (d a : BitVec 5)
  | migrCancel (q : BitVec 4) (d a : BitVec 5)
  | migrQuery (q : BitVec 4) (d a : BitVec 5)
  | invpg (q : BitVec 4) (a : BitVec 5) (k : BitVec 2) (s : BitVec 4)
  | pstf (q : BitVec 4) (d a b : BitVec 5) (e : BitVec 1) (z : BitVec 2)
  | ldoneEnd (q : BitVec 4)
  | ldoneRd (q : BitVec 4) (d a : BitVec 5)
  -- V stream (R179 to R206)
  | vadd (q : BitVec 4) (d a b : BitVec 6) (t : BitVec 4)
  | vsub (q : BitVec 4) (d a b : BitVec 6) (t : BitVec 4)
  | vmul (q : BitVec 4) (d a b : BitVec 6) (t : BitVec 4)
  | vfma (q : BitVec 4) (d a b : BitVec 6) (t : BitVec 4)
  | vmin (q : BitVec 4) (d a b : BitVec 6) (t : BitVec 4)
  | vmax (q : BitVec 4) (d a b : BitVec 6) (t : BitVec 4)
  | vrcp (q : BitVec 4) (d a : BitVec 6) (t : BitVec 4)
  | vexp (q : BitVec 4) (d a : BitVec 6) (t : BitVec 4)
  | vcmp (d a b : BitVec 6) (t : BitVec 4) (c : BitVec 3)
  | vsel (q : BitVec 4) (d a b : BitVec 6)
  | vbit (q : BitVec 4) (d a b : BitVec 6) (o : BitVec 4)
  | vshf (q : BitVec 4) (d a b : BitVec 6) (k w : BitVec 2)
  | vcvt (d a : BitVec 6) (p : BitVec 2) (s : BitVec 1) (r : BitVec 3) (e f : BitVec 4)
  | vred (d a : BitVec 6) (o : BitVec 3) (t : BitVec 4)
  | vperm (q : BitVec 4) (d a b : BitVec 6)
  | vbcast (d a : BitVec 6) (e : BitVec 8) (w : BitVec 2)
  | vli (q : BitVec 4) (d : BitVec 6) (i : BitVec 16)
  | vidx (q : BitVec 4) (d : BitVec 6) (s t : BitVec 8)
  | vld (q : BitVec 4) (d : BitVec 6) (t : BitVec 7) (l : BitVec 6) (f : BitVec 3)
  | vst (q : BitVec 4) (d : BitVec 6) (t : BitVec 7) (l : BitVec 6) (f : BitVec 3)
  | vsld (q : BitVec 4) (d : BitVec 6) (n : BitVec 3) (k : BitVec 1)
  | vsst (q : BitVec 4) (d : BitVec 6) (n : BitVec 3) (k : BitVec 1)
  | vsbind (q : BitVec 4) (d : BitVec 6) (n : BitVec 3) (t : BitVec 7) (l : BitVec 6)
  | vmpush (a b : BitVec 6) (q : BitVec 4) (f : BitVec 1) (c : BitVec 3)
  | vminv (q : BitVec 4)
  | vmpop (q n : BitVec 4)
  | bru (k : BitVec 1) (o : BitVec 13)
  | loopv (n : BitVec 9) (e : BitVec 3) (o : BitVec 13)
  | loopvSet (e : BitVec 8)
  | vqnt (d a : BitVec 6) (r : BitVec 2) (l : BitVec 4) (t : BitVec 7)
  | vpupdSgd (d a p : BitVec 6)
  | vpupdMom (d a p g : BitVec 6)
  | vpack (d a : BitVec 6) (p : BitVec 5) (k : BitVec 4)
  | vunpk (d a : BitVec 6) (s : BitVec 1) (p : BitVec 5) (k : BitVec 4)
  | vtsig (q : BitVec 4) (k : BitVec 5) (c : BitVec 12)
  | vtwait (q b : BitVec 4) (k : BitVec 5) (c : BitVec 12)
  | vshut (q b : BitVec 4) (t : BitVec 7) (c : BitVec 3)
  | vend (q : BitVec 4)
  -- M stream (R238 to R257)
  | mzero (b m : BitVec 4)
  | mma (b : BitVec 4) (c : BitVec 2) (a e : BitVec 9) (f : BitVec 1)
  | mmaExt (b : BitVec 4) (c : BitVec 2) (a e : BitVec 9) (f : BitVec 1) (x : MmaQ)
  | mspb (b : BitVec 4) (c : BitVec 2) (a e : BitVec 9) (f : BitVec 1)
  | mspbExt (b : BitVec 4) (c : BitVec 2) (a e : BitVec 9) (f : BitVec 1) (x : SparseQ)
  | mscr (b : BitVec 4) (c : BitVec 2) (a e : BitVec 9) (f : BitVec 1)
  | mscrExt (b : BitVec 4) (c : BitVec 2) (a e : BitVec 9) (f : BitVec 1) (x : SparseQ)
  | mscn (b : BitVec 4) (c : BitVec 2) (a e : BitVec 9) (f : BitVec 1)
  | mscnExt (b : BitVec 4) (c : BitVec 2) (a e : BitVec 9) (f : BitVec 1) (x : SparseQ)
  | mrsum (b : BitVec 4) (a e : BitVec 9) (f : BitVec 1)
  | mdrain (b : BitVec 4) (c : BitVec 2) (a : BitVec 9)
  | mdrainExt (b : BitVec 4) (c : BitVec 2) (a : BitVec 9) (x : DrainQ)
  | mdrainQ (b : BitVec 4) (c : BitVec 2) (a e : BitVec 9) (x : Option DrainQ)
  | mcfg (b : BitVec 4) (w : BitVec 3) (x : CfgQ)
  | mloop (l : BitVec 6) (n : BitVec 8) (i : BitVec 3) (s : BitVec 4)
  | mtsig (k : BitVec 5) (c : BitVec 12)
  | mtwait (b : BitVec 4) (k : BitVec 5) (c : BitVec 12)
  | mshut (b : BitVec 4) (t : BitVec 7) (c : BitVec 3)
  | mend (b : BitVec 4)
  -- C stream (R264 to R284)
  | copy (b : BitVec 4) (d s : BitVec 9) (t : BitVec 2)
  | copyExt (b : BitVec 4) (d s : BitVec 9) (t : BitVec 2) (x : CopyQ)
  | copyF (b : BitVec 4) (d s : BitVec 9) (t : BitVec 2) (inner : Word)
  | gath (b : BitVec 4) (d s : BitVec 9) (x : RowQ)
  | scat (b : BitVec 4) (d s : BitVec 9) (x : RowQ)
  | enc (b : BitVec 4) (d s : BitVec 9)
  | encExt (b : BitVec 4) (d s : BitVec 9) (x : EncQ)
  | dec (b : BitVec 4) (d s : BitVec 9)
  | decExt (b : BitVec 4) (d s : BitVec 9) (x : DecQ)
  | cbload (b : BitVec 4) (k : BitVec 1) (t : BitVec 8) (f c : BitVec 4)
  | fill (b : BitVec 4) (d : BitVec 9) (x : Word)
  | clone (b : BitVec 4) (d s : BitVec 9)
  | cloneZero (b : BitVec 4) (d : BitVec 9)
  | land (b : BitVec 4) (t : BitVec 7) (l : BitVec 6) (n : BitVec 5) (h : BitVec 3) (x : LandQ)
  | coll (b : BitVec 4) (t r : BitVec 7) (p : BitVec 3) (x : CollQ)
  | cbar (b : BitVec 4) (n : BitVec 8) (k : BitVec 2) (i : BitVec 11)
  | cloop (l : BitVec 6) (n : BitVec 8) (i : BitVec 3) (s : BitVec 4)
  | ctsig (k : BitVec 5) (c : BitVec 12)
  | ctwait (b : BitVec 4) (k : BitVec 5) (c : BitVec 12)
  | cshut (b : BitVec 4) (t : BitVec 7) (c : BitVec 3)
  | cend (b : BitVec 4)
  -- Events of a cell's streams and memory accesses
  | injectedCommandIssue (cell : Nat)
  | engineFetch (cell : Nat) (st : Stream)
  | trapTake (cell : Nat) (ag : Agent)
  | engineTrapTake (cell : Nat)
  | cycleBoundExpiry (cell : Nat) (ag : Agent)
  | reductionLimit (cell : Nat)
  | tokenWaitSatisfied (cell : Nat) (st : Stream)
  | shutterStallRelease (cell : Nat) (st : Stream)
  | waittTargetReached (cell : Nat)
  | barrierWaitRelease (cell : Nat)
  | loadDataReturn (cell : Nat) (ag : Agent) (k : Nat)
  | writeApplyToView (die k : Nat)
  | atomicExecute (quad k : Nat)
  | cellWindowAccess (cell off size : Nat) (wr : Option DWord) (byCore : Bool)
  | windowRegWriteApply (cell : Nat)
  | windowAccessTimeout (cell : Nat)
  | hostMemoryAccess (pa size : Nat) (wr : Option DWord)
  | pageWalk (quad : Nat) (ctx : BitVec 16) (va : Nat)
  | nextPageFill (cell : Nat) (st : Stream) (k : Nat) (va : Nat)
  | hotDecay
  -- Events of the dispatcher
  | dispatchTask
  | codebookReplay (cell : Nat)
  | restoreComplete (cell : Nat)
  | taskStop (cell : Nat)
  | mQuiesceStop (cell : Nat)
  | taskStopped (cell : Nat)
  | saveComplete (cell : Nat)
  | taskRetire (cell : Nat)
  | preemptEval
  | queueTake (qid : Nat)
  | weirSample (p : BitVec 12)
  | occupancyPublish (nbr : List (BitVec 32))
  | stealRequest (port : Nat)
  | stealGrant (port : Nat) (recs : List StolenRecord)
  | stealAck (rec : Nat)
  -- Events of the fabric
  | remoteGroupMessage (src cell : Nat) (msg : GroupMsg)
  | landingArrival (cell : Nat) (p : Packet)
  | landingServe (cell : Nat)
  | wicketOverrun (cell w : Nat)
  | peerStoreArrival (p : PeerStore)
  | peerStoreAck (k : Nat) (cause : BitVec 8)
  | packetLossDeclare (k : Nat)
  | collChunkArrival (cell : Nat) (port : BitVec 3) (ctx : BitVec 16) (tag : BitVec 8) (lines : List Line) (bad : List Nat)
  | barrierArrival
  | phaseTimeBoundary (slot : Nat)
  | migrationLineCopy (k : Nat)
  | switchOver (k : Nat)
  | migrationShootdownComplete (k : Nat)
  | migrationAbort (k : Nat) (reason : Nat)
  | abortShootdownComplete (k : Nat)
  | contextRelease (ctx : BitVec 16)
  | residencyPeriod (cell : Nat)
  -- Commands of the host and the management core
  | ctxtblWrite (v : DWord)
  | ctxCreate (ctx : BitVec 16)
  | ctxDestroy (ctx : BitVec 16)
  | ctxFault (ctx : BitVec 16)
  | ctxResume (ctx : BitVec 16)
  | qtblWrite (v : DWord)
  | queueCreate (qid : BitVec 11)
  | queueOpen (qid : BitVec 11)
  | queueClose (qid : BitVec 11)
  | queueDestroy (qid : BitVec 11)
  | queuePut (qid : BitVec 11)
  | gtblWrite (v : DWord)
  | jobstart (rec : BitVec 46) (ctx : BitVec 16)
  | gfree (slot : BitVec 18)
  | btblWrite (v : DWord)
  | pginvCmd (ctx : BitVec 16) (kind : BitVec 2)
  -- Torus ports and time
  | portControlWrite (port : Nat) (v : DWord)
  | portPartnerDetect (port : Nat)
  | portTrained (port : Nat) (full : Bool)
  | portTrainingTimeout (port : Nat)
  | portCalibration (port : Nat) (inWindow : Bool)
  | portLaneFailure (port : Nat)
  | portSignalLoss (port : Nat)
  | flitCrcFail (port : Nat)
  | syncMessage (port : Nat) (offset : Int) (rate : Int) (bound : Word)
  | lockTimeout
  -- Debug and faults
  | cellHalt (cell : Nat)
  | cellStopComplete (cell : Nat)
  | cellResume (cell : Nat)
  | cellStep (cell : Nat) (st : Stream)
  | breakpointMatch (cell : Nat)
  | sampleLatch (cell : Nat)
  | cellFence (cell : Nat) (structure_ : DWord)
  | moduleHalt (structure_ : DWord) (die : Nat)
  | correctableError (die : Nat)
  | blackBoxFreeze
  | blackBoxUnfreeze
  | bbRidx (v : BitVec 12)
  -- The device
  | powerOn (t : SelfTest)
  | rstcmd (v : BitVec 8) (t : SelfTest)
  | powerLoss
  | attGo
  | attestationSignComplete
  | configBlockAccept (digest : BitVec 512)
  | thermalSensorUpdate (die : Nat) (tj : List (BitVec 12)) (staticW : BitVec 16)
  | clockStep (die : Nat)
  | hbmTempUpdate (stack : Nat) (t : BitVec 12)
  | coolantSample (inlet outlet : BitVec 12)
  | registerWrite (r : RegTarget) (v : DWord)
  | commandCompletion (cell : Nat) (st : Stream)
  | landingCredit (cell k : Nat) (acked : Bool)
  | remoteGroupReply (cell : Nat) (v : DWord)
  | stolenTaskReturn (rec : Nat)
  | hostPortLaneFailure (width : Nat)
  | uncorrectableDataError (site : ErrorSite)
  | fusedMinimumRaise
  deriving DecidableEq, Repr

end Sys2Proof
end

