-- ==== Sys2Proof/Config.lean ====
section
/-! DEFINITION. What the module as built fixes, and the values the manual leaves open. -/

namespace Sys2Proof.Config

/-- Cells, quads and dies of a module (R9, R11). -/
def cells : Nat := 192
def quads : Nat := 48
def dies : Nat := 4

/-- A value that the manual leaves open, by the model's own counter: nothing constrains it (notes/assumptions/13). -/
opaque freeValue : Nat → BitVec 64

/-- What the second information word of an event names when the issuer of an access is no cell (R441), left free
(notes/assumptions/96). -/
opaque issuer : Nat → BitVec 32

/-- What the cut registers read while a cell is not stopped, by the cycle and the register's offset: they are valid only
while it is (R430), and nothing constrains these values (notes/assumptions/99). -/
opaque openCut : Nat → Nat → BitVec 64

/-- The digest of MEAS0, MEAS1 and configuration blocks (R449): the hash's values are left free (notes/assumptions/17). -/
opaque digest : List Byte → BitVec 512

/-- The bytes of an attestation report's signature, by the 168 bytes it signs (R450), left free (notes/assumptions/17). -/
opaque signature : List Byte → Nat → Byte

/-- The capacity in bytes of the expanders behind memory port 0, which die 1 carries, and behind memory port 1 (R10,
R16, R421): found at enumeration, and left free (notes/assumptions/15). -/
opaque cxlPort0Bytes : Nat
opaque cxlPort1Bytes : Nat

/-- The partition word that another module holds for the job above one of its groups, if it declares one (R77, R356), left
free (notes/assumptions/104). -/
opaque remotePartition : BitVec 32 → Option Nat

/-- Populated CXL memory in bytes; port 0 comes before port 1 (R16). -/
def cxlBytes : Nat := cxlPort0Bytes + cxlPort1Bytes

/-- Unfinished instructions of S (R140). -/
def maxUnfinished : Nat := 8

/-- Entries of an engine queue (R333). -/
def queueDepth : Nat := 64

end Sys2Proof.Config
end

