-- ==== Sys2Proof/WellFormed.lean ====
section
/-! DEFINITION. Which instructions a word can stand for: the checks of R110 that depend on the word and
its extension word alone. A word whose instruction fails one raises ILLEGAL. Fields an entry calls
ignored are not checked. -/

namespace Sys2Proof

/-- The check of R110 that a word fails. -/
inductive IllFormed where
  | predicate | function | scope | condition | registerClash | shutterCode | systemRegister
  | streamMask | elementType | formatCode | rounding | part | offset | operand | tileFormat | origin
  | accKind | loopLength | pitch | injected | entryRange | cellNumber | port
  deriving DecidableEq, Repr

/-- `none` when the condition holds, else the named failure. -/
def ck (p : Prop) [Decidable p] (e : IllFormed) : Option IllFormed := if p then none else some e

/-- A stage-predicate field holds 0 or `0b1nnn` (R112). -/
def qpOk (q : BitVec 4) : Bool := q = 0 || q.msb

/-- An operand field of M or C does not begin with `0b11` (R118). -/
def operandOk (x : BitVec 9) : Bool := x.extractLsb' 7 2 ≠ 3

/-- The operand field names a tile (R118). -/
def operandIsTile (x : BitVec 9) : Bool := x.extractLsb' 7 2 = 2

/-- An origin field holds 0 or `0b1nnn` (R232). -/
def originOk (o : BitVec 4) : Bool := o = 0 || o.msb

/-- The origin of a tile operand is ignored (R232). -/
def originIf (x : BitVec 9) (o : BitVec 4) : Bool := operandIsTile x || originOk o

/-- The count forms of `TSIG` and `TWAIT`: with N = 1, bits [11:5] are 0 (R164). -/
def countOk (n : BitVec 1) (c : BitVec 12) : Bool := n = 0 || c.extractLsb' 5 7 = 0

/-- The `fn` field of `SETC` (R149). -/
def setcOk (d : BitVec 5) (f : BitVec 6) : Bool :=
  f.extractLsb' 0 3 ≤ 5 && f.extractLsb' 3 1 = 0 && (f.extractLsb' 5 1 = 0 || d.extractLsb' 3 2 = 0)

/-- The system register numbers of R122. -/
def sysRegListed (x : BitVec 11) : Bool :=
  [0, 1, 2, 3, 4, 8, 9, 0xC, 0x10, 0x11, 0x12, 0x18, 0x19].contains x.toNat

/-- The float element types of R172. -/
def floatTy (t : BitVec 4) : Bool := t = 0 || t = 4 || t = 5

/-- The condition codes of R181 for an integer or a float type. -/
def condOk (float : Bool) (c : BitVec 3) : Bool :=
  if float then c ≤ 3 || c = 6 else c ≤ 5

/-- The register width of a `VCVT` format code (R186). -/
def cvtWidth (f : BitVec 4) : Nat :=
  if f = 0 || f = 8 then 32 else if f = 1 || f = 2 then 16 else 8

/-- `part` is below the width ratio (R186). -/
def cvtPartOk (fs fd : BitVec 4) (p : BitVec 2) : Bool :=
  p.toNat * min (cvtWidth fs) (cvtWidth fd) < max (cvtWidth fs) (cvtWidth fd)

/-- The part limits of R203. -/
def packPartOk (k : BitVec 4) (p : BitVec 5) : Bool :=
  p.toNat ≤ ([31, 1, 1, 15, 1, 1, 7, 1, 0].getD k.toNat 0)

/-- The tile format code and U bit of an `MMA` operand, ignored for a tensor (R239). -/
def tileFormatOk (x : BitVec 9) (t : BitVec 3) (u : BitVec 1) : Bool :=
  !operandIsTile x || (t ≠ 7 && (u = 0 || t = 4))

/-- The extension word of `MMA` (R232, R239). -/
def mmaExtCheck (a e : BitVec 9) (x : MmaQ) : Option IllFormed :=
  ck (tileFormatOk a x.ta x.ua ∧ tileFormatOk e x.tb x.ub) .tileFormat <|>
  ck (originIf a x.ora ∧ originIf e x.orb ∧ (originOk x.ork ∨ operandIsTile a ∧ operandIsTile e)) .origin

/-- The extension word of `MDRAIN` (R232, R249, R43): `RM` is ignored by `.q`, `F` by a tensor destination. -/
def drainCheck (a : BitVec 9) (isQ : Bool) (x : DrainQ) : Option IllFormed :=
  ck (originIf a x.orc ∧ originIf a x.ord) .origin <|> ck (x.ak ≠ 3) .accKind <|>
  ck (isQ ∨ x.rm ≤ 4) .rounding <|> ck (operandIsTile a = false ∨ x.f ≤ 13) .formatCode

/-- The entries of a `CBLOAD` end at or below entry 255 (R277). -/
def cbRangeOk (f c : BitVec 4) : Bool := f.toNat + (if c = 0 then 16 else c.toNat) ≤ 16

/-- The reserved bits of an M word without extension word, by opcode; `none` for an opcode that
`COPY.F` refuses or that M does not assign (R119, R120). -/
def injectableMask (op : Nat) : Option Word :=
  match op with
  | 1 => some 0x001FFFF0 | 2 => some 0 | 3 => some 0 | 4 => some 0 | 5 => some 0 | 6 => some 0x00180000
  | 7 => some 0 | 10 => some 0x01FC1000 | 11 => some 0x001C1000 | 12 => some 0x001C00FF
  | _ => none

/-- The tests of R119 on the M word that `COPY.F` carries: no extension word, neither `MLOOP` nor `MEND`
(nor `MCFG`, which needs an extension word), and no ILLEGAL condition of R110. -/
def injectable (w : Word) : Bool :=
  let op := (w.extractLsb' 26 6).toNat
  let pa : BitVec 9 := w.extractLsb' 10 9
  let pb : BitVec 9 := w.extractLsb' 1 9
  match injectableMask op with
  | none => false
  | some r =>
    w.extractLsb' 25 1 = 0 && w &&& r = 0 &&
    (!(2 ≤ op && op ≤ 6) || (operandOk pa && operandOk pb)) &&
    (op ≠ 7 || (operandOk pa && (if w.extractLsb' 0 1 = 0 then pb = 0 else operandOk pb))) &&
    (op ≠ 12 || w.extractLsb' 8 3 ≤ 5)

/-- The first check of R110 that a stream instruction fails. -/
def Instr.check (i : Instr) : Option IllFormed :=
  match i with
  | .add q _ _ _ f => ck (qpOk q) .predicate <|> ck (f ≤ 5) .function
  | .addImm q _ _ _ => ck (qpOk q) .predicate
  | .sub q _ _ _ f => ck (qpOk q) .predicate <|> ck (f ≤ 5) .function
  | .subImm q _ _ _ => ck (qpOk q) .predicate
  | .mul q _ _ _ f => ck (qpOk q) .predicate <|> ck (f ≤ 1) .function
  | .mulImm q _ _ _ => ck (qpOk q) .predicate
  | .mulh q _ _ _ f => ck (qpOk q) .predicate <|> ck (f ≤ 2) .function
  | .mulhImm q _ _ _ => ck (qpOk q) .predicate
  | .div q _ _ _ f => ck (qpOk q) .predicate <|> ck (f ≤ 3) .function
  | .divImm q _ _ _ => ck (qpOk q) .predicate
  | .rem q _ _ _ f => ck (qpOk q) .predicate <|> ck (f ≤ 3) .function
  | .remImm q _ _ _ => ck (qpOk q) .predicate
  | .and q _ _ _ f => ck (qpOk q) .predicate <|> ck (f = 0) .function
  | .andImm q _ _ _ => ck (qpOk q) .predicate
  | .or q _ _ _ f => ck (qpOk q) .predicate <|> ck (f = 0) .function
  | .orImm q _ _ _ => ck (qpOk q) .predicate
  | .xor q _ _ _ f => ck (qpOk q) .predicate <|> ck (f = 0) .function
  | .xorImm q _ _ _ => ck (qpOk q) .predicate
  | .shl q _ _ _ f => ck (qpOk q) .predicate <|> ck (f ≤ 1) .function
  | .shlImm q _ _ _ => ck (qpOk q) .predicate
  | .shr q _ _ _ f => ck (qpOk q) .predicate <|> ck (f ≤ 1) .function
  | .shrImm q _ _ _ => ck (qpOk q) .predicate
  | .sra q _ _ _ f => ck (qpOk q) .predicate <|> ck (f ≤ 1) .function
  | .sraImm q _ _ _ => ck (qpOk q) .predicate
  | .setc q d _ _ f => ck (qpOk q) .predicate <|> ck (setcOk d f) .function
  | .setcImm q _ _ _ => ck (qpOk q) .predicate
  | .sel q _ _ _ _ _ => ck (qpOk q) .predicate
  | .limm q _ _ => ck (qpOk q) .predicate
  | .limmSh q _ _ => ck (qpOk q) .predicate
  | .ld z q _ _ _ => ck (qpOk q) .predicate <|> ck (z ≠ 7) .function
  | .st z q _ _ _ => ck (qpOk q) .predicate <|> ck (z ≤ 3) .function
  | .atom s _ _ _ _ f => ck (s ≤ 9) .scope <|> ck (f ≤ 18) .function
  | .cas s _ _ _ _ f => ck (s ≤ 9) .scope <|> ck (f ≤ 1) .function
  | .br c _ _ _ => ck (c ≤ 5) .condition
  | .jmp _ => none
  | .jmpL _ => none
  | .jmpi q _ => ck (qpOk q) .predicate
  | .jmpiL q _ _ => ck (qpOk q) .predicate
  | .loops a b _ => ck (a ≠ b ∨ a = 0) .registerClash
  | .loopsSet _ => none
  | .waitc q _ _ _ _ _ => ck (qpOk q) .predicate
  | .tsig q _ n c => ck (qpOk q) .predicate <|> ck (countOk n c) .function
  | .twait q _ _ n c => ck (qpOk q) .predicate <|> ck (countOk n c) .function
  | .shut q _ c => ck (qpOk q) .predicate <|> ck (c ≤ 5) .shutterCode
  | .fence q _ s k => ck (qpOk q) .predicate <|> ck (s ≤ 9) .scope <|> ck (k ≠ 3) .function
  | .tdef q _ _ => ck (qpOk q) .predicate
  | .rdsys q _ x => ck (qpOk q) .predicate <|> ck (sysRegListed x) .systemRegister
  | .wrsys q _ x => ck (qpOk q) .predicate <|> ck (sysRegListed x) .systemRegister
  | .trap q _ => ck (qpOk q) .predicate
  | .tret q => ck (qpOk q) .predicate
  | .yield q _ => ck (qpOk q) .predicate
  | .yieldLand q _ _ => ck (qpOk q) .predicate
  | .tend q => ck (qpOk q) .predicate
  | .qput q _ _ _ => ck (qpOk q) .predicate
  | .estart q _ m => ck (qpOk q) .predicate <|> ck (m ≠ 0) .streamMask
  | .etruncImm q _ _ e => ck (qpOk q) .predicate <|> ck (e ≠ 0) .streamMask
  | .etruncReg q _ _ e => ck (qpOk q) .predicate <|> ck (e ≠ 0) .streamMask
  | .launch q _ _ => ck (qpOk q) .predicate
  | .ifence q => ck (qpOk q) .predicate
  | .gctlOpen q _ _ _ => ck (qpOk q) .predicate
  | .gctlClose q _ _ k => ck (qpOk q) .predicate <|> ck (k ≠ 3) .function
  | .gctlWait q _ _ _ => ck (qpOk q) .predicate
  | .gctlCancel q _ _ => ck (qpOk q) .predicate
  | .gctlQuery q _ _ _ => ck (qpOk q) .predicate
  | .barrArm q _ _ _ _ => ck (qpOk q) .predicate
  | .barrArrive q _ _ => ck (qpOk q) .predicate
  | .barrWait q _ _ _ => ck (qpOk q) .predicate
  | .waitt q _ _ _ => ck (qpOk q) .predicate
  | .migrStart q _ _ => ck (qpOk q) .predicate
  | .migrCancel q _ _ => ck (qpOk q) .predicate
  | .migrQuery q _ _ => ck (qpOk q) .predicate
  | .invpg q a k s => ck (qpOk q) .predicate <|> ck (s ≤ 9) .scope <|> ck (k ≠ 3) .function <|> ck (k ≠ 2 ∨ a = 0) .registerClash
  | .pstf q _ _ _ _ _ => ck (qpOk q) .predicate
  | .ldoneEnd q => ck (qpOk q) .predicate
  | .ldoneRd q _ _ => ck (qpOk q) .predicate
  | .vadd q _ _ _ t => ck (qpOk q) .predicate <|> ck (t ≤ 10) .elementType
  | .vsub q _ _ _ t => ck (qpOk q) .predicate <|> ck (t ≤ 10) .elementType
  | .vmul q _ _ _ t => ck (qpOk q) .predicate <|> ck (t ≤ 10) .elementType
  | .vfma q _ _ _ t => ck (qpOk q) .predicate <|> ck (t ≤ 10) .elementType
  | .vmin q _ _ _ t => ck (qpOk q) .predicate <|> ck (t ≤ 10) .elementType
  | .vmax q _ _ _ t => ck (qpOk q) .predicate <|> ck (t ≤ 10) .elementType
  | .vrcp q _ _ t => ck (qpOk q) .predicate <|> ck (floatTy t) .elementType
  | .vexp q _ _ t => ck (qpOk q) .predicate <|> ck (floatTy t) .elementType
  | .vcmp _ _ _ t c => ck (t ≤ 10) .elementType <|> ck (condOk (floatTy t) c) .condition
  | .vsel q _ _ _ => ck (qpOk q) .predicate
  | .vbit q _ _ b o => ck (qpOk q) .predicate <|> ck (o ≤ 5) .function <|> ck (o ≤ 3 ∨ b = 0) .function
  | .vshf q _ _ _ _ w => ck (qpOk q) .predicate <|> ck (w ≠ 3) .function
  | .vcvt _ _ p _ r e f => ck (e ≤ 10 ∧ f ≤ 10) .formatCode <|> ck (r ≤ 4) .rounding <|> ck (cvtPartOk f e p) .part
  | .vred _ _ o t => ck (o ≤ 5) .function <|> ck (t ≤ 10) .elementType <|> ck (o ≤ 2 ∨ t = 1) .elementType
  | .vperm q _ _ _ => ck (qpOk q) .predicate
  | .vbcast _ _ e w => ck (w ≠ 3) .function <|> ck (e.toNat < 64 * 2 ^ w.toNat) .part
  | .vli q _ _ => ck (qpOk q) .predicate
  | .vidx q _ _ _ => ck (qpOk q) .predicate
  | .vld q _ _ _ f => ck (qpOk q) .predicate <|> ck (f ≤ 4) .function
  | .vst q _ _ _ f => ck (qpOk q) .predicate <|> ck (f ≤ 4) .function
  | .vsld q _ _ _ => ck (qpOk q) .predicate
  | .vsst q _ _ _ => ck (qpOk q) .predicate
  | .vsbind q _ _ _ _ => ck (qpOk q) .predicate
  | .vmpush _ _ q f c => ck (qpOk q) .predicate <|> ck (condOk (f = 1) c) .condition
  | .vminv q => ck (qpOk q) .predicate
  | .vmpop q _ => ck (qpOk q) .predicate
  | .bru _ o => ck (o ≠ 0 ∧ o.toNat < 4096) .offset
  | .loopv _ _ o => ck (o = 0 ∨ o.msb) .offset
  | .loopvSet _ => none
  | .vqnt _ _ _ _ _ => none
  | .vpupdSgd d a p => ck (p ≠ d ∧ p ≠ a ∧ p ≠ 0) .registerClash
  | .vpupdMom d a p g => ck (p ≠ d ∧ p ≠ a ∧ p ≠ g ∧ g ≠ d) .registerClash
  | .vpack _ _ p k => ck (k ≤ 8) .function <|> ck (packPartOk k p) .part
  | .vunpk _ _ s p k => ck (k ≤ 8) .function <|> ck (packPartOk k p) .part <|> ck (s = 0 ∨ k = 0 ∨ k = 3 ∨ k = 6) .function
  | .vtsig q _ _ => ck (qpOk q) .predicate
  | .vtwait q _ _ _ => ck (qpOk q) .predicate
  | .vshut q _ _ c => ck (qpOk q) .predicate <|> ck (c ≤ 5) .shutterCode
  | .vend q => ck (qpOk q) .predicate
  | .mzero _ _ => none
  | .mma _ _ a e _ => ck (operandOk a ∧ operandOk e) .operand
  | .mmaExt _ _ a e _ x => ck (operandOk a ∧ operandOk e) .operand <|> mmaExtCheck a e x
  | .mspb _ _ a e _ => ck (operandOk a ∧ operandOk e) .operand
  | .mspbExt _ _ a e _ x => ck (operandOk a ∧ operandOk e) .operand <|> ck (originIf a x.ora ∧ originIf e x.orb) .origin
  | .mscr _ _ a e _ => ck (operandOk a ∧ operandOk e) .operand
  | .mscrExt _ _ a e _ x => ck (operandOk a ∧ operandOk e) .operand <|> ck (originIf a x.ora ∧ originIf e x.orb) .origin
  | .mscn _ _ a e _ => ck (operandOk a ∧ operandOk e) .operand
  | .mscnExt _ _ a e _ x => ck (operandOk a ∧ operandOk e) .operand <|> ck (originIf a x.ora ∧ originIf e x.orb) .origin
  | .mrsum _ a e _ => ck (operandOk a ∧ operandOk e) .operand
  | .mdrain _ _ a => ck (operandOk a) .operand
  | .mdrainExt _ _ a x => ck (operandOk a) .operand <|> drainCheck a false x
  | .mdrainQ _ _ a e x => ck (operandOk a ∧ operandOk e) .operand <|> (match x with | some x => drainCheck a true x | none => none)
  | .mcfg _ _ _ => none
  | .mloop l _ _ _ => ck (l ≠ 0) .loopLength
  | .mtsig _ _ => none
  | .mtwait _ _ _ => none
  | .mshut _ _ c => ck (c ≤ 5) .shutterCode
  | .mend _ => none
  | .copy _ d s t => ck (operandOk d ∧ operandOk s) .operand <|> ck (t ≠ 3) .function
  | .copyExt _ d s t x => ck (operandOk d ∧ operandOk s) .operand <|> ck (t ≠ 3) .function <|> ck (originIf s x.ors ∧ originIf d x.ord) .origin <|> ck (x.rm ≤ 4) .rounding <|> ck (x.tpl ≤ 5) .pitch
  | .copyF _ d s t inner => ck (operandOk d ∧ operandOk s) .operand <|> ck (t ≠ 3) .function <|> ck (injectable inner) .injected
  | .gath _ d s x => ck (operandOk d ∧ operandOk s) .operand <|> ck (originOk x.ori) .origin <|> ck (x.tpl ≤ 5) .pitch
  | .scat _ d s x => ck (operandOk d ∧ operandOk s) .operand <|> ck (originOk x.ori) .origin <|> ck (x.tpl ≤ 5) .pitch
  | .enc _ d s => ck (operandOk d ∧ operandOk s) .operand
  | .encExt _ d s x => ck (operandOk d ∧ operandOk s) .operand <|> ck (originIf s x.ors) .origin <|> ck (x.tpl ≤ 5) .pitch
  | .dec _ d s => ck (operandOk d ∧ operandOk s) .operand
  | .decExt _ d s x => ck (operandOk d ∧ operandOk s) .operand <|> ck (originIf s x.ors ∧ originIf d x.ord) .origin <|> ck (x.tpl ≤ 5) .pitch
  | .cbload _ _ _ f c => ck (cbRangeOk f c) .entryRange
  | .fill _ d _ => ck (operandOk d) .operand
  | .clone _ d s => ck (operandOk d ∧ operandOk s) .operand
  | .cloneZero _ d => ck (operandOk d) .operand
  | .land _ _ _ _ _ x => ck (x.cell.toNat < 192) .cellNumber
  | .coll _ _ _ p x => ck (p ≤ 5) .port <|> ck (x.op ≤ 3) .function
  | .cbar _ _ k i => ck (k ≠ 3) .function <|> ck (k = 2 ∨ i = 0) .function
  | .cloop l _ _ _ => ck (l ≠ 0) .loopLength
  | .ctsig _ _ => none
  | .ctwait _ _ _ => none
  | .cshut _ _ c => ck (c ≤ 5) .shutterCode
  | .cend _ => none
  | .injectedCommandIssue _ => none
  | .engineFetch _ _ => none
  | .trapTake _ _ => none
  | .engineTrapTake _ => none
  | .cycleBoundExpiry _ _ => none
  | .reductionLimit _ => none
  | .tokenWaitSatisfied _ _ => none
  | .shutterStallRelease _ _ => none
  | .waittTargetReached _ => none
  | .barrierWaitRelease _ => none
  | .loadDataReturn _ _ _ => none
  | .writeApplyToView _ _ => none
  | .atomicExecute _ _ => none
  | .cellWindowAccess _ _ _ _ _ => none
  | .windowRegWriteApply _ => none
  | .windowAccessTimeout _ => none
  | .hostMemoryAccess _ _ _ => none
  | .pageWalk _ _ _ => none
  | .nextPageFill _ _ _ _ => none
  | .hotDecay => none
  | .dispatchTask => none
  | .codebookReplay _ => none
  | .restoreComplete _ => none
  | .taskStop _ => none
  | .mQuiesceStop _ => none
  | .taskStopped _ => none
  | .saveComplete _ => none
  | .taskRetire _ => none
  | .preemptEval => none
  | .queueTake _ => none
  | .weirSample .. => none
  | .occupancyPublish _ => none
  | .stealRequest _ => none
  | .stealGrant _ _ => none
  | .stealAck _ => none
  | .remoteGroupMessage .. => none
  | .landingArrival _ _ => none
  | .landingServe _ => none
  | .wicketOverrun _ _ => none
  | .peerStoreArrival _ => none
  | .peerStoreAck _ _ => none
  | .packetLossDeclare _ => none
  | .collChunkArrival _ _ _ _ _ _ => none
  | .barrierArrival => none
  | .phaseTimeBoundary _ => none
  | .migrationLineCopy _ => none
  | .switchOver _ => none
  | .migrationShootdownComplete _ => none
  | .migrationAbort _ _ => none
  | .abortShootdownComplete _ => none
  | .contextRelease _ => none
  | .residencyPeriod _ => none
  | .ctxtblWrite _ => none
  | .ctxCreate _ => none
  | .ctxDestroy _ => none
  | .ctxFault _ => none
  | .ctxResume _ => none
  | .qtblWrite _ => none
  | .queueCreate _ => none
  | .queueOpen _ => none
  | .queueClose _ => none
  | .queueDestroy _ => none
  | .queuePut _ => none
  | .gtblWrite _ => none
  | .jobstart _ _ => none
  | .gfree _ => none
  | .btblWrite _ => none
  | .pginvCmd _ _ => none
  | .portControlWrite _ _ => none
  | .portPartnerDetect _ => none
  | .portTrained _ _ => none
  | .portTrainingTimeout _ => none
  | .portCalibration _ _ => none
  | .portLaneFailure _ => none
  | .portSignalLoss _ => none
  | .flitCrcFail _ => none
  | .syncMessage .. => none
  | .lockTimeout => none
  | .cellHalt _ => none
  | .cellStopComplete _ => none
  | .cellResume _ => none
  | .cellStep _ _ => none
  | .breakpointMatch _ => none
  | .sampleLatch _ => none
  | .cellFence _ _ => none
  | .moduleHalt _ _ => none
  | .correctableError _ => none
  | .blackBoxFreeze => none
  | .blackBoxUnfreeze => none
  | .bbRidx _ => none
  | .powerOn _ => none
  | .rstcmd _ _ => none
  | .powerLoss => none
  | .attGo => none
  | .attestationSignComplete => none
  | .configBlockAccept _ => none
  | .thermalSensorUpdate _ _ _ => none
  | .clockStep _ => none
  | .hbmTempUpdate _ _ => none
  | .coolantSample _ _ => none
  | .registerWrite _ _ => none
  | .commandCompletion _ _ => none
  | .landingCredit _ _ _ => none
  | .remoteGroupReply _ _ => none
  | .stolenTaskReturn _ => none
  | .hostPortLaneFailure _ => none
  | .uncorrectableDataError _ => none
  | .fusedMinimumRaise => none

/-- No check of R110 fails. -/
def Instr.wellFormed (i : Instr) : Bool := i.check.isNone

end Sys2Proof
end

