-- ==== Sys2Proof/Decode.lean ====
section
/-! DEFINITION. The decoder and encoder of Izsyn words (R109 to R120), from the formats of R115 to R117
and the opcode map of R120. -/

namespace Sys2Proof

/-- The `n` bits of `w` from bit `lo` up. -/
def fld (w : Word) (lo n : Nat) : BitVec n := w.extractLsb' lo n

/-- Places the field `x` at bit `lo` of a word whose bits there are 0. -/
def put {n : Nat} (w : Word) (lo : Nat) (x : BitVec n) : Word := w ||| (x.setWidth 32 <<< lo)

/-- Why a word is not an instruction (R110). -/
inductive DecodeError where
  /-- no row of the stream's opcode map fits: an unassigned opcode, a reserved bit of 1, a wrong form or
  a wrong extension marker -/
  | unassigned
  /-- a field holds a value that the entry does not list -/
  | illFormed (e : IllFormed)
  deriving DecidableEq, Repr

/-- Reads the extension word of R239; its reserved bits are 0. -/
def parseMmaQ (w : Word) : Option MmaQ :=
  some ⟨fld w 25 7, fld w 21 4, fld w 17 4, fld w 13 4, fld w 12 1, fld w 11 1, fld w 10 1, fld w 9 1, fld w 8 1, fld w 7 1, fld w 4 3, fld w 3 1, fld w 0 3⟩

/-- Writes the extension word of R239. -/
def encodeMmaQ (x : MmaQ) : Word :=
  put (put (put (put (put (put (put (put (put (put (put (put (put 0 25 x.kl) 21 x.orb) 17 x.ork) 13 x.ora) 12 x.rnb) 11 x.lb) 10 x.rna) 9 x.la) 8 x.sat) 7 x.ub) 4 x.tb) 3 x.ua) 0 x.ta

/-- Reads the extension word of R242; its reserved bits are 0. -/
def parseSparseQ (w : Word) : Option SparseQ :=
  if fld w 25 7 = 0 then some ⟨fld w 24 1, fld w 23 1, fld w 22 1, fld w 21 1, fld w 20 1, fld w 16 4, fld w 12 4, fld w 6 6, fld w 0 6⟩ else none

/-- Writes the extension word of R242. -/
def encodeSparseQ (x : SparseQ) : Word :=
  put (put (put (put (put (put (put (put (put (put 0 25 0#7) 24 x.rnb) 23 x.lb) 22 x.rna) 21 x.la) 20 x.sat) 16 x.orb) 12 x.ora) 6 x.cq) 0 x.rq

/-- Reads the extension word of R249; its reserved bits are 0. -/
def parseDrainQ (w : Word) : Option DrainQ :=
  if fld w 31 1 = 0 then some ⟨fld w 30 1, fld w 26 4, fld w 22 4, fld w 16 6, fld w 10 6, fld w 8 2, fld w 7 1, fld w 4 3, fld w 0 4⟩ else none

/-- Writes the extension word of R249. -/
def encodeDrainQ (x : DrainQ) : Word :=
  put (put (put (put (put (put (put (put (put (put 0 31 0#1) 30 x.cr) 26 x.orc) 22 x.ord) 16 x.cq) 10 x.rq) 8 x.ak) 7 x.satf) 4 x.rm) 0 x.f

/-- Reads the extension word of R252; its reserved bits are 0. -/
def parseCfgQ (w : Word) : Option CfgQ :=
  if fld w 23 9 = 0 then some ⟨fld w 22 1, fld w 16 6, fld w 0 16⟩ else none

/-- Writes the extension word of R252. -/
def encodeCfgQ (x : CfgQ) : Word :=
  put (put (put (put 0 23 0#9) 22 x.mode) 16 x.levee) 0 x.split

/-- Reads the extension word of R264; its reserved bits are 0. -/
def parseCopyQ (w : Word) : Option CopyQ :=
  some ⟨fld w 28 4, fld w 24 4, fld w 16 8, fld w 10 6, fld w 8 2, fld w 7 1, fld w 4 3, fld w 3 1, fld w 0 3⟩

/-- Writes the extension word of R264. -/
def encodeCopyQ (x : CopyQ) : Word :=
  put (put (put (put (put (put (put (put (put 0 28 x.ors) 24 x.ord) 16 x.rows) 10 x.elems) 8 x.pn) 7 x.rn) 4 x.rm) 3 x.satf) 0 x.tpl

/-- Reads the extension word of R269; its reserved bits are 0. -/
def parseRowQ (w : Word) : Option RowQ :=
  if fld w 0 6 = 0 then some ⟨fld w 24 8, fld w 16 8, fld w 12 4, fld w 9 3, fld w 7 2, fld w 6 1⟩ else none

/-- Writes the extension word of R269. -/
def encodeRowQ (x : RowQ) : Word :=
  put (put (put (put (put (put (put 0 24 x.lt) 16 x.count) 12 x.ori) 9 x.tpl) 7 x.pn) 6 x.rn) 0 0#6

/-- Reads the extension word of R273; its reserved bits are 0. -/
def parseEncQ (w : Word) : Option EncQ :=
  if fld w 0 25 = 0 then some ⟨fld w 28 4, fld w 25 3⟩ else none

/-- Writes the extension word of R273. -/
def encodeEncQ (x : EncQ) : Word :=
  put (put (put 0 28 x.ors) 25 x.tpl) 0 0#25

/-- Reads the extension word of R275; its reserved bits are 0. -/
def parseDecQ (w : Word) : Option DecQ :=
  if fld w 3 2 = 0 then some ⟨fld w 28 4, fld w 24 4, fld w 16 8, fld w 8 8, fld w 6 2, fld w 5 1, fld w 0 3⟩ else none

/-- Writes the extension word of R275. -/
def encodeDecQ (x : DecQ) : Word :=
  put (put (put (put (put (put (put (put 0 28 x.ors) 24 x.ord) 16 x.rows) 8 x.padb) 6 x.pn) 5 x.rn) 3 0#2) 0 x.tpl

/-- Reads the extension word of R280; its reserved bits are 0. -/
def parseLandQ (w : Word) : Option LandQ :=
  some ⟨fld w 28 4, fld w 24 4, fld w 20 4, fld w 12 8, fld w 0 12⟩

/-- Writes the extension word of R280. -/
def encodeLandQ (x : LandQ) : Word :=
  put (put (put (put (put 0 28 x.x) 24 x.y) 20 x.z) 12 x.cell) 0 x.tag

/-- Reads the extension word of R281; its reserved bits are 0. -/
def parseCollQ (w : Word) : Option CollQ :=
  if fld w 0 14 = 0 then some ⟨fld w 28 4, fld w 20 8, fld w 14 6⟩ else none

/-- Writes the extension word of R281. -/
def encodeCollQ (x : CollQ) : Word :=
  put (put (put (put 0 28 x.op) 20 x.tag) 14 x.nl) 0 0#14

/-- The fields of an S word under the opcode map (R115 to R120), reserved bits checked. -/
def parseS (w : Word) : Option Instr :=
  match (fld w 26 6).toNat with
  | 1 => if fld w 25 1 = 0 then some (.add (fld w 21 4) (fld w 16 5) (fld w 11 5) (fld w 6 5) (fld w 0 6))
      else if fld w 25 1 = 1 then some (.addImm (fld w 21 4) (fld w 16 5) (fld w 11 5) (fld w 0 11)) else none
  | 2 => if fld w 25 1 = 0 then some (.sub (fld w 21 4) (fld w 16 5) (fld w 11 5) (fld w 6 5) (fld w 0 6))
      else if fld w 25 1 = 1 then some (.subImm (fld w 21 4) (fld w 16 5) (fld w 11 5) (fld w 0 11)) else none
  | 3 => if fld w 25 1 = 0 then some (.mul (fld w 21 4) (fld w 16 5) (fld w 11 5) (fld w 6 5) (fld w 0 6))
      else if fld w 25 1 = 1 then some (.mulImm (fld w 21 4) (fld w 16 5) (fld w 11 5) (fld w 0 11)) else none
  | 4 => if fld w 25 1 = 0 then some (.mulh (fld w 21 4) (fld w 16 5) (fld w 11 5) (fld w 6 5) (fld w 0 6))
      else if fld w 25 1 = 1 then some (.mulhImm (fld w 21 4) (fld w 16 5) (fld w 11 5) (fld w 0 11)) else none
  | 5 => if fld w 25 1 = 0 then some (.div (fld w 21 4) (fld w 16 5) (fld w 11 5) (fld w 6 5) (fld w 0 6))
      else if fld w 25 1 = 1 then some (.divImm (fld w 21 4) (fld w 16 5) (fld w 11 5) (fld w 0 11)) else none
  | 6 => if fld w 25 1 = 0 then some (.rem (fld w 21 4) (fld w 16 5) (fld w 11 5) (fld w 6 5) (fld w 0 6))
      else if fld w 25 1 = 1 then some (.remImm (fld w 21 4) (fld w 16 5) (fld w 11 5) (fld w 0 11)) else none
  | 7 => if fld w 25 1 = 0 then some (.and (fld w 21 4) (fld w 16 5) (fld w 11 5) (fld w 6 5) (fld w 0 6))
      else if fld w 25 1 = 1 then some (.andImm (fld w 21 4) (fld w 16 5) (fld w 11 5) (fld w 0 11)) else none
  | 8 => if fld w 25 1 = 0 then some (.or (fld w 21 4) (fld w 16 5) (fld w 11 5) (fld w 6 5) (fld w 0 6))
      else if fld w 25 1 = 1 then some (.orImm (fld w 21 4) (fld w 16 5) (fld w 11 5) (fld w 0 11)) else none
  | 9 => if fld w 25 1 = 0 then some (.xor (fld w 21 4) (fld w 16 5) (fld w 11 5) (fld w 6 5) (fld w 0 6))
      else if fld w 25 1 = 1 then some (.xorImm (fld w 21 4) (fld w 16 5) (fld w 11 5) (fld w 0 11)) else none
  | 10 => if fld w 25 1 = 0 then some (.shl (fld w 21 4) (fld w 16 5) (fld w 11 5) (fld w 6 5) (fld w 0 6))
      else if fld w 25 1 = 1 then some (.shlImm (fld w 21 4) (fld w 16 5) (fld w 11 5) (fld w 0 11)) else none
  | 11 => if fld w 25 1 = 0 then some (.shr (fld w 21 4) (fld w 16 5) (fld w 11 5) (fld w 6 5) (fld w 0 6))
      else if fld w 25 1 = 1 then some (.shrImm (fld w 21 4) (fld w 16 5) (fld w 11 5) (fld w 0 11)) else none
  | 12 => if fld w 25 1 = 0 then some (.sra (fld w 21 4) (fld w 16 5) (fld w 11 5) (fld w 6 5) (fld w 0 6))
      else if fld w 25 1 = 1 then some (.sraImm (fld w 21 4) (fld w 16 5) (fld w 11 5) (fld w 0 11)) else none
  | 13 => if fld w 25 1 = 0 then some (.setc (fld w 21 4) (fld w 16 5) (fld w 11 5) (fld w 6 5) (fld w 0 6))
      else if fld w 25 1 = 1 then some (.setcImm (fld w 21 4) (fld w 16 5) (fld w 11 5) (fld w 0 11)) else none
  | 14 => if fld w 25 1 = 0 then some (.sel (fld w 21 4) (fld w 16 5) (fld w 11 5) (fld w 6 5) (fld w 5 1) (fld w 0 5)) else none
  | 15 => if fld w 25 1 = 0 then some (.limm (fld w 21 4) (fld w 16 5) (fld w 0 16))
      else if fld w 25 1 = 1 then some (.limmSh (fld w 21 4) (fld w 16 5) (fld w 0 16)) else none
  | 16 => some (.ld (fld w 23 3) (fld w 19 4) (fld w 14 5) (fld w 9 5) (fld w 0 9))
  | 17 => some (.st (fld w 23 3) (fld w 19 4) (fld w 14 5) (fld w 9 5) (fld w 0 9))
  | 18 => some (.atom (fld w 22 4) (fld w 20 2) (fld w 15 5) (fld w 10 5) (fld w 5 5) (fld w 0 5))
  | 19 => some (.cas (fld w 22 4) (fld w 20 2) (fld w 15 5) (fld w 10 5) (fld w 5 5) (fld w 0 5))
  | 20 => some (.br (fld w 23 3) (fld w 18 5) (fld w 13 5) (fld w 0 13))
  | 21 => if fld w 25 1 = 0 then some (.jmp (fld w 0 25))
      else if fld w 25 1 = 1 then some (.jmpL (fld w 0 25)) else none
  | 22 => if fld w 25 1 = 0 && fld w 16 5 = 0 && fld w 0 11 = 0 then some (.jmpi (fld w 21 4) (fld w 11 5))
      else if fld w 25 1 = 0 && fld w 0 11 = 1 then some (.jmpiL (fld w 21 4) (fld w 16 5) (fld w 11 5)) else none
  | 23 => if fld w 23 3 = 0 then some (.loops (fld w 18 5) (fld w 13 5) (fld w 0 13))
      else if fld w 23 3 = 1 && fld w 0 18 = 0 then some (.loopsSet (fld w 18 5)) else none
  | 24 => some (.waitc (fld w 22 4) (fld w 18 4) (fld w 13 5) (fld w 8 5) (fld w 4 4) (fld w 0 4))
  | 25 => if fld w 18 4 = 0 then some (.tsig (fld w 22 4) (fld w 13 5) (fld w 12 1) (fld w 0 12)) else none
  | 26 => some (.twait (fld w 22 4) (fld w 18 4) (fld w 13 5) (fld w 12 1) (fld w 0 12))
  | 27 => if fld w 18 4 = 0 && fld w 0 8 = 0 then some (.shut (fld w 22 4) (fld w 11 7) (fld w 8 3)) else none
  | 28 => if fld w 0 12 = 0 then some (.fence (fld w 22 4) (fld w 18 4) (fld w 14 4) (fld w 12 2)) else none
  | 29 => if fld w 25 1 = 0 && fld w 16 5 = 0 && fld w 8 3 = 0 then some (.tdef (fld w 21 4) (fld w 11 5) (fld w 0 8)) else none
  | 30 => if fld w 25 1 = 0 && fld w 11 5 = 0 then some (.rdsys (fld w 21 4) (fld w 16 5) (fld w 0 11)) else none
  | 31 => if fld w 25 1 = 0 && fld w 16 5 = 0 then some (.wrsys (fld w 21 4) (fld w 11 5) (fld w 0 11)) else none
  | 32 => if fld w 25 1 = 0 && fld w 11 10 = 0 then some (.trap (fld w 21 4) (fld w 0 11)) else none
  | 33 => if fld w 25 1 = 0 && fld w 0 21 = 0 then some (.tret (fld w 21 4)) else none
  | 34 => if fld w 25 1 = 0 && fld w 11 5 = 0 && fld w 0 11 = 0 then some (.yield (fld w 21 4) (fld w 16 5))
      else if fld w 25 1 = 0 && fld w 0 11 = 1 then some (.yieldLand (fld w 21 4) (fld w 16 5) (fld w 11 5)) else none
  | 35 => if fld w 25 1 = 0 && fld w 0 21 = 0 then some (.tend (fld w 21 4)) else none
  | 36 => if fld w 25 1 = 0 then some (.qput (fld w 21 4) (fld w 16 5) (fld w 11 5) (fld w 0 11)) else none
  | 37 => if fld w 25 1 = 0 && fld w 16 5 = 0 && fld w 3 8 = 0 then some (.estart (fld w 21 4) (fld w 11 5) (fld w 0 3)) else none
  | 38 => if fld w 25 1 = 0 && fld w 11 5 = 0 && fld w 2 1 = 1 then some (.etruncImm (fld w 21 4) (fld w 16 5) (fld w 3 8) (fld w 0 2))
      else if fld w 25 1 = 0 && fld w 3 8 = 0 && fld w 2 1 = 0 then some (.etruncReg (fld w 21 4) (fld w 16 5) (fld w 11 5) (fld w 0 2)) else none
  | 39 => if fld w 25 1 = 0 && fld w 0 11 = 0 then some (.launch (fld w 21 4) (fld w 16 5) (fld w 11 5)) else none
  | 40 => if fld w 25 1 = 0 && fld w 0 21 = 0 then some (.ifence (fld w 21 4)) else none
  | 41 => if fld w 25 1 = 0 && fld w 9 2 = 0 && fld w 5 4 = 0 && fld w 0 3 = 0 then some (.gctlOpen (fld w 21 4) (fld w 16 5) (fld w 11 5) (fld w 3 2))
      else if fld w 25 1 = 0 && fld w 9 2 = 0 && fld w 5 4 = 0 && fld w 0 3 = 1 then some (.gctlClose (fld w 21 4) (fld w 16 5) (fld w 11 5) (fld w 3 2))
      else if fld w 25 1 = 0 && fld w 9 2 = 0 && fld w 4 1 = 0 && fld w 3 1 = 0 && fld w 0 3 = 2 then some (.gctlWait (fld w 21 4) (fld w 16 5) (fld w 11 5) (fld w 5 4))
      else if fld w 25 1 = 0 && fld w 9 2 = 0 && fld w 5 4 = 0 && fld w 4 1 = 0 && fld w 3 1 = 0 && fld w 0 3 = 3 then some (.gctlCancel (fld w 21 4) (fld w 16 5) (fld w 11 5))
      else if fld w 25 1 = 0 && fld w 9 2 = 0 && fld w 5 4 = 0 && fld w 4 1 = 0 && fld w 0 3 = 4 then some (.gctlQuery (fld w 21 4) (fld w 16 5) (fld w 11 5) (fld w 3 1)) else none
  | 42 => if fld w 25 1 = 0 && fld w 0 2 = 0 then some (.barrArm (fld w 21 4) (fld w 16 5) (fld w 11 5) (fld w 10 1) (fld w 2 8))
      else if fld w 25 1 = 0 && fld w 16 5 = 0 && fld w 10 1 = 0 && fld w 0 2 = 1 then some (.barrArrive (fld w 21 4) (fld w 11 5) (fld w 2 8))
      else if fld w 25 1 = 0 && fld w 10 1 = 0 && fld w 6 4 = 0 && fld w 0 2 = 2 then some (.barrWait (fld w 21 4) (fld w 16 5) (fld w 11 5) (fld w 2 4)) else none
  | 43 => if fld w 25 1 = 0 && fld w 4 7 = 0 then some (.waitt (fld w 21 4) (fld w 16 5) (fld w 11 5) (fld w 0 4)) else none
  | 44 => if fld w 25 1 = 0 && fld w 0 11 = 0 then some (.migrStart (fld w 21 4) (fld w 16 5) (fld w 11 5))
      else if fld w 25 1 = 0 && fld w 0 11 = 1 then some (.migrCancel (fld w 21 4) (fld w 16 5) (fld w 11 5))
      else if fld w 25 1 = 0 && fld w 0 11 = 2 then some (.migrQuery (fld w 21 4) (fld w 16 5) (fld w 11 5)) else none
  | 45 => if fld w 25 1 = 0 && fld w 16 5 = 0 && fld w 6 5 = 0 then some (.invpg (fld w 21 4) (fld w 11 5) (fld w 4 2) (fld w 0 4)) else none
  | 46 => if fld w 25 1 = 0 && fld w 3 3 = 0 then some (.pstf (fld w 21 4) (fld w 16 5) (fld w 11 5) (fld w 6 5) (fld w 2 1) (fld w 0 2)) else none
  | 47 => if fld w 25 1 = 0 && fld w 11 10 = 0 && fld w 0 11 = 0 then some (.ldoneEnd (fld w 21 4))
      else if fld w 25 1 = 0 && fld w 0 11 = 1 then some (.ldoneRd (fld w 21 4) (fld w 16 5) (fld w 11 5)) else none
  | _ => none

/-- The fields of an V word under the opcode map (R115 to R120), reserved bits checked. -/
def parseV (w : Word) : Option Instr :=
  match (fld w 26 6).toNat with
  | 1 => some (.vadd (fld w 22 4) (fld w 16 6) (fld w 10 6) (fld w 4 6) (fld w 0 4))
  | 2 => some (.vsub (fld w 22 4) (fld w 16 6) (fld w 10 6) (fld w 4 6) (fld w 0 4))
  | 3 => some (.vmul (fld w 22 4) (fld w 16 6) (fld w 10 6) (fld w 4 6) (fld w 0 4))
  | 4 => some (.vfma (fld w 22 4) (fld w 16 6) (fld w 10 6) (fld w 4 6) (fld w 0 4))
  | 5 => some (.vmin (fld w 22 4) (fld w 16 6) (fld w 10 6) (fld w 4 6) (fld w 0 4))
  | 6 => some (.vmax (fld w 22 4) (fld w 16 6) (fld w 10 6) (fld w 4 6) (fld w 0 4))
  | 7 => if fld w 4 6 = 0 then some (.vrcp (fld w 22 4) (fld w 16 6) (fld w 10 6) (fld w 0 4)) else none
  | 8 => if fld w 4 6 = 0 then some (.vexp (fld w 22 4) (fld w 16 6) (fld w 10 6) (fld w 0 4)) else none
  | 9 => if fld w 7 1 = 0 then some (.vcmp (fld w 20 6) (fld w 14 6) (fld w 8 6) (fld w 3 4) (fld w 0 3)) else none
  | 10 => if fld w 0 4 = 0 then some (.vsel (fld w 22 4) (fld w 16 6) (fld w 10 6) (fld w 4 6)) else none
  | 11 => some (.vbit (fld w 22 4) (fld w 16 6) (fld w 10 6) (fld w 4 6) (fld w 0 4))
  | 12 => some (.vshf (fld w 22 4) (fld w 16 6) (fld w 10 6) (fld w 4 6) (fld w 2 2) (fld w 0 2))
  | 13 => some (.vcvt (fld w 20 6) (fld w 14 6) (fld w 12 2) (fld w 11 1) (fld w 8 3) (fld w 4 4) (fld w 0 4))
  | 14 => if fld w 7 7 = 0 then some (.vred (fld w 20 6) (fld w 14 6) (fld w 4 3) (fld w 0 4)) else none
  | 15 => if fld w 0 4 = 0 then some (.vperm (fld w 22 4) (fld w 16 6) (fld w 10 6) (fld w 4 6)) else none
  | 16 => if fld w 10 4 = 0 then some (.vbcast (fld w 20 6) (fld w 14 6) (fld w 2 8) (fld w 0 2)) else none
  | 17 => some (.vli (fld w 22 4) (fld w 16 6) (fld w 0 16))
  | 18 => some (.vidx (fld w 22 4) (fld w 16 6) (fld w 8 8) (fld w 0 8))
  | 19 => some (.vld (fld w 22 4) (fld w 16 6) (fld w 9 7) (fld w 3 6) (fld w 0 3))
  | 20 => some (.vst (fld w 22 4) (fld w 16 6) (fld w 9 7) (fld w 3 6) (fld w 0 3))
  | 21 => if fld w 1 12 = 0 then some (.vsld (fld w 22 4) (fld w 16 6) (fld w 13 3) (fld w 0 1)) else none
  | 22 => if fld w 1 12 = 0 then some (.vsst (fld w 22 4) (fld w 16 6) (fld w 13 3) (fld w 0 1)) else none
  | 23 => some (.vsbind (fld w 22 4) (fld w 16 6) (fld w 13 3) (fld w 6 7) (fld w 0 6))
  | 24 => if fld w 20 6 = 0 then some (.vmpush (fld w 14 6) (fld w 8 6) (fld w 4 4) (fld w 3 1) (fld w 0 3)) else none
  | 25 => if fld w 0 22 = 0 then some (.vminv (fld w 22 4)) else none
  | 26 => if fld w 4 18 = 0 then some (.vmpop (fld w 22 4) (fld w 0 4)) else none
  | 27 => if fld w 13 12 = 0 then some (.bru (fld w 25 1) (fld w 0 13)) else none
  | 28 => if fld w 25 1 = 0 then some (.loopv (fld w 16 9) (fld w 13 3) (fld w 0 13))
      else if fld w 25 1 = 1 && fld w 21 4 = 0 && fld w 0 13 = 0 then some (.loopvSet (fld w 13 8)) else none
  | 29 => if fld w 11 1 = 0 then some (.vqnt (fld w 20 6) (fld w 14 6) (fld w 12 2) (fld w 7 4) (fld w 0 7)) else none
  | 30 => if fld w 12 2 = 0 && fld w 0 6 = 0 then some (.vpupdSgd (fld w 20 6) (fld w 14 6) (fld w 6 6))
      else if fld w 12 2 = 1 then some (.vpupdMom (fld w 20 6) (fld w 14 6) (fld w 6 6) (fld w 0 6)) else none
  | 31 => if fld w 9 5 = 0 then some (.vpack (fld w 20 6) (fld w 14 6) (fld w 4 5) (fld w 0 4)) else none
  | 32 => if fld w 9 4 = 0 then some (.vunpk (fld w 20 6) (fld w 14 6) (fld w 13 1) (fld w 4 5) (fld w 0 4)) else none
  | 33 => if fld w 18 4 = 0 && fld w 12 1 = 0 then some (.vtsig (fld w 22 4) (fld w 13 5) (fld w 0 12)) else none
  | 34 => if fld w 12 1 = 0 then some (.vtwait (fld w 22 4) (fld w 18 4) (fld w 13 5) (fld w 0 12)) else none
  | 35 => if fld w 0 8 = 0 then some (.vshut (fld w 22 4) (fld w 18 4) (fld w 11 7) (fld w 8 3)) else none
  | 36 => if fld w 0 22 = 0 then some (.vend (fld w 22 4)) else none
  | _ => none

/-- The fields of an M word under the opcode map (R115 to R120), reserved bits checked. -/
def parseM (w ext : Word) : Option Instr :=
  match (fld w 26 6).toNat with
  | 1 => if fld w 25 1 = 0 && fld w 4 17 = 0 then some (.mzero (fld w 21 4) (fld w 0 4)) else none
  | 2 => if fld w 25 1 = 0 then some (.mma (fld w 21 4) (fld w 19 2) (fld w 10 9) (fld w 1 9) (fld w 0 1))
      else if fld w 25 1 = 1 then (parseMmaQ ext).map fun x => .mmaExt (fld w 21 4) (fld w 19 2) (fld w 10 9) (fld w 1 9) (fld w 0 1) x else none
  | 3 => if fld w 25 1 = 0 then some (.mspb (fld w 21 4) (fld w 19 2) (fld w 10 9) (fld w 1 9) (fld w 0 1))
      else if fld w 25 1 = 1 then (parseSparseQ ext).map fun x => .mspbExt (fld w 21 4) (fld w 19 2) (fld w 10 9) (fld w 1 9) (fld w 0 1) x else none
  | 4 => if fld w 25 1 = 0 then some (.mscr (fld w 21 4) (fld w 19 2) (fld w 10 9) (fld w 1 9) (fld w 0 1))
      else if fld w 25 1 = 1 then (parseSparseQ ext).map fun x => .mscrExt (fld w 21 4) (fld w 19 2) (fld w 10 9) (fld w 1 9) (fld w 0 1) x else none
  | 5 => if fld w 25 1 = 0 then some (.mscn (fld w 21 4) (fld w 19 2) (fld w 10 9) (fld w 1 9) (fld w 0 1))
      else if fld w 25 1 = 1 then (parseSparseQ ext).map fun x => .mscnExt (fld w 21 4) (fld w 19 2) (fld w 10 9) (fld w 1 9) (fld w 0 1) x else none
  | 6 => if fld w 25 1 = 0 && fld w 19 2 = 0 then some (.mrsum (fld w 21 4) (fld w 10 9) (fld w 1 9) (fld w 0 1)) else none
  | 7 => if fld w 25 1 = 0 && fld w 1 9 = 0 && fld w 0 1 = 0 then some (.mdrain (fld w 21 4) (fld w 19 2) (fld w 10 9))
      else if fld w 25 1 = 1 && fld w 1 9 = 0 && fld w 0 1 = 0 then (parseDrainQ ext).map fun x => .mdrainExt (fld w 21 4) (fld w 19 2) (fld w 10 9) x
      else if fld w 25 1 = 0 && fld w 0 1 = 1 then some (.mdrainQ (fld w 21 4) (fld w 19 2) (fld w 10 9) (fld w 1 9) none)
      else if fld w 25 1 = 1 && fld w 0 1 = 1 then (parseDrainQ ext).map fun x => .mdrainQ (fld w 21 4) (fld w 19 2) (fld w 10 9) (fld w 1 9) (some x) else none
  | 8 => if fld w 25 1 = 1 && fld w 3 18 = 0 then (parseCfgQ ext).map fun x => .mcfg (fld w 21 4) (fld w 0 3) x else none
  | 9 => if fld w 21 5 = 0 then some (.mloop (fld w 15 6) (fld w 7 8) (fld w 4 3) (fld w 0 4)) else none
  | 10 => if fld w 18 8 = 0 && fld w 12 1 = 0 then some (.mtsig (fld w 13 5) (fld w 0 12)) else none
  | 11 => if fld w 25 1 = 0 && fld w 18 3 = 0 && fld w 12 1 = 0 then some (.mtwait (fld w 21 4) (fld w 13 5) (fld w 0 12)) else none
  | 12 => if fld w 25 1 = 0 && fld w 18 3 = 0 && fld w 0 8 = 0 then some (.mshut (fld w 21 4) (fld w 11 7) (fld w 8 3)) else none
  | 13 => if fld w 25 1 = 0 && fld w 0 21 = 0 then some (.mend (fld w 21 4)) else none
  | _ => none

/-- The fields of an C word under the opcode map (R115 to R120), reserved bits checked. -/
def parseC (w ext : Word) : Option Instr :=
  match (fld w 26 6).toNat with
  | 1 => if fld w 25 1 = 0 && fld w 0 1 = 0 then some (.copy (fld w 21 4) (fld w 12 9) (fld w 3 9) (fld w 1 2))
      else if fld w 25 1 = 1 && fld w 0 1 = 0 then (parseCopyQ ext).map fun x => .copyExt (fld w 21 4) (fld w 12 9) (fld w 3 9) (fld w 1 2) x
      else if fld w 25 1 = 1 && fld w 0 1 = 1 then some (.copyF (fld w 21 4) (fld w 12 9) (fld w 3 9) (fld w 1 2) ext) else none
  | 2 => if fld w 25 1 = 1 && fld w 0 3 = 0 then (parseRowQ ext).map fun x => .gath (fld w 21 4) (fld w 12 9) (fld w 3 9) x else none
  | 3 => if fld w 25 1 = 1 && fld w 0 3 = 0 then (parseRowQ ext).map fun x => .scat (fld w 21 4) (fld w 12 9) (fld w 3 9) x else none
  | 4 => if fld w 25 1 = 0 && fld w 0 3 = 0 then some (.enc (fld w 21 4) (fld w 12 9) (fld w 3 9))
      else if fld w 25 1 = 1 && fld w 0 3 = 0 then (parseEncQ ext).map fun x => .encExt (fld w 21 4) (fld w 12 9) (fld w 3 9) x else none
  | 5 => if fld w 25 1 = 0 && fld w 0 3 = 0 then some (.dec (fld w 21 4) (fld w 12 9) (fld w 3 9))
      else if fld w 25 1 = 1 && fld w 0 3 = 0 then (parseDecQ ext).map fun x => .decExt (fld w 21 4) (fld w 12 9) (fld w 3 9) x else none
  | 6 => if fld w 25 1 = 0 && fld w 8 4 = 0 then some (.cbload (fld w 21 4) (fld w 20 1) (fld w 12 8) (fld w 4 4) (fld w 0 4)) else none
  | 7 => if fld w 25 1 = 1 && fld w 3 9 = 0 && fld w 0 3 = 0 then some (.fill (fld w 21 4) (fld w 12 9) ext) else none
  | 8 => if fld w 25 1 = 0 && fld w 0 3 = 0 then some (.clone (fld w 21 4) (fld w 12 9) (fld w 3 9))
      else if fld w 25 1 = 0 && fld w 3 9 = 0 && fld w 0 3 = 1 then some (.cloneZero (fld w 21 4) (fld w 12 9)) else none
  | 9 => if fld w 25 1 = 1 then (parseLandQ ext).map fun x => .land (fld w 21 4) (fld w 14 7) (fld w 8 6) (fld w 3 5) (fld w 0 3) x else none
  | 10 => if fld w 25 1 = 1 && fld w 0 4 = 0 then (parseCollQ ext).map fun x => .coll (fld w 21 4) (fld w 14 7) (fld w 7 7) (fld w 4 3) x else none
  | 11 => if fld w 25 1 = 0 then some (.cbar (fld w 21 4) (fld w 13 8) (fld w 11 2) (fld w 0 11)) else none
  | 12 => if fld w 21 5 = 0 then some (.cloop (fld w 15 6) (fld w 7 8) (fld w 4 3) (fld w 0 4)) else none
  | 13 => if fld w 18 8 = 0 && fld w 12 1 = 0 then some (.ctsig (fld w 13 5) (fld w 0 12)) else none
  | 14 => if fld w 25 1 = 0 && fld w 18 3 = 0 && fld w 12 1 = 0 then some (.ctwait (fld w 21 4) (fld w 13 5) (fld w 0 12)) else none
  | 15 => if fld w 25 1 = 0 && fld w 18 3 = 0 && fld w 0 8 = 0 then some (.cshut (fld w 21 4) (fld w 11 7) (fld w 8 3)) else none
  | 16 => if fld w 25 1 = 0 && fld w 0 21 = 0 then some (.cend (fld w 21 4)) else none
  | _ => none

/-- The stream whose opcode space an instruction belongs to; `none` for an event. -/
def Instr.stream (i : Instr) : Option Stream :=
  match i with
  | .add .. => some .s
  | .addImm .. => some .s
  | .sub .. => some .s
  | .subImm .. => some .s
  | .mul .. => some .s
  | .mulImm .. => some .s
  | .mulh .. => some .s
  | .mulhImm .. => some .s
  | .div .. => some .s
  | .divImm .. => some .s
  | .rem .. => some .s
  | .remImm .. => some .s
  | .and .. => some .s
  | .andImm .. => some .s
  | .or .. => some .s
  | .orImm .. => some .s
  | .xor .. => some .s
  | .xorImm .. => some .s
  | .shl .. => some .s
  | .shlImm .. => some .s
  | .shr .. => some .s
  | .shrImm .. => some .s
  | .sra .. => some .s
  | .sraImm .. => some .s
  | .setc .. => some .s
  | .setcImm .. => some .s
  | .sel .. => some .s
  | .limm .. => some .s
  | .limmSh .. => some .s
  | .ld .. => some .s
  | .st .. => some .s
  | .atom .. => some .s
  | .cas .. => some .s
  | .br .. => some .s
  | .jmp .. => some .s
  | .jmpL .. => some .s
  | .jmpi .. => some .s
  | .jmpiL .. => some .s
  | .loops .. => some .s
  | .loopsSet .. => some .s
  | .waitc .. => some .s
  | .tsig .. => some .s
  | .twait .. => some .s
  | .shut .. => some .s
  | .fence .. => some .s
  | .tdef .. => some .s
  | .rdsys .. => some .s
  | .wrsys .. => some .s
  | .trap .. => some .s
  | .tret .. => some .s
  | .yield .. => some .s
  | .yieldLand .. => some .s
  | .tend .. => some .s
  | .qput .. => some .s
  | .estart .. => some .s
  | .etruncImm .. => some .s
  | .etruncReg .. => some .s
  | .launch .. => some .s
  | .ifence .. => some .s
  | .gctlOpen .. => some .s
  | .gctlClose .. => some .s
  | .gctlWait .. => some .s
  | .gctlCancel .. => some .s
  | .gctlQuery .. => some .s
  | .barrArm .. => some .s
  | .barrArrive .. => some .s
  | .barrWait .. => some .s
  | .waitt .. => some .s
  | .migrStart .. => some .s
  | .migrCancel .. => some .s
  | .migrQuery .. => some .s
  | .invpg .. => some .s
  | .pstf .. => some .s
  | .ldoneEnd .. => some .s
  | .ldoneRd .. => some .s
  | .vadd .. => some .v
  | .vsub .. => some .v
  | .vmul .. => some .v
  | .vfma .. => some .v
  | .vmin .. => some .v
  | .vmax .. => some .v
  | .vrcp .. => some .v
  | .vexp .. => some .v
  | .vcmp .. => some .v
  | .vsel .. => some .v
  | .vbit .. => some .v
  | .vshf .. => some .v
  | .vcvt .. => some .v
  | .vred .. => some .v
  | .vperm .. => some .v
  | .vbcast .. => some .v
  | .vli .. => some .v
  | .vidx .. => some .v
  | .vld .. => some .v
  | .vst .. => some .v
  | .vsld .. => some .v
  | .vsst .. => some .v
  | .vsbind .. => some .v
  | .vmpush .. => some .v
  | .vminv .. => some .v
  | .vmpop .. => some .v
  | .bru .. => some .v
  | .loopv .. => some .v
  | .loopvSet .. => some .v
  | .vqnt .. => some .v
  | .vpupdSgd .. => some .v
  | .vpupdMom .. => some .v
  | .vpack .. => some .v
  | .vunpk .. => some .v
  | .vtsig .. => some .v
  | .vtwait .. => some .v
  | .vshut .. => some .v
  | .vend .. => some .v
  | .mzero .. => some .m
  | .mma .. => some .m
  | .mmaExt .. => some .m
  | .mspb .. => some .m
  | .mspbExt .. => some .m
  | .mscr .. => some .m
  | .mscrExt .. => some .m
  | .mscn .. => some .m
  | .mscnExt .. => some .m
  | .mrsum .. => some .m
  | .mdrain .. => some .m
  | .mdrainExt .. => some .m
  | .mdrainQ .. => some .m
  | .mcfg .. => some .m
  | .mloop .. => some .m
  | .mtsig .. => some .m
  | .mtwait .. => some .m
  | .mshut .. => some .m
  | .mend .. => some .m
  | .copy .. => some .c
  | .copyExt .. => some .c
  | .copyF .. => some .c
  | .gath .. => some .c
  | .scat .. => some .c
  | .enc .. => some .c
  | .encExt .. => some .c
  | .dec .. => some .c
  | .decExt .. => some .c
  | .cbload .. => some .c
  | .fill .. => some .c
  | .clone .. => some .c
  | .cloneZero .. => some .c
  | .land .. => some .c
  | .coll .. => some .c
  | .cbar .. => some .c
  | .cloop .. => some .c
  | .ctsig .. => some .c
  | .ctwait .. => some .c
  | .cshut .. => some .c
  | .cend .. => some .c
  | .injectedCommandIssue .. => none
  | .engineFetch .. => none
  | .trapTake .. => none
  | .engineTrapTake .. => none
  | .cycleBoundExpiry .. => none
  | .reductionLimit .. => none
  | .tokenWaitSatisfied .. => none
  | .shutterStallRelease .. => none
  | .waittTargetReached .. => none
  | .barrierWaitRelease .. => none
  | .loadDataReturn .. => none
  | .writeApplyToView .. => none
  | .atomicExecute .. => none
  | .cellWindowAccess .. => none
  | .windowRegWriteApply .. => none
  | .windowAccessTimeout .. => none
  | .hostMemoryAccess .. => none
  | .pageWalk .. => none
  | .nextPageFill .. => none
  | .hotDecay .. => none
  | .dispatchTask .. => none
  | .codebookReplay .. => none
  | .restoreComplete .. => none
  | .taskStop .. => none
  | .mQuiesceStop .. => none
  | .taskStopped .. => none
  | .saveComplete .. => none
  | .taskRetire .. => none
  | .preemptEval .. => none
  | .queueTake .. => none
  | .weirSample .. => none
  | .occupancyPublish .. => none
  | .stealRequest .. => none
  | .stealGrant .. => none
  | .stealAck .. => none
  | .remoteGroupMessage .. => none
  | .landingArrival .. => none
  | .landingServe .. => none
  | .wicketOverrun .. => none
  | .peerStoreArrival .. => none
  | .peerStoreAck .. => none
  | .packetLossDeclare .. => none
  | .collChunkArrival .. => none
  | .barrierArrival .. => none
  | .phaseTimeBoundary .. => none
  | .migrationLineCopy .. => none
  | .switchOver .. => none
  | .migrationShootdownComplete .. => none
  | .migrationAbort .. => none
  | .abortShootdownComplete .. => none
  | .contextRelease .. => none
  | .residencyPeriod .. => none
  | .ctxtblWrite .. => none
  | .ctxCreate .. => none
  | .ctxDestroy .. => none
  | .ctxFault .. => none
  | .ctxResume .. => none
  | .qtblWrite .. => none
  | .queueCreate .. => none
  | .queueOpen .. => none
  | .queueClose .. => none
  | .queueDestroy .. => none
  | .queuePut .. => none
  | .gtblWrite .. => none
  | .jobstart .. => none
  | .gfree .. => none
  | .btblWrite .. => none
  | .pginvCmd .. => none
  | .portControlWrite .. => none
  | .portPartnerDetect .. => none
  | .portTrained .. => none
  | .portTrainingTimeout .. => none
  | .portCalibration .. => none
  | .portLaneFailure .. => none
  | .portSignalLoss .. => none
  | .flitCrcFail .. => none
  | .syncMessage .. => none
  | .lockTimeout .. => none
  | .cellHalt .. => none
  | .cellStopComplete .. => none
  | .cellResume .. => none
  | .cellStep .. => none
  | .breakpointMatch .. => none
  | .sampleLatch .. => none
  | .cellFence .. => none
  | .moduleHalt .. => none
  | .correctableError .. => none
  | .blackBoxFreeze .. => none
  | .blackBoxUnfreeze .. => none
  | .bbRidx .. => none
  | .powerOn .. => none
  | .rstcmd .. => none
  | .powerLoss .. => none
  | .attGo .. => none
  | .attestationSignComplete .. => none
  | .configBlockAccept .. => none
  | .thermalSensorUpdate .. => none
  | .clockStep .. => none
  | .hbmTempUpdate .. => none
  | .coolantSample .. => none
  | .registerWrite .. => none
  | .commandCompletion .. => none
  | .landingCredit .. => none
  | .remoteGroupReply .. => none
  | .stolenTaskReturn .. => none
  | .hostPortLaneFailure .. => none
  | .uncorrectableDataError .. => none
  | .fusedMinimumRaise .. => none

/-- The words of an instruction: the command word and, where it has one, its extension word. An event has none. -/
def encode (i : Instr) : List Word :=
  match i with
  | .add q d a b f => [put (put (put (put (put (put (put 0 26 1#6) 25 0#1) 21 q) 16 d) 11 a) 6 b) 0 f]
  | .addImm q d a i => [put (put (put (put (put (put 0 26 1#6) 25 1#1) 21 q) 16 d) 11 a) 0 i]
  | .sub q d a b f => [put (put (put (put (put (put (put 0 26 2#6) 25 0#1) 21 q) 16 d) 11 a) 6 b) 0 f]
  | .subImm q d a i => [put (put (put (put (put (put 0 26 2#6) 25 1#1) 21 q) 16 d) 11 a) 0 i]
  | .mul q d a b f => [put (put (put (put (put (put (put 0 26 3#6) 25 0#1) 21 q) 16 d) 11 a) 6 b) 0 f]
  | .mulImm q d a i => [put (put (put (put (put (put 0 26 3#6) 25 1#1) 21 q) 16 d) 11 a) 0 i]
  | .mulh q d a b f => [put (put (put (put (put (put (put 0 26 4#6) 25 0#1) 21 q) 16 d) 11 a) 6 b) 0 f]
  | .mulhImm q d a i => [put (put (put (put (put (put 0 26 4#6) 25 1#1) 21 q) 16 d) 11 a) 0 i]
  | .div q d a b f => [put (put (put (put (put (put (put 0 26 5#6) 25 0#1) 21 q) 16 d) 11 a) 6 b) 0 f]
  | .divImm q d a i => [put (put (put (put (put (put 0 26 5#6) 25 1#1) 21 q) 16 d) 11 a) 0 i]
  | .rem q d a b f => [put (put (put (put (put (put (put 0 26 6#6) 25 0#1) 21 q) 16 d) 11 a) 6 b) 0 f]
  | .remImm q d a i => [put (put (put (put (put (put 0 26 6#6) 25 1#1) 21 q) 16 d) 11 a) 0 i]
  | .and q d a b f => [put (put (put (put (put (put (put 0 26 7#6) 25 0#1) 21 q) 16 d) 11 a) 6 b) 0 f]
  | .andImm q d a i => [put (put (put (put (put (put 0 26 7#6) 25 1#1) 21 q) 16 d) 11 a) 0 i]
  | .or q d a b f => [put (put (put (put (put (put (put 0 26 8#6) 25 0#1) 21 q) 16 d) 11 a) 6 b) 0 f]
  | .orImm q d a i => [put (put (put (put (put (put 0 26 8#6) 25 1#1) 21 q) 16 d) 11 a) 0 i]
  | .xor q d a b f => [put (put (put (put (put (put (put 0 26 9#6) 25 0#1) 21 q) 16 d) 11 a) 6 b) 0 f]
  | .xorImm q d a i => [put (put (put (put (put (put 0 26 9#6) 25 1#1) 21 q) 16 d) 11 a) 0 i]
  | .shl q d a b f => [put (put (put (put (put (put (put 0 26 10#6) 25 0#1) 21 q) 16 d) 11 a) 6 b) 0 f]
  | .shlImm q d a i => [put (put (put (put (put (put 0 26 10#6) 25 1#1) 21 q) 16 d) 11 a) 0 i]
  | .shr q d a b f => [put (put (put (put (put (put (put 0 26 11#6) 25 0#1) 21 q) 16 d) 11 a) 6 b) 0 f]
  | .shrImm q d a i => [put (put (put (put (put (put 0 26 11#6) 25 1#1) 21 q) 16 d) 11 a) 0 i]
  | .sra q d a b f => [put (put (put (put (put (put (put 0 26 12#6) 25 0#1) 21 q) 16 d) 11 a) 6 b) 0 f]
  | .sraImm q d a i => [put (put (put (put (put (put 0 26 12#6) 25 1#1) 21 q) 16 d) 11 a) 0 i]
  | .setc q d a b f => [put (put (put (put (put (put (put 0 26 13#6) 25 0#1) 21 q) 16 d) 11 a) 6 b) 0 f]
  | .setcImm q d a i => [put (put (put (put (put (put 0 26 13#6) 25 1#1) 21 q) 16 d) 11 a) 0 i]
  | .sel q d a b z c => [put (put (put (put (put (put (put (put 0 26 14#6) 25 0#1) 21 q) 16 d) 11 a) 6 b) 5 z) 0 c]
  | .limm q d i => [put (put (put (put (put 0 26 15#6) 25 0#1) 21 q) 16 d) 0 i]
  | .limmSh q d i => [put (put (put (put (put 0 26 15#6) 25 1#1) 21 q) 16 d) 0 i]
  | .ld z q d a o => [put (put (put (put (put (put 0 26 16#6) 23 z) 19 q) 14 d) 9 a) 0 o]
  | .st z q d a o => [put (put (put (put (put (put 0 26 17#6) 23 z) 19 q) 14 d) 9 a) 0 o]
  | .atom s o d a b f => [put (put (put (put (put (put (put 0 26 18#6) 22 s) 20 o) 15 d) 10 a) 5 b) 0 f]
  | .cas s o d a b f => [put (put (put (put (put (put (put 0 26 19#6) 22 s) 20 o) 15 d) 10 a) 5 b) 0 f]
  | .br c a b o => [put (put (put (put (put 0 26 20#6) 23 c) 18 a) 13 b) 0 o]
  | .jmp o => [put (put (put 0 26 21#6) 25 0#1) 0 o]
  | .jmpL o => [put (put (put 0 26 21#6) 25 1#1) 0 o]
  | .jmpi q a => [put (put (put (put (put (put 0 26 22#6) 25 0#1) 21 q) 16 0#5) 11 a) 0 0#11]
  | .jmpiL q d a => [put (put (put (put (put (put 0 26 22#6) 25 0#1) 21 q) 16 d) 11 a) 0 1#11]
  | .loops a b o => [put (put (put (put (put 0 26 23#6) 23 0#3) 18 a) 13 b) 0 o]
  | .loopsSet a => [put (put (put (put 0 26 23#6) 23 1#3) 18 a) 0 0#18]
  | .waitc q b l s c t => [put (put (put (put (put (put (put 0 26 24#6) 22 q) 18 b) 13 l) 8 s) 4 c) 0 t]
  | .tsig q k n c => [put (put (put (put (put (put 0 26 25#6) 22 q) 18 0#4) 13 k) 12 n) 0 c]
  | .twait q b k n c => [put (put (put (put (put (put 0 26 26#6) 22 q) 18 b) 13 k) 12 n) 0 c]
  | .shut q t c => [put (put (put (put (put (put 0 26 27#6) 22 q) 18 0#4) 11 t) 8 c) 0 0#8]
  | .fence q b s k => [put (put (put (put (put (put 0 26 28#6) 22 q) 18 b) 14 s) 12 k) 0 0#12]
  | .tdef q a t => [put (put (put (put (put (put (put 0 26 29#6) 25 0#1) 21 q) 16 0#5) 11 a) 8 0#3) 0 t]
  | .rdsys q d x => [put (put (put (put (put (put 0 26 30#6) 25 0#1) 21 q) 16 d) 11 0#5) 0 x]
  | .wrsys q a x => [put (put (put (put (put (put 0 26 31#6) 25 0#1) 21 q) 16 0#5) 11 a) 0 x]
  | .trap q e => [put (put (put (put (put 0 26 32#6) 25 0#1) 21 q) 11 0#10) 0 e]
  | .tret q => [put (put (put (put 0 26 33#6) 25 0#1) 21 q) 0 0#21]
  | .yield q d => [put (put (put (put (put (put 0 26 34#6) 25 0#1) 21 q) 16 d) 11 0#5) 0 0#11]
  | .yieldLand q d a => [put (put (put (put (put (put 0 26 34#6) 25 0#1) 21 q) 16 d) 11 a) 0 1#11]
  | .tend q => [put (put (put (put 0 26 35#6) 25 0#1) 21 q) 0 0#21]
  | .qput q d a x => [put (put (put (put (put (put 0 26 36#6) 25 0#1) 21 q) 16 d) 11 a) 0 x]
  | .estart q a m => [put (put (put (put (put (put (put 0 26 37#6) 25 0#1) 21 q) 16 0#5) 11 a) 3 0#8) 0 m]
  | .etruncImm q d c e => [put (put (put (put (put (put (put (put 0 26 38#6) 25 0#1) 21 q) 16 d) 11 0#5) 3 c) 2 1#1) 0 e]
  | .etruncReg q d a e => [put (put (put (put (put (put (put (put 0 26 38#6) 25 0#1) 21 q) 16 d) 11 a) 3 0#8) 2 0#1) 0 e]
  | .launch q d a => [put (put (put (put (put (put 0 26 39#6) 25 0#1) 21 q) 16 d) 11 a) 0 0#11]
  | .ifence q => [put (put (put (put 0 26 40#6) 25 0#1) 21 q) 0 0#21]
  | .gctlOpen q d a l => [put (put (put (put (put (put (put (put (put 0 26 41#6) 25 0#1) 21 q) 16 d) 11 a) 9 0#2) 5 0#4) 3 l) 0 0#3]
  | .gctlClose q d a k => [put (put (put (put (put (put (put (put (put 0 26 41#6) 25 0#1) 21 q) 16 d) 11 a) 9 0#2) 5 0#4) 3 k) 0 1#3]
  | .gctlWait q d a b => [put (put (put (put (put (put (put (put (put (put 0 26 41#6) 25 0#1) 21 q) 16 d) 11 a) 9 0#2) 5 b) 4 0#1) 3 0#1) 0 2#3]
  | .gctlCancel q d a => [put (put (put (put (put (put (put (put (put (put 0 26 41#6) 25 0#1) 21 q) 16 d) 11 a) 9 0#2) 5 0#4) 4 0#1) 3 0#1) 0 3#3]
  | .gctlQuery q d a p => [put (put (put (put (put (put (put (put (put (put 0 26 41#6) 25 0#1) 21 q) 16 d) 11 a) 9 0#2) 5 0#4) 4 0#1) 3 p) 0 4#3]
  | .barrArm q d a u n => [put (put (put (put (put (put (put (put 0 26 42#6) 25 0#1) 21 q) 16 d) 11 a) 10 u) 2 n) 0 0#2]
  | .barrArrive q a n => [put (put (put (put (put (put (put (put 0 26 42#6) 25 0#1) 21 q) 16 0#5) 11 a) 10 0#1) 2 n) 0 1#2]
  | .barrWait q d a b => [put (put (put (put (put (put (put (put (put 0 26 42#6) 25 0#1) 21 q) 16 d) 11 a) 10 0#1) 6 0#4) 2 b) 0 2#2]
  | .waitt q d a b => [put (put (put (put (put (put (put 0 26 43#6) 25 0#1) 21 q) 16 d) 11 a) 4 0#7) 0 b]
  | .migrStart q d a => [put (put (put (put (put (put 0 26 44#6) 25 0#1) 21 q) 16 d) 11 a) 0 0#11]
  | .migrCancel q d a => [put (put (put (put (put (put 0 26 44#6) 25 0#1) 21 q) 16 d) 11 a) 0 1#11]
  | .migrQuery q d a => [put (put (put (put (put (put 0 26 44#6) 25 0#1) 21 q) 16 d) 11 a) 0 2#11]
  | .invpg q a k s => [put (put (put (put (put (put (put (put 0 26 45#6) 25 0#1) 21 q) 16 0#5) 11 a) 6 0#5) 4 k) 0 s]
  | .pstf q d a b e z => [put (put (put (put (put (put (put (put (put 0 26 46#6) 25 0#1) 21 q) 16 d) 11 a) 6 b) 3 0#3) 2 e) 0 z]
  | .ldoneEnd q => [put (put (put (put (put 0 26 47#6) 25 0#1) 21 q) 11 0#10) 0 0#11]
  | .ldoneRd q d a => [put (put (put (put (put (put 0 26 47#6) 25 0#1) 21 q) 16 d) 11 a) 0 1#11]
  | .vadd q d a b t => [put (put (put (put (put (put 0 26 1#6) 22 q) 16 d) 10 a) 4 b) 0 t]
  | .vsub q d a b t => [put (put (put (put (put (put 0 26 2#6) 22 q) 16 d) 10 a) 4 b) 0 t]
  | .vmul q d a b t => [put (put (put (put (put (put 0 26 3#6) 22 q) 16 d) 10 a) 4 b) 0 t]
  | .vfma q d a b t => [put (put (put (put (put (put 0 26 4#6) 22 q) 16 d) 10 a) 4 b) 0 t]
  | .vmin q d a b t => [put (put (put (put (put (put 0 26 5#6) 22 q) 16 d) 10 a) 4 b) 0 t]
  | .vmax q d a b t => [put (put (put (put (put (put 0 26 6#6) 22 q) 16 d) 10 a) 4 b) 0 t]
  | .vrcp q d a t => [put (put (put (put (put (put 0 26 7#6) 22 q) 16 d) 10 a) 4 0#6) 0 t]
  | .vexp q d a t => [put (put (put (put (put (put 0 26 8#6) 22 q) 16 d) 10 a) 4 0#6) 0 t]
  | .vcmp d a b t c => [put (put (put (put (put (put (put 0 26 9#6) 20 d) 14 a) 8 b) 7 0#1) 3 t) 0 c]
  | .vsel q d a b => [put (put (put (put (put (put 0 26 10#6) 22 q) 16 d) 10 a) 4 b) 0 0#4]
  | .vbit q d a b o => [put (put (put (put (put (put 0 26 11#6) 22 q) 16 d) 10 a) 4 b) 0 o]
  | .vshf q d a b k w => [put (put (put (put (put (put (put 0 26 12#6) 22 q) 16 d) 10 a) 4 b) 2 k) 0 w]
  | .vcvt d a p s r e f => [put (put (put (put (put (put (put (put 0 26 13#6) 20 d) 14 a) 12 p) 11 s) 8 r) 4 e) 0 f]
  | .vred d a o t => [put (put (put (put (put (put 0 26 14#6) 20 d) 14 a) 7 0#7) 4 o) 0 t]
  | .vperm q d a b => [put (put (put (put (put (put 0 26 15#6) 22 q) 16 d) 10 a) 4 b) 0 0#4]
  | .vbcast d a e w => [put (put (put (put (put (put 0 26 16#6) 20 d) 14 a) 10 0#4) 2 e) 0 w]
  | .vli q d i => [put (put (put (put 0 26 17#6) 22 q) 16 d) 0 i]
  | .vidx q d s t => [put (put (put (put (put 0 26 18#6) 22 q) 16 d) 8 s) 0 t]
  | .vld q d t l f => [put (put (put (put (put (put 0 26 19#6) 22 q) 16 d) 9 t) 3 l) 0 f]
  | .vst q d t l f => [put (put (put (put (put (put 0 26 20#6) 22 q) 16 d) 9 t) 3 l) 0 f]
  | .vsld q d n k => [put (put (put (put (put (put 0 26 21#6) 22 q) 16 d) 13 n) 1 0#12) 0 k]
  | .vsst q d n k => [put (put (put (put (put (put 0 26 22#6) 22 q) 16 d) 13 n) 1 0#12) 0 k]
  | .vsbind q d n t l => [put (put (put (put (put (put 0 26 23#6) 22 q) 16 d) 13 n) 6 t) 0 l]
  | .vmpush a b q f c => [put (put (put (put (put (put (put 0 26 24#6) 20 0#6) 14 a) 8 b) 4 q) 3 f) 0 c]
  | .vminv q => [put (put (put 0 26 25#6) 22 q) 0 0#22]
  | .vmpop q n => [put (put (put (put 0 26 26#6) 22 q) 4 0#18) 0 n]
  | .bru k o => [put (put (put (put 0 26 27#6) 25 k) 13 0#12) 0 o]
  | .loopv n e o => [put (put (put (put (put 0 26 28#6) 25 0#1) 16 n) 13 e) 0 o]
  | .loopvSet e => [put (put (put (put (put 0 26 28#6) 25 1#1) 21 0#4) 13 e) 0 0#13]
  | .vqnt d a r l t => [put (put (put (put (put (put (put 0 26 29#6) 20 d) 14 a) 12 r) 11 0#1) 7 l) 0 t]
  | .vpupdSgd d a p => [put (put (put (put (put (put 0 26 30#6) 20 d) 14 a) 12 0#2) 6 p) 0 0#6]
  | .vpupdMom d a p g => [put (put (put (put (put (put 0 26 30#6) 20 d) 14 a) 12 1#2) 6 p) 0 g]
  | .vpack d a p k => [put (put (put (put (put (put 0 26 31#6) 20 d) 14 a) 9 0#5) 4 p) 0 k]
  | .vunpk d a s p k => [put (put (put (put (put (put (put 0 26 32#6) 20 d) 14 a) 13 s) 9 0#4) 4 p) 0 k]
  | .vtsig q k c => [put (put (put (put (put (put 0 26 33#6) 22 q) 18 0#4) 13 k) 12 0#1) 0 c]
  | .vtwait q b k c => [put (put (put (put (put (put 0 26 34#6) 22 q) 18 b) 13 k) 12 0#1) 0 c]
  | .vshut q b t c => [put (put (put (put (put (put 0 26 35#6) 22 q) 18 b) 11 t) 8 c) 0 0#8]
  | .vend q => [put (put (put 0 26 36#6) 22 q) 0 0#22]
  | .mzero b m => [put (put (put (put (put 0 26 1#6) 25 0#1) 21 b) 4 0#17) 0 m]
  | .mma b c a e f => [put (put (put (put (put (put (put 0 26 2#6) 25 0#1) 21 b) 19 c) 10 a) 1 e) 0 f]
  | .mmaExt b c a e f x => [put (put (put (put (put (put (put 0 26 2#6) 25 1#1) 21 b) 19 c) 10 a) 1 e) 0 f, encodeMmaQ x]
  | .mspb b c a e f => [put (put (put (put (put (put (put 0 26 3#6) 25 0#1) 21 b) 19 c) 10 a) 1 e) 0 f]
  | .mspbExt b c a e f x => [put (put (put (put (put (put (put 0 26 3#6) 25 1#1) 21 b) 19 c) 10 a) 1 e) 0 f, encodeSparseQ x]
  | .mscr b c a e f => [put (put (put (put (put (put (put 0 26 4#6) 25 0#1) 21 b) 19 c) 10 a) 1 e) 0 f]
  | .mscrExt b c a e f x => [put (put (put (put (put (put (put 0 26 4#6) 25 1#1) 21 b) 19 c) 10 a) 1 e) 0 f, encodeSparseQ x]
  | .mscn b c a e f => [put (put (put (put (put (put (put 0 26 5#6) 25 0#1) 21 b) 19 c) 10 a) 1 e) 0 f]
  | .mscnExt b c a e f x => [put (put (put (put (put (put (put 0 26 5#6) 25 1#1) 21 b) 19 c) 10 a) 1 e) 0 f, encodeSparseQ x]
  | .mrsum b a e f => [put (put (put (put (put (put (put 0 26 6#6) 25 0#1) 21 b) 19 0#2) 10 a) 1 e) 0 f]
  | .mdrain b c a => [put (put (put (put (put (put (put 0 26 7#6) 25 0#1) 21 b) 19 c) 10 a) 1 0#9) 0 0#1]
  | .mdrainExt b c a x => [put (put (put (put (put (put (put 0 26 7#6) 25 1#1) 21 b) 19 c) 10 a) 1 0#9) 0 0#1, encodeDrainQ x]
  | .mdrainQ b c a e none => [put (put (put (put (put (put (put 0 26 7#6) 25 0#1) 21 b) 19 c) 10 a) 1 e) 0 1#1]
  | .mdrainQ b c a e (some x) => [put (put (put (put (put (put (put 0 26 7#6) 25 1#1) 21 b) 19 c) 10 a) 1 e) 0 1#1, encodeDrainQ x]
  | .mcfg b w x => [put (put (put (put (put 0 26 8#6) 25 1#1) 21 b) 3 0#18) 0 w, encodeCfgQ x]
  | .mloop l n i s => [put (put (put (put (put (put 0 26 9#6) 21 0#5) 15 l) 7 n) 4 i) 0 s]
  | .mtsig k c => [put (put (put (put (put 0 26 10#6) 18 0#8) 13 k) 12 0#1) 0 c]
  | .mtwait b k c => [put (put (put (put (put (put (put 0 26 11#6) 25 0#1) 21 b) 18 0#3) 13 k) 12 0#1) 0 c]
  | .mshut b t c => [put (put (put (put (put (put (put 0 26 12#6) 25 0#1) 21 b) 18 0#3) 11 t) 8 c) 0 0#8]
  | .mend b => [put (put (put (put 0 26 13#6) 25 0#1) 21 b) 0 0#21]
  | .copy b d s t => [put (put (put (put (put (put (put 0 26 1#6) 25 0#1) 21 b) 12 d) 3 s) 1 t) 0 0#1]
  | .copyExt b d s t x => [put (put (put (put (put (put (put 0 26 1#6) 25 1#1) 21 b) 12 d) 3 s) 1 t) 0 0#1, encodeCopyQ x]
  | .copyF b d s t inner => [put (put (put (put (put (put (put 0 26 1#6) 25 1#1) 21 b) 12 d) 3 s) 1 t) 0 1#1, inner]
  | .gath b d s x => [put (put (put (put (put (put 0 26 2#6) 25 1#1) 21 b) 12 d) 3 s) 0 0#3, encodeRowQ x]
  | .scat b d s x => [put (put (put (put (put (put 0 26 3#6) 25 1#1) 21 b) 12 d) 3 s) 0 0#3, encodeRowQ x]
  | .enc b d s => [put (put (put (put (put (put 0 26 4#6) 25 0#1) 21 b) 12 d) 3 s) 0 0#3]
  | .encExt b d s x => [put (put (put (put (put (put 0 26 4#6) 25 1#1) 21 b) 12 d) 3 s) 0 0#3, encodeEncQ x]
  | .dec b d s => [put (put (put (put (put (put 0 26 5#6) 25 0#1) 21 b) 12 d) 3 s) 0 0#3]
  | .decExt b d s x => [put (put (put (put (put (put 0 26 5#6) 25 1#1) 21 b) 12 d) 3 s) 0 0#3, encodeDecQ x]
  | .cbload b k t f c => [put (put (put (put (put (put (put (put 0 26 6#6) 25 0#1) 21 b) 20 k) 12 t) 8 0#4) 4 f) 0 c]
  | .fill b d x => [put (put (put (put (put (put 0 26 7#6) 25 1#1) 21 b) 12 d) 3 0#9) 0 0#3, x]
  | .clone b d s => [put (put (put (put (put (put 0 26 8#6) 25 0#1) 21 b) 12 d) 3 s) 0 0#3]
  | .cloneZero b d => [put (put (put (put (put (put 0 26 8#6) 25 0#1) 21 b) 12 d) 3 0#9) 0 1#3]
  | .land b t l n h x => [put (put (put (put (put (put (put 0 26 9#6) 25 1#1) 21 b) 14 t) 8 l) 3 n) 0 h, encodeLandQ x]
  | .coll b t r p x => [put (put (put (put (put (put (put 0 26 10#6) 25 1#1) 21 b) 14 t) 7 r) 4 p) 0 0#4, encodeCollQ x]
  | .cbar b n k i => [put (put (put (put (put (put 0 26 11#6) 25 0#1) 21 b) 13 n) 11 k) 0 i]
  | .cloop l n i s => [put (put (put (put (put (put 0 26 12#6) 21 0#5) 15 l) 7 n) 4 i) 0 s]
  | .ctsig k c => [put (put (put (put (put 0 26 13#6) 18 0#8) 13 k) 12 0#1) 0 c]
  | .ctwait b k c => [put (put (put (put (put (put (put 0 26 14#6) 25 0#1) 21 b) 18 0#3) 13 k) 12 0#1) 0 c]
  | .cshut b t c => [put (put (put (put (put (put (put 0 26 15#6) 25 0#1) 21 b) 18 0#3) 11 t) 8 c) 0 0#8]
  | .cend b => [put (put (put (put 0 26 16#6) 25 0#1) 21 b) 0 0#21]
  | .injectedCommandIssue _ => []
  | .engineFetch _ _ => []
  | .trapTake _ _ => []
  | .engineTrapTake _ => []
  | .cycleBoundExpiry _ _ => []
  | .reductionLimit _ => []
  | .tokenWaitSatisfied _ _ => []
  | .shutterStallRelease _ _ => []
  | .waittTargetReached _ => []
  | .barrierWaitRelease _ => []
  | .loadDataReturn _ _ _ => []
  | .writeApplyToView _ _ => []
  | .atomicExecute _ _ => []
  | .cellWindowAccess _ _ _ _ _ => []
  | .windowRegWriteApply _ => []
  | .windowAccessTimeout _ => []
  | .hostMemoryAccess _ _ _ => []
  | .pageWalk _ _ _ => []
  | .nextPageFill _ _ _ _ => []
  | .hotDecay => []
  | .dispatchTask => []
  | .codebookReplay _ => []
  | .restoreComplete _ => []
  | .taskStop _ => []
  | .mQuiesceStop _ => []
  | .taskStopped _ => []
  | .saveComplete _ => []
  | .taskRetire _ => []
  | .preemptEval => []
  | .queueTake _ => []
  | .weirSample .. => []
  | .occupancyPublish _ => []
  | .stealRequest _ => []
  | .stealGrant _ _ => []
  | .stealAck _ => []
  | .remoteGroupMessage .. => []
  | .landingArrival _ _ => []
  | .landingServe _ => []
  | .wicketOverrun _ _ => []
  | .peerStoreArrival _ => []
  | .peerStoreAck _ _ => []
  | .packetLossDeclare _ => []
  | .collChunkArrival _ _ _ _ _ _ => []
  | .barrierArrival => []
  | .phaseTimeBoundary _ => []
  | .migrationLineCopy _ => []
  | .switchOver _ => []
  | .migrationShootdownComplete _ => []
  | .migrationAbort _ _ => []
  | .abortShootdownComplete _ => []
  | .contextRelease _ => []
  | .residencyPeriod _ => []
  | .ctxtblWrite _ => []
  | .ctxCreate _ => []
  | .ctxDestroy _ => []
  | .ctxFault _ => []
  | .ctxResume _ => []
  | .qtblWrite _ => []
  | .queueCreate _ => []
  | .queueOpen _ => []
  | .queueClose _ => []
  | .queueDestroy _ => []
  | .queuePut _ => []
  | .gtblWrite _ => []
  | .jobstart _ _ => []
  | .gfree _ => []
  | .btblWrite _ => []
  | .pginvCmd _ _ => []
  | .portControlWrite _ _ => []
  | .portPartnerDetect _ => []
  | .portTrained _ _ => []
  | .portTrainingTimeout _ => []
  | .portCalibration _ _ => []
  | .portLaneFailure _ => []
  | .portSignalLoss _ => []
  | .flitCrcFail _ => []
  | .syncMessage .. => []
  | .lockTimeout => []
  | .cellHalt _ => []
  | .cellStopComplete _ => []
  | .cellResume _ => []
  | .cellStep _ _ => []
  | .breakpointMatch _ => []
  | .sampleLatch _ => []
  | .cellFence _ _ => []
  | .moduleHalt _ _ => []
  | .correctableError _ => []
  | .blackBoxFreeze => []
  | .blackBoxUnfreeze => []
  | .bbRidx _ => []
  | .powerOn _ => []
  | .rstcmd _ _ => []
  | .powerLoss => []
  | .attGo => []
  | .attestationSignComplete => []
  | .configBlockAccept _ => []
  | .thermalSensorUpdate _ _ _ => []
  | .clockStep _ => []
  | .hbmTempUpdate _ _ => []
  | .coolantSample _ _ => []
  | .registerWrite _ _ => []
  | .commandCompletion _ _ => []
  | .landingCredit _ _ _ => []
  | .remoteGroupReply _ _ => []
  | .stolenTaskReturn _ => []
  | .hostPortLaneFailure _ => []
  | .uncorrectableDataError _ => []
  | .fusedMinimumRaise => []

/-- Whether a word of the stream is followed by an extension word (R109). -/
def hasExtension (st : Stream) (w : Word) : Bool :=
  (st = .m || st = .c) && fld w 25 1 = 1

/-- The fields of a word of the given stream; `ext` is the word after it, used where bit 25 of an M or C
word is 1 (R109, R111). -/
def parse (st : Stream) (w ext : Word) : Option Instr :=
  match st with
  | .s => parseS w
  | .v => parseV w
  | .m => parseM w ext
  | .c => parseC w ext

/-- What the decoder reads: an instruction, or a rejection with its name. -/
inductive Decoded where
  | instr (i : Instr)
  | reject (e : DecodeError)
  deriving DecidableEq, Repr

/-- The instruction read, if any. -/
def Decoded.toOption (d : Decoded) : Option Instr :=
  match d with
  | .instr i => some i
  | .reject _ => none

/-- Decodes a word of the given stream, total on every word (R110). -/
def decode (st : Stream) (w ext : Word) : Decoded :=
  match parse st w ext with
  | none => .reject .unassigned
  | some i =>
    match i.check with
    | none => .instr i
    | some e => .reject (.illFormed e)

/-- The stream that the table's word belongs to: the first of S, V, M and C whose opcode space assigns it, as an
instruction of `nbits` bits (DESIGN CHOICE, notes/assumptions/7: the table does not name the stream, and the four
opcode spaces share words). -/
def tableStream (nbits : Nat) (word ext : Word) : Option Stream :=
  [Stream.s, .v, .m, .c].find? fun st =>
    (nbits = 32 || (nbits = 64 && hasExtension st word)) && (decode st word ext).toOption.isSome

/-- The instruction that the decoder of `tableStream` reads from a word of the table. -/
def decodeTableWord (nbits w : Nat) : Option Instr :=
  let word : Word := BitVec.ofNat 32 w
  let ext : Word := BitVec.ofNat 32 (w / 2 ^ 32)
  (tableStream nbits word ext).bind fun st => (decode st word ext).toOption

end Sys2Proof
end

