-- ==== Sys2Proof/Machine/State.lean ====
section
/-! DEFINITION. The state of a KZ-960 module as plain data, and the module right after reset. A field's
default is its value at reset: the spec's where it gives one, else the value that notes/assumptions/1,
2 or the entry named beside the field gives. -/

namespace Sys2Proof.Machine

/-- What stops the model. -/
inductive Fault where
  /-- Raised by `step` when the focus, which is the model's own, names a cell that no module has. Safe: no
  hardware step is lost. -/
  | noSuchCell
  deriving DecidableEq, Repr

/-- What the model has no meaning for. -/
inductive Refusal where
  /-- Raised by an arm of `exec` whose instruction has no meaning yet. Safe. -/
  | notModelled (mnemonic : String)
  deriving DecidableEq, Repr

/-- Bytes by address, in the canonical form of `Memory.wf`. -/
abbrev Memory := List Host.Cell

/-- A trap: the cause code of R129 and the information of R306. -/
structure TrapInfo where
  cause : BitVec 8
  info : DWord
  deriving DecidableEq, Repr

/-- What finishes an unfinished S or wicket instruction (R140). -/
inductive Finish where
  /-- `LD` with the `sz` field -/
  | load (sz : Nat)
  | store
  | atomic (req : Nat)
  | tdef (entry : Nat)
  | signal (token count : Nat)
  | pass (tile code : Nat)
  /-- a claim behind an unfinished pass of the tile or an unfinished REL fence -/
  | claim (tile : Nat)
  | fence (scope kind : Nat)
  | peerStore
  | arrive (barrier bytes : Nat)
  /-- finished by its own meaning, executed again -/
  | again
  deriving DecidableEq, Repr

/-- An issued and unfinished S or wicket instruction (R140): its word, program counter and captured operands
(R142), and what it has received so far. -/
structure Unfinished where
  instr : Instr
  word : Word
  pc : DWord
  opa : DWord := 0
  opb : DWord := 0
  opd : DWord := 0
  ea : DWord := 0
  finish : Finish := .again
  /-- destination register; 0 for none -/
  dest : BitVec 5 := 0
  /-- physical address, size and, for an access, the cycle of issue -/
  pa : Nat := 0
  size : Nat := 0
  since : Nat := 0
  /-- the bound of a fence that later instructions do not wait for (R168) -/
  bound : Option Nat := none
  /-- re-injected by a `TRET` or a restore (R142) -/
  replayed : Bool := false
  /-- an access to the cell's own scratchpad (R163) -/
  own : Bool := false
  /-- its request has left the control unit and is not undone by a trap (R142, R374) -/
  sent : Bool := false
  /-- the value an atomic engine or another unit has returned; the write count at the end of a fence's REL part -/
  value : Option DWord := none
  /-- the 8-byte pieces of a descriptor that have returned (R80, R169) -/
  got : List Byte := []
  /-- a fence that waited on a peer store that has been lost: the port that the store took (R92) -/
  lost : Option Nat := none
  /-- a trap decided while an older instruction is unfinished (R142) -/
  trap : Option TrapInfo := none
  deriving DecidableEq, Repr

/-- A wait that holds the issue of later instructions, with what BOUND reports (R114, R306). The waiting
instruction is the youngest unfinished one. -/
structure SWait where
  since : Nat
  bound : Option Nat
  info : DWord
  deriving DecidableEq, Repr

/-- The issue state of S or of a wicket (R139 to R144). -/
structure Issue where
  /-- address of the oldest instruction that has not issued, behind the replay queue -/
  pc : DWord := 0
  unfinished : List Unfinished := []
  /-- re-injected entries of a `TRET` or a restore, that issue before `pc` (R142, R312) -/
  replay : List Unfinished := []
  wait : Option SWait := none
  /-- an acquire holds issue until the unfinished reads are complete (R89, R166) -/
  acquire : Bool := false
  /-- the cycle from which a fetch from a scratchpad waits on its shutter (R21) -/
  fetchSince : Option Nat := none
  deriving DecidableEq, Repr

/-- The S stream's own state (R12, R33, R139 to R163). -/
structure SUnit where
  regs : List DWord := List.replicate 32 0
  preds : BitVec 8 := 0
  iss : Issue := {}
  super : Bool := false
  ended : Bool := false
  timef : Word := 0
  /-- the slot of the landing buffer that holds the current packet (R411, R414) -/
  packet : Option Nat := none
  /-- peer stores counted in their launch that a trap or a stop has put back into the replay queue (R351) -/
  owed : Nat := 0
  deriving DecidableEq, Repr

/-- One entry of the trap frame (R305). -/
structure FrameEntry where
  word : Word := 0
  valid : Bool := false
  pc : DWord := 0
  opa : DWord := 0
  opb : DWord := 0
  opd : DWord := 0
  ea : DWord := 0
  deriving DecidableEq, Repr

/-- An engine trap that S has not taken yet (R307). -/
structure PendingTrap where
  stream : Stream
  trap : TrapInfo
  pos : DWord
  deriving DecidableEq, Repr

/-- The trap registers and the trap frame (R122, R304, R305). -/
structure TrapUnit where
  inTrap : Bool := false
  cause : BitVec 8 := 0
  epos : DWord := 0
  tvec : DWord := 0
  tfN : BitVec 4 := 0
  tfCe : BitVec 4 := 0
  pmode : Bool := false
  eskip : Bool := false
  tfInfo : DWord := 0
  tfSpc : DWord := 0
  frame : List FrameEntry := List.replicate 8 {}
  /-- an acquire was in force when the trap was taken; it goes on behind the replay queue (R89, R142) -/
  acquire : Bool := false
  pending : List PendingTrap := []
  deriving DecidableEq, Repr

/-- An affine stream register (R193, R194). -/
structure Affine where
  bound : Bool := false
  start : Nat := 0
  count : Nat := 0
  stride : Int := 0
  limit : BitVec 4 := 0
  pos : Nat := 0
  pops : Nat := 0
  deriving DecidableEq, Repr

/-- The V stream's own state (R12, R175, R177, R193). -/
structure VUnit where
  regs : List Line := List.replicate 64 0
  /-- the mask stack, top first -/
  masks : List (BitVec 64) := []
  preds : BitVec 8 := 0
  affine : List Affine := List.replicate 8 {}
  deriving DecidableEq, Repr

/-- An entry of an engine queue (R33, R333), or the content of the injection slot (R38). -/
structure Entry where
  pc : DWord
  word : Word
  ext : Word := 0
  tag : Nat := 0
  /-- the index registers as captured at fetch (R231) -/
  idx : List Word := List.replicate 8 0
  /-- from the injection slot -/
  inj : Bool := false
  /-- a fetch fault, or a loop that fetch refused to unroll, raised when the entry reaches the head -/
  held : Option TrapInfo := none
  deriving DecidableEq, Repr

/-- A counted loop of an engine stream that fetch has reached (R199, R254, R337). -/
structure LoopState where
  /-- program counters of the body's first word and of the loop instruction -/
  first : DWord
  last : DWord
  trip : Nat
  /-- index register stepped and the step; `none` for a `LOOPV` -/
  step : Option (Nat × Word) := none
  /-- the index registers of the first pass -/
  idx : List Word := List.replicate 8 0
  /-- the pass that fetch is placing -/
  pass : Nat := 1
  /-- fetch is still unrolling -/
  unrolling : Bool := true
  deriving DecidableEq, Repr

/-- An M or C command that has issued and not completed (R230, R259). -/
structure Command where
  instr : Instr
  entry : Entry
  /-- the cycle at which it reached the head (R114) -/
  since : Nat := 0
  /-- the next step (R225, R261) -/
  next : Nat := 0
  /-- the tensor table as the command read it (R128) -/
  table : List (BitVec 512) := []
  /-- it has rounded an element with SR and advances the dither phase as it completes (R53) -/
  rounds : Bool := false
  deriving DecidableEq, Repr

/-- An engine stream's queue, fetch unit and flags (R231, R299, R307, R333, R336). -/
structure Engine where
  started : Bool := false
  ended : Bool := false
  stopped : Bool := false
  queue : List Entry := []
  fpc : DWord := 0
  fetching : Bool := false
  entry : DWord := 0
  idx : List Word := List.replicate 8 0
  /-- fetch addresses that the stream read as extension words since it started (R254) -/
  exts : List DWord := []
  /-- the loops with an entry in the queue, oldest first; fetch may be unrolling the last -/
  loops : List LoopState := []
  inprog : List Command := []
  /-- the next step of the command at the head (R225, R261) -/
  nextStep : Nat := 0
  /-- the tensor table and the dither phase as the begun command at the head read them (R53, R128) -/
  table : Option (List (BitVec 512)) := none
  headPhase : Option (BitVec 4) := none
  /-- the begun command at the head has rounded an element with SR (R53) -/
  rounds : Bool := false
  /-- the entry at the head has been tried and waits -/
  waiting : Bool := false
  /-- the pass at the head has found its tile with another owner, and waits for the stream's own code (R205, R256) -/
  wantsOwn : Bool := false
  /-- what the command at the head keeps beside its next step: values and block records that the steps of an `ENC`
  have written (R274), or 1 once a `COLL` has sent its lines, 2 with the port of a link that has gone DOWN since (R281) -/
  progress : Nat × Nat := (0, 0)
  /-- the cycle from which a fetch from a scratchpad waits on its shutter (R21) -/
  fetchSince : Option Nat := none
  /-- the cycle at which the head entry reached the head (R114) -/
  headSince : Option Nat := none
  /-- a quiesce marker has stopped the stream (R301) -/
  quiesced : Bool := false
  /-- the dither phase (R53, R122) -/
  phase : BitVec 4 := 0
  /-- a dither phase that software has written, for the next instruction boundary (R171) -/
  phaseNext : Option (BitVec 4) := none
  deriving DecidableEq, Repr

/-- The matrix unit (R12, R211, R221, R224, R227, R228, R247, R38). Rows 64n to 64n + 63 of `acc` are `acc`n. -/
structure MUnit where
  acc : List Line := List.replicate 256 0
  corr : Line := 0
  det : Bool := true
  split : BitVec 16 := 0
  levee : BitVec 7 := 64
  rowNext : BitVec 24 := 0
  rowValid : Bool := false
  openTiles : BitVec 4 := 0
  /-- the cycle of the last accumulator retirement, from which the reduction count runs (R228) -/
  retiredAt : Nat := 0
  inject : Option Entry := none
  /-- the cycle at which the injection slot was filled (R114) -/
  injectSince : Nat := 0
  /-- the command in the injection slot is stopped by a trap (R38, R307) -/
  injectHeld : Bool := false
  /-- the packets in the per-row queues, in the order placed: array row, sequence, cycle of its placing (R12, R213); the front
  end's cycle in the current command, and the sequences placed in it -/
  rowq : List (Nat × Nat × Nat) := []
  qnow : Nat := 0
  qplaced : Nat := 0
  statPairs : DWord := 0
  statQfull : DWord := 0
  statLevee : DWord := 0
  statIdle : DWord := 0
  statSplit : DWord := 0
  deriving DecidableEq, Repr

/-- The last `CBLOAD` of a bank (R279). -/
structure CbLoad where
  desc : BitVec 512
  first : Nat
  count : Nat
  deriving DecidableEq, Repr

/-- A chunk of a collective step that has arrived (R281). -/
structure Chunk where
  port : BitVec 3
  ctx : BitVec 16
  tag : BitVec 8
  lines : List Line
  /-- its poisoned 32-byte parts, counted from the first line (R424) -/
  bad : List Nat
  deriving DecidableEq, Repr

/-- The copy engine (R12, R262, R277, R279, R281). -/
structure CUnit where
  sb : DWord := 0
  db : DWord := 0
  /-- entries 256b to 256b + 255 are bank b -/
  banks : List (DWord × Bool) := List.replicate 512 (0, false)
  lastLoad : List (Option CbLoad) := [none, none]
  statSrc : DWord := 0
  statDst : DWord := 0
  statPad : DWord := 0
  statInArr : DWord := 0
  chunks : List Chunk := []
  /-- the packet of a `LAND` that has no credit yet: destination module, cell, packet (R280, R409) -/
  landOut : Option (Nat × Nat × Packet) := none
  deriving DecidableEq, Repr

/-- A slot of the landing buffer (R409). -/
structure LandSlot where
  packet : Packet
  /-- its place in the order of arrival -/
  order : Nat := 0
  /-- a task or a wicket holds it as its current packet -/
  held : Bool := false
  /-- a wicket handler has been started on it -/
  served : Bool := false
  deriving DecidableEq, Repr

/-- A wicket context (R40, R41, R144). -/
structure Wicket where
  running : Bool := false
  regs : List DWord := List.replicate 16 0
  iss : Issue := {}
  ctx : BitVec 16 := 0
  packet : Option Nat := none
  start : Nat := 0
  timef : Word := 0
  /-- it runs with no task resident (R41) -/
  alone : Bool := false
  /-- energy of its events with no image on the cell, in 1/256 pJ (R316, notes/assumptions/107) -/
  ea : Nat := 0
  deriving DecidableEq, Repr

/-- A cached translation of one context's page (R382, R383). -/
structure TlbEntry where
  ctx : BitVec 16
  /-- virtual base and size of the page -/
  va : Nat
  large : Bool
  leaf : DWord
  deriving DecidableEq, Repr

/-- Whether and how an image occupies the cell (R297). -/
inductive ImageState where
  | none | restoring | active | saving
  deriving DecidableEq, Repr

/-- A stop of the resident task in progress (R301). -/
structure Stop where
  reason : StopReason
  /-- the cause of an absorbed fault, and the page that was not present -/
  cause : BitVec 8 := 0
  page : Nat := 0
  /-- the M marker has returned -/
  mDone : Bool := false
  /-- the landing tag awaited -/
  tag : BitVec 16 := 0
  deriving DecidableEq, Repr

/-- What the cell knows of the resident task (R122, R297, R301, R339, R343). -/
structure Resident where
  task : Option Nat := none
  image : ImageState := .none
  stop : Option Stop := none
  lastCtx : BitVec 16 := 0
  ctx : BitVec 16 := 0
  prio : BitVec 6 := 0
  maxred : BitVec 32 := 0
  /-- the kernel's declared maximum bounds, a nibble for each of S, V, M, C (R339) -/
  maxb : BitVec 16 := 0xFFFF
  det : Bool := false
  energy : BitVec 48 := 0
  esat : Bool := false
  ea : Nat := 0
  rc : BitVec 10 := 0
  escale : BitVec 5 := 0
  fenced : Bool := false
  /-- the codebook replay of the restore in progress is done (R279) -/
  replayed : Bool := false
  deriving DecidableEq, Repr

/-- The energy weights of a cell (R315). -/
structure Weights where
  scalar : BitVec 16 := 0
  vector : BitVec 16 := 0
  peStep : BitVec 16 := 0
  pair : BitVec 16 := 0
  copyB : BitVec 16 := 0
  hbmB : BitVec 16 := 0
  lpdB : BitVec 16 := 0
  cxlB : BitVec 16 := 0
  linkB : BitVec 16 := 0
  static : BitVec 16 := 0
  deriving DecidableEq, Repr

/-- A breakpoint (R434). -/
structure Breakpoint where
  en : Bool := false
  anyTag : Bool := false
  pcw : BitVec 50 := 0
  strm : BitVec 2 := 0
  tag : BitVec 10 := 0
  deriving DecidableEq, Repr

/-- The debug and sampling registers of a cell (R430 to R438). -/
structure Debug where
  halt : Bool := false
  /-- a stop is requested, with its `WHY` (R431) -/
  stopping : Option (BitVec 3) := none
  sstrm : BitVec 2 := 0
  brken : Bool := false
  stopped : Bool := false
  why : BitVec 3 := 0
  bstrm : BitVec 2 := 0
  bnum : BitVec 2 := 0
  stepblk : Bool := false
  /-- the stream whose entry a breakpoint stopped at does not match again (R434) -/
  bpSkip : Option Stream := none
  bps : List Breakpoint := List.replicate 4 {}
  stepping : Option Stream := none
  hc : List DWord := List.replicate 12 0
  tw : List DWord := List.replicate 32 0
  smpPer : BitVec 16 := 0
  smpCnt : DWord := 0
  smpAt : Nat := 0
  smp : List DWord := List.replicate 4 0
  smpCls : BitVec 6 := 0
  /-- the classes of the heads of V, M and C in the last cycle (R436) -/
  cls : List (BitVec 2) := List.replicate 3 0
  deriving DecidableEq, Repr

/-- Where an access of the module's own agents comes from: the context and the virtual address of its translation (R106), and for an
`ST` its own address (R435). -/
structure AccessOrigin where
  ctx : BitVec 16
  va : Nat
  pc : Option DWord := none
  deriving DecidableEq, Repr

/-- An access to a cell window that waits on a shutter, or a register write that waits for the owning
engine's next command boundary (R21, R22). -/
structure WindowAccess where
  agent : Nat × Agent
  off : Nat
  size : Nat
  wr : Option (List Byte)
  since : Nat
  via : Option AccessOrigin := none
  deriving DecidableEq, Repr

/-- A cell (R12). -/
structure Cell where
  s : SUnit := {}
  trap : TrapUnit := {}
  v : VUnit := {}
  m : MUnit := {}
  c : CUnit := {}
  ev : Engine := {}
  em : Engine := {}
  ec : Engine := {}
  tokens : List (BitVec 16) := List.replicate 32 0
  /-- reset FREE -/
  shutters : List (BitVec 3) := List.replicate 128 5
  /-- the 2 MiB scratchpad by byte offset -/
  pad : Memory := []
  tensors : List (BitVec 512) := List.replicate 256 0
  wickets : List Wicket := List.replicate 3 {}
  /-- the landing buffer, and the arrivals order (R409) -/
  landing : List (Option LandSlot) := List.replicate 16 none
  /-- fetched S words by context and address (notes/assumptions/9) -/
  icache : List ((BitVec 16 × DWord) × Word) := []
  gen : BitVec 32 := 0
  tlb : List TlbEntry := []
  /-- current-page and next-page registers: M's four, then C's three (R383) -/
  pageRegs : List (Option TlbEntry × Option TlbEntry) := List.replicate 7 (none, none)
  pfdist : BitVec 17 := 4096
  res : Resident := {}
  weights : Weights := {}
  dbg : Debug := {}
  winWaits : List WindowAccess := []
  /-- energy of a wicket's events with no image on the cell, before it is credited to the wicket (R316) -/
  loose : Nat := 0
  winRegs : List WindowAccess := []
  /-- agents whose access has met a save or a restore at the scratchpad (R302) -/
  barred : List (Nat × Agent) := []
  /-- the cycle of the last move of one of its agents, and that agent's place in the order of a cycle (R36, R99) -/
  moved : Option (Nat × Nat) := none
  deriving DecidableEq, Repr

/-- A request at a quad's atomic engine (R93 to R95). -/
structure AtomicReq where
  id : Nat
  cell : Nat
  agent : Agent
  /-- the context whose translation gave the address -/
  ctx : BitVec 16
  /-- the source die -/
  die : Nat
  pa : Nat
  width : Nat
  /-- `fn` of `ATOM`, or 31 for `CAS` -/
  op : Nat
  b : DWord
  cmp : DWord
  clock : List Word
  /-- the cycle of arrival -/
  since : Nat := 0
  admitted : Bool := false
  deriving DecidableEq, Repr

/-- A quad (R95, R382, R394). -/
structure Quad where
  tlb : List TlbEntry := []
  requests : List AtomicReq := []
  lastCell : Nat := 0
  misses : BitVec 4 := 0
  deriving DecidableEq, Repr

/-- Bytes written from an address on; with a mask, only its 1 bits are written (R87). -/
structure Part where
  addr : Nat
  bytes : List Byte
  mask : List Byte := []
  deriving DecidableEq, Repr

/-- A write that a die has sent to another die (R83): one part, or the planes and guard bits of one block (R101). -/
structure CrossWrite where
  dst : Nat
  src : Nat
  /-- number of the write, the same for each of its messages -/
  seq : Nat
  agent : Nat × Agent
  clock : List Word
  parts : List Part
  deriving DecidableEq, Repr

/-- Memory outside the cells: the four views, the writes between them, poison and errors (R16, R81 to R83, R423). -/
structure MemUnit where
  views : List Memory := List.replicate 4 []
  pend : List CrossWrite := []
  nextSeq : Nat := 0
  clocks : List (List Word) := List.replicate 4 (List.replicate 4 0)
  /-- bases of poisoned granules -/
  poison : List Nat := []
  /-- on-chip locations that hold an uncorrectable error (R425) -/
  uncorr : List ErrorSite := []
  deriving DecidableEq, Repr

/-- The state of a context (R290). -/
inductive CtxState where
  | free | active | faulted | destroyed
  deriving DecidableEq, Repr

/-- The dispatcher's copy of a context table entry (R290, R292, R298). -/
structure Context where
  state : CtxState := .free
  ptroot : Nat := 0
  tvec0 : DWord := 0
  fpool : Nat := 0
  fslots : Nat := 0
  fsize : Nat := 0
  nrbase : Nat := 0
  nrlog : Nat := 0
  supok : Bool := false
  esc : BitVec 5 := 0
  etotal : BitVec 48 := 0
  esat : Bool := false
  nrprod : BitVec 32 := 0
  slots : List Nat := []
  deriving DecidableEq, Repr

/-- A continuation record (R25). -/
structure Record where
  spc : DWord := 0
  vpc : DWord := 0
  mpc : DWord := 0
  cpc : DWord := 0
  frame : DWord := 0
  taskid : BitVec 32 := 0
  nodeid : BitVec 32 := 0
  basepri : BitVec 8 := 0
  ceilpri : BitVec 8 := 0
  ctxid : BitVec 16 := 0
  launchid : BitVec 32 := 0
  skind : BitVec 8 := 0
  scause : BitVec 8 := 0
  sinfo : BitVec 16 := 0
  flags : BitVec 8 := 0
  resv : BitVec 24 := 0
  deriving DecidableEq, Repr

/-- The states of a task (R31). -/
inductive TaskState where
  | waiting | ready | dispatched | running | suspFault | suspYield | suspLand | suspPreempt | retired
  | cancelled
  deriving DecidableEq, Repr

/-- The image of a task that is off a cell: what the private regions of its save frame hold (R299). -/
structure Image where
  s : SUnit
  trap : TrapUnit
  vMasks : List (BitVec 64)
  vPreds : BitVec 8
  affine : List Affine
  ev : Engine
  em : Engine
  ec : Engine
  m : MUnit
  sb : DWord
  db : DWord
  lastLoad : List (Option CbLoad)
  wickets : List Wicket
  res : Resident
  accv : Bool
  tfv : Bool
  landOut : Option (Nat × Nat × Packet)
  deriving DecidableEq, Repr

/-- A task known to the dispatcher (R25, R31). -/
structure Task where
  record : Record
  /-- virtual address of the record -/
  va : Nat
  state : TaskState
  deps : Nat := 0
  /-- cycle at which its wait began (R327) -/
  waitSince : Nat := 0
  slot : Option Nat := none
  cell : Option Nat := none
  image : Option Image := none
  /-- the page it waits for (R385) -/
  page : Nat := 0
  /-- the module it was stolen from, and the order key in the pool (R326, R332) -/
  stolenFrom : Option Nat := none
  order : Nat := 0
  cancelReq : Bool := false
  argBlock : DWord := 0
  /-- the queue it was taken from; 2,048 for a stolen task, above every real one (R327) -/
  qid : Nat := 2048
  /-- the cell it last ran on (R313, R327, R411) -/
  lastCell : Nat := 0
  dispatchedAt : Nat := 0
  /-- header address and header copy that came with a stolen task (R332, notes/assumptions/26) -/
  kernel : Option (Nat × BitVec 512) := none
  /-- it has been stolen before; the module that has it now; its thief has not acknowledged it (R332) -/
  wasStolen : Bool := false
  stolenTo : Option Nat := none
  granted : Bool := false
  /-- the cell on which a pre-emption is outstanding on its behalf (R329) -/
  wants : Option Nat := none
  /-- the page it faulted on has become resident before its save was complete (R385) -/
  woken : Bool := false
  deriving DecidableEq, Repr

/-- A slot that has been put and not taken: the cycle of its put, its place among all puts (R327), and the launch it was put
into; for a launch of another module also whether the tasks put into it are written off (R354) or held (R357), and its
header (R340). -/
structure SlotPut where
  since : Nat := 0
  seq : Nat := 0
  launch : BitVec 32 := 0
  gone : Bool := false
  held : Bool := false
  kernel : Option (Nat × BitVec 512) := none
  /-- the ceiling priority of the record that was put (R28, R327), and the cell on which a pre-emption is outstanding on the
  task's behalf (R329) -/
  ceil : Nat := 63
  wants : Option Nat := none
  deriving DecidableEq, Repr

/-- Untaken slots whose cancelling waits on a shutter (R21, R324): the queue and its copy, the next slot, how many are left,
and how many records have been cancelled; whether the context's DESTROY asked for it. -/
structure SlotCancel where
  qid : Nat
  next : Nat
  left : List SlotPut
  done : Nat
  byCtx : Bool
  deriving DecidableEq, Repr

/-- The dispatcher's copy of a ready queue's entry (R319). -/
structure RQueue where
  state : BitVec 3 := 0
  base : Nat := 0
  rlog : Nat := 0
  level : BitVec 6 := 0
  ctx : BitVec 16 := 0
  put : BitVec 32 := 0
  take : BitVec 32 := 0
  ncancel : BitVec 32 := 0
  /-- the untaken slots, oldest first (R326) -/
  puts : List SlotPut := []
  deriving DecidableEq, Repr

/-- A graph's node that holds or has held a launch: its id (0 until a launch of another module has got one), whether it
is COMPLETE, and whether it is held (R357). -/
structure GNode where
  launch : BitVec 32
  complete : Bool := false
  held : Bool := false
  /-- the group's state with a count of 0 before a launch of another module joined (R346) -/
  was : BitVec 3 := 2
  deriving DecidableEq, Repr

/-- A group (R349), with what its home dispatcher keeps: the header copy and operand declarations of a
launch (R340, R344), the edges of a graph (R356). A phase or a job keeps its members on other modules as nodes. -/
structure Group where
  state : BitVec 3 := 7
  level : BitVec 2 := 0
  err : Bool := false
  bnd : BitVec 2 := 0
  ctx : BitVec 16 := 0
  parent : BitVec 32 := 0
  count : BitVec 48 := 0
  bval : DWord := 0
  node : BitVec 32 := 0
  nedge : BitVec 32 := 0
  garg : DWord := 0
  header : BitVec 512 := 0
  /-- a launch that `LAUNCH` bound to a kernel (R340) -/
  bound : Bool := false
  ops : List (BitVec 128) := []
  edges : List (Nat × Nat) := []
  nodes : List (Nat × GNode) := []
  /-- a launch that is a graph node is held (R357) -/
  held : Bool := false
  /-- the barrier of a phase's boundary has been RELEASED since its CLOSE (R354) -/
  met : Bool := false
  /-- how many tasks and peer stores of a launch other modules hold, by module (R351, R354) -/
  afar : List (Nat × Nat) := []
  /-- modules and cells whose `GCTL` WAIT stalls on the group (R360) -/
  waiters : List (Nat × Nat) := []
  deriving DecidableEq, Repr

/-- A barrier (R364). -/
structure Barrier where
  state : BitVec 2 := 0
  auto : Bool := false
  err : Bool := false
  epoch : BitVec 16 := 0
  parts : BitVec 16 := 0
  arrv : BitVec 16 := 0
  expect : DWord := 0
  pend : DWord := 0
  rtime : DWord := 0
  deriving DecidableEq, Repr

/-- An arrival sent to the barrier unit and not applied yet (R366, R367). -/
structure Arrival where
  cell : Nat
  agent : Agent
  ctx : BitVec 16
  barrier : Nat
  bytes : DWord
  /-- the cycle in which it was sent -/
  sent : Nat := 0
  deriving DecidableEq, Repr

/-- The dispatcher, with the barrier unit beside it (R291, R321, R326, R357, R362). Objects are kept by
number in ascending order; one that is not listed is as the table's write left it: FREE, DESTROYED or IDLE. -/
structure Dispatcher where
  ctxtbl : BitVec 50 := 0
  ctxBusy : Bool := false
  ctxResult : BitVec 3 := 0
  contexts : List (Nat × Context) := []
  qtbl : BitVec 50 := 0
  qcmdArg : BitVec 52 := 0
  qbusy : Bool := false
  qresult : BitVec 3 := 0
  spillbase : BitVec 50 := 0
  ageStep : BitVec 24 := 65536
  preemptDelta : BitVec 6 := 8
  lowMark : BitVec 16 := 64
  highMark : BitVec 16 := 1024
  stealMax : BitVec 8 := 16
  stealEn : Bool := false
  weirRel : Bool := false
  queues : List (Nat × RQueue) := []
  tasks : List (Nat × Task) := []
  nextTask : Nat := 0
  gtbl : BitVec 50 := 0
  groups : List (Nat × Group) := []
  lastSlot : Nat := 0
  jsQid : BitVec 11 := 0
  jsPart : BitVec 25 := 0
  jsKhdr : BitVec 52 := 0
  jsBusy : Bool := false
  jsStat : BitVec 3 := 0
  jsKst : BitVec 4 := 0
  jsJob : BitVec 32 := 0
  btbl : BitVec 50 := 0
  barriers : List (Nat × Barrier) := []
  arrivals : List Arrival := []
  /-- the neighbours' last published occupancy, by port (R331) -/
  occupancy : List (BitVec 32) := List.replicate 6 0
  stealPort : Option Nat := none
  /-- tiles whose shutter keeps an access of the dispatcher waiting, by number, with the cycle from which it waits (R21) -/
  portWaits : List (Nat × Nat) := []
  /-- additions to `KLIVE` that wait on a shutter: context, address, amount (R21, R340) -/
  kliveWaits : List (BitVec 16 × Nat × Int) := []
  /-- puts so far (R327) -/
  nextPut : Nat := 0
  /-- a PUT of the host whose launch's home has not answered: queue, record address, record (R335, R353) -/
  farPut : Option (Nat × Nat × List Byte) := none
  /-- destructions of queues that have not cancelled every slot (R322, R324) -/
  cancels : List SlotCancel := []
  /-- a job start that waits to read its record or header: record address, context (R21, R359) -/
  jobWait : Option (Nat × BitVec 16) := none
  /-- a task has entered READY since the last evaluation of pre-emption (R329) -/
  entered : Bool := false
  /-- this module's own occupancy as its neighbours see it (R331) -/
  published : BitVec 32 := 0
  deriving DecidableEq, Repr

/-- The state of a migration (R386, R387). -/
inductive SluiceState where
  | sluice | switching | aborting
  deriving DecidableEq, Repr

/-- An entry of the sluice table (R386). -/
structure Sluice where
  ctx : BitVec 16
  va : Nat
  pte : Nat
  src : Nat
  dst : Nat
  f : Nat
  state : SluiceState
  cword : Nat
  reason : Nat := 0
  deriving DecidableEq, Repr

/-- A host invalidation in progress: its range, and the number of the next write when it began (R399). -/
structure PageInv where
  ctx : BitVec 16
  base : Nat
  size : Nat
  mark : Nat
  deriving DecidableEq, Repr

/-- The migration engine and the page registers (R386, R399). -/
structure PageUnit where
  sluice : List Sluice := []
  hotbase : BitVec 50 := 0
  hotEn : Bool := false
  decay : BitVec 8 := 0
  skipPinned : DWord := 0
  pginvVa : BitVec 52 := 0
  pginv : Option PageInv := none
  deriving DecidableEq, Repr

/-- A torus port (R402, R403). -/
structure Port where
  en : Bool := false
  detreq : Bool := false
  ptprole : BitVec 2 := 0
  /-- 0 DOWN, 1 TRAINING, 2 UP, 3 DETERMINISTIC, 4 DEGRADED -/
  state : BitVec 3 := 0
  retrains : BitVec 16 := 0
  lostpk : BitVec 32 := 0
  /-- the cycle at which it entered its state (R403) -/
  since : Nat := 0
  deriving DecidableEq, Repr

/-- What a packet sent on a torus port carries (R404). -/
inductive Payload where
  | store (va size : Nat) (data : DWord) (det : Bool)
  | landing (cell : Nat) (p : Packet)
  | chunk (c : Chunk)
  | group (msg : GroupMsg)
  /-- the answer to a form of `GCTL` or a `LAUNCH` of another module's cell (R348) -/
  | reply (cell : Nat) (v : DWord)
  | steal (recs : List StolenRecord)
  | stealRequest
  | stealAck (rec : Nat)
  | stealReturn (rec : Nat)
  deriving DecidableEq, Repr

/-- A packet sent and not acknowledged (R404 to R406). -/
structure OutPacket where
  dst : Nat
  port : Nat
  cell : Nat
  agent : Agent
  ctx : BitVec 16
  /-- the launch that counts a peer store (R351) -/
  launch : BitVec 32 := 0
  sentAt : Nat := 0
  payload : Payload
  /-- one to the module itself has arrived (R404) -/
  applied : Bool := false
  deriving DecidableEq, Repr

/-- The torus ports and the clock servo (R400 to R418). -/
structure Link where
  mx : BitVec 4 := 0
  my : BitVec 4 := 0
  mz : BitVec 4 := 0
  dxm : BitVec 4 := 0
  dym : BitVec 4 := 0
  dzm : BitVec 4 := 0
  ports : List Port := List.replicate 6 {}
  detrate : BitVec 16 := 4096
  detOvr : BitVec 32 := 0
  /-- recent packets of channel 0: cycle, cell, port, bytes (R408) -/
  detLog : List (Nat × Nat × Nat × Nat) := []
  out : List OutPacket := []
  /-- nanoseconds with 32 fraction bits (R415) -/
  time : BitVec 96 := 0
  /-- added to `time` each array cycle (notes/assumptions/16) -/
  timeIncr : BitVec 96 := 0x55555555
  tsEn : Bool := false
  gm : Bool := false
  domain : BitVec 8 := 0
  tsrc : Bool := false
  twostep : Bool := false
  lock : Bool := false
  stepped : Bool := false
  skewbound : BitVec 32 := 0xFFFFFFFF
  /-- sync intervals in a row with a small offset, up to 16 (R417) -/
  syncGood : Nat := 0
  /-- the port towards the parent; 6 is the management Ethernet (R416, R417) -/
  parent : Option Nat := none
  /-- the servo's correction in parts per million (R415) -/
  rate : Int := 0
  deriving DecidableEq, Repr

/-- A record of the black box (R439). -/
structure BbRecord where
  time : DWord := 0
  seq : BitVec 32 := 0
  code : BitVec 16 := 0
  sev : BitVec 2 := 0
  srck : BitVec 8 := 0
  srcn : BitVec 16 := 0
  ctx : BitVec 16 := 0
  info2 : BitVec 32 := 0
  info : DWord := 0
  deriving DecidableEq, Repr

/-- The black box (R439 to R442). -/
structure BlackBox where
  seq : BitVec 32 := 0
  frozen : Bool := false
  freeze : Bool := false
  lost : BitVec 32 := 0
  ridx : BitVec 12 := 0
  data : List DWord := List.replicate 4 0
  /-- the slots, the newest record first (R440) -/
  records : List BbRecord := []
  /-- events left before the freeze after a FATAL one (R440) -/
  countdown : Option Nat := none
  /-- the cycle of the newest record, and the records of that cycle (R440) -/
  lastAt : Nat := 0
  fresh : Nat := 0
  deriving DecidableEq, Repr

/-- The management core's registers, the sensors and the host port (R419, R444 to R457). -/
structure Device where
  mstate : BitVec 3 := 0
  warm : Bool := false
  degr : Bool := false
  postUnits : BitVec 16 := 0
  postCells : List DWord := [0, 0, 0]
  mbox : List DWord := List.replicate 8 0
  meas : List (BitVec 512) := [0, 0]
  attNonce : BitVec 256 := 0
  attBusy : Bool := false
  attDone : Bool := false
  attRidx : BitVec 12 := 0
  report : List Byte := []
  fusedMin : Word := 0
  imageVersion : Word := 0
  tj : List (BitVec 12) := List.replicate 32 0
  tpoint : List (BitVec 3) := List.replicate 4 0
  clkpct : List (BitVec 7) := List.replicate 4 100
  hbmT : List (BitVec 12) := List.replicate 16 0
  rfx : List (BitVec 2) := List.replicate 16 0
  inlet : BitVec 12 := 0
  outlet : BitVec 12 := 0
  pwr : BitVec 12 := 0
  weirSp : BitVec 12 := 0
  weirHys : BitVec 10 := 100
  ceCounts : List Nat := List.replicate 4 0
  hostWidth : Nat := 16
  vectors : List Nat := []
  halted : Bool := false
  /-- what the last access of the host or of the management core returned: the data, whether it is poisoned, and
  whether it ended in a completer abort (R18, R419, R443) -/
  hostData : DWord := 0
  hostPoison : Bool := false
  hostAbort : Bool := false
  deriving DecidableEq, Repr

/-- The cycles at which the module's periodic work was last done; those of a die by die. -/
structure Timers where
  preempt : Nat := 0
  decay : Nat := 0
  weir : Nat := 0
  occupancy : Nat := 0
  thermal : List Nat := List.replicate 4 0
  clock : List Nat := List.replicate 4 0
  correctable : List Nat := List.replicate 4 0
  deriving DecidableEq, Repr

/-- What moves next: an agent's instruction, an event of the table, or the clock (notes/assumptions/3). -/
inductive Move where
  | agent (cell : Nat) (ag : Agent)
  | event (e : Instr)
  | cycles (n : Nat)
  deriving DecidableEq, Repr

/-- A module. `agenda`, `focus`, `stalled` and `free` are the model's own (notes/assumptions/3, 13). -/
structure State where
  agenda : List Move := []
  focus : Nat × Agent := (0, .stream .s)
  /-- the last instruction of the focus could not issue or complete -/
  stalled : Bool := false
  free : Nat := 0
  /-- array cycles since reset -/
  cycle : Nat := 0
  cells : List Cell := List.replicate Config.cells {}
  quads : List Quad := List.replicate Config.quads {}
  mem : MemUnit := {}
  disp : Dispatcher := {}
  page : PageUnit := {}
  link : Link := {}
  bb : BlackBox := {}
  dev : Device := {}
  timers : Timers := {}
  deriving DecidableEq, Repr

/-- The module right after reset (R4): every register at its reset value, no task, nothing in memory. -/
def State.reset : State := {}

end Sys2Proof.Machine
end

