-- ==== Sys2Proof/Machine/Bits.lean ====
section
/-! DEFINITION. Bytes, bit fields, objects kept by number, and memory as a canonical list of bytes. -/

namespace Sys2Proof.Machine

/-- `sext` of the specification: the low `n` bits of `x` read as two's complement. -/
def sextNat (n x : Nat) : Int :=
  let y := x % 2 ^ n
  if 2 ^ (n - 1) ≤ y then (y : Int) - 2 ^ n else y

/-- The bits of `x` from `lo` up, `n` of them. -/
def bitsAt (x lo n : Nat) : Nat := x / 2 ^ lo % 2 ^ n

/-- The bits [`lo` + `n` − 1:`lo`] of a wide word. -/
def field {m : Nat} (x : BitVec m) (lo n : Nat) : BitVec n := x.extractLsb' lo n

/-- `x` with the field of `v`'s width at `lo` replaced. -/
def setField {m n : Nat} (x : BitVec m) (lo : Nat) (v : BitVec n) : BitVec m :=
  let mask : BitVec m := (BitVec.allOnes n).setWidth m <<< lo
  (x &&& ~~~mask) ||| (v.setWidth m <<< lo)

/-- The value of little-endian bytes. -/
def leNat (bs : List Byte) : Nat :=
  match bs with
  | [] => 0
  | b :: r => b.toNat + 256 * leNat r

/-- `n` little-endian bytes of `v`. -/
def leBytes (n v : Nat) : List Byte :=
  match n with
  | 0 => []
  | n + 1 => BitVec.ofNat 8 v :: leBytes n (v / 256)

/-- A bit of a Bool, as the specification writes it. -/
def bit (b : Bool) : Nat := if b then 1 else 0

/-- The object of number `k` in a list kept by number. -/
def look {α : Type} (l : List (Nat × α)) (k : Nat) : Option α :=
  match l with
  | [] => none
  | (j, a) :: r => if j = k then some a else look r k

/-- Places the object of number `k`, in ascending order of number. -/
def store {α : Type} (l : List (Nat × α)) (k : Nat) (a : α) : List (Nat × α) :=
  match l with
  | [] => [(k, a)]
  | (j, b) :: r => if k < j then (k, a) :: (j, b) :: r else if j = k then (k, a) :: r else (j, b) :: store r k a

/-- Removes the object of number `k`. -/
def drop {α : Type} (l : List (Nat × α)) (k : Nat) : List (Nat × α) := l.filter fun x => x.1 ≠ k

/-- The list with element `k` changed. -/
def modAt {α : Type} (l : List α) (k : Nat) (f : α → α) : List α :=
  match l, k with
  | [], _ => []
  | a :: r, 0 => f a :: r
  | a :: r, k + 1 => a :: modAt r k f

/-- The list with every element changed, with its place counted from `k`. -/
def mapFrom {α : Type} (k : Nat) (f : Nat → α → α) (l : List α) : List α :=
  match l with
  | [] => []
  | a :: r => f k a :: mapFrom (k + 1) f r

/-- The byte at `a`; a byte that nothing has written reads 0 (DESIGN CHOICE, notes/assumptions/2). -/
def Memory.read (m : Memory) (a : Nat) : Byte :=
  match m with
  | [] => 0
  | (k, b) :: r => if k = a then b else Memory.read r a

/-- Writes one byte; the list stays strictly rising and lists no byte that reads 0 anyway. -/
def Memory.write (m : Memory) (a : Nat) (b : Byte) : Memory :=
  match m with
  | [] => if b = 0 then [] else [(a, b)]
  | (k, v) :: r =>
    if a < k then (if b = 0 then (k, v) :: r else (a, b) :: (k, v) :: r)
    else if a = k then (if b = 0 then r else (a, b) :: r)
    else (k, v) :: Memory.write r a b

/-- `n` bytes from `a` up. -/
def Memory.readN (m : Memory) (a n : Nat) : List Byte := (List.range n).map fun i => m.read (a + i)

/-- Writes bytes from `a` up. -/
def Memory.writeN (m : Memory) (a : Nat) (bs : List Byte) : Memory :=
  match bs with
  | [] => m
  | b :: r => Memory.writeN (m.write a b) (a + 1) r

/-- Every byte of [`a`, `a` + `n`) becomes 0. -/
def Memory.clear (m : Memory) (a n : Nat) : Memory := m.filter fun c => c.1 < a || a + n ≤ c.1

/-- The canonical form: addresses strictly rising, and no listed byte is 0. -/
def Memory.wf (m : Memory) : Bool :=
  match m with
  | [] => true
  | (k, v) :: r => v ≠ 0 && r.all (fun c => k < c.1) && Memory.wf r

end Sys2Proof.Machine
end

