-- ==== Sys2Proof/Machine/Numbers.lean ====
section
/-! DEFINITION. Element formats, exact values, rounding, conversion, planes, L6 and quantisation
arithmetic (R43 to R74). A format is named by its code of R43. -/

namespace Sys2Proof.Machine

/-- An exact value: a NaN (or NaR), an infinity, or (−1)^`neg` × `m` × 2^(`q`/4). -/
inductive Num where
  | nan
  | inf (neg : Bool)
  | fin (neg : Bool) (m : Nat) (q : Int)
  deriving DecidableEq, Repr

/-- A binary floating-point format: exponent and fraction widths, bias, largest finite code, NaN code (R44, R45). -/
structure FloatFmt where
  eb : Nat
  mb : Nat
  bias : Nat
  maxCode : Nat
  nanCode : Nat
  deriving DecidableEq, Repr

/-- The floating-point formats of R43. -/
def floatFmt (f : Nat) : Option FloatFmt :=
  match f with
  | 0 => some ⟨8, 23, 127, 0x7F7FFFFF, 0x7FC00000⟩
  | 1 => some ⟨5, 10, 15, 0x7BFF, 0x7E00⟩
  | 2 => some ⟨8, 7, 127, 0x7F7F, 0x7FC0⟩
  | 3 => some ⟨5, 2, 15, 0x7B, 0x7E⟩
  | 4 => some ⟨4, 3, 7, 0x7E, 0x7F⟩
  | _ => none

/-- The width in bits of an element (R43, R48); a planed format has the width of its full format. -/
def fmtWidth (f : Nat) : Nat :=
  [32, 16, 16, 8, 8, 8, 8, 4, 32, 6, 8, 16, 32, 8].getD f 0

/-- The full format of a planed format; any other format is its own (R67). -/
def fullFmt (f : Nat) : Nat := if f = 11 then 1 else if f = 12 then 0 else if f = 13 then 5 else f

/-- The narrow format of plane 0 (R67). -/
def narrowFmt (f : Nat) : Nat := if f = 11 then 3 else if f = 12 then 2 else if f = 13 then 7 else f

/-- Whether the format is planed (R67). -/
def isPlaned (f : Nat) : Bool := 11 ≤ f && f ≤ 13

/-- The range of an integer format (R43). -/
def intRange (f : Nat) : Option (Int × Int) :=
  match f with
  | 5 => some (-128, 127)
  | 6 => some (0, 255)
  | 7 => some (-8, 7)
  | 8 => some (-2147483648, 2147483647)
  | _ => none

/-- An integer as an exact value. -/
def Num.ofInt (i : Int) : Num := .fin (decide (i < 0)) i.natAbs 0

/-- The value of a floating-point code (R44, R45). -/
def FloatFmt.value (f : FloatFmt) (code : Nat) : Num :=
  let frac := bitsAt code 0 f.mb
  let e := bitsAt code f.mb f.eb
  let neg := bitsAt code (f.mb + f.eb) 1 = 1
  let mag := bitsAt code 0 (f.mb + f.eb)
  if mag > f.maxCode then (if e = 2 ^ f.eb - 1 && frac = 0 then .inf neg else .nan)
  else .fin neg (if e = 0 then frac else frac + 2 ^ f.mb) (4 * ((max e 1 : Nat) - f.bias - f.mb : Int))

/-- The exact value of a code of format `f` (R43 to R47). -/
def fmtValue (f code : Nat) : Num :=
  match floatFmt f with
  | some ff => ff.value (code % 2 ^ (1 + ff.eb + ff.mb))
  | none =>
    if f = 9 then
      let m := bitsAt code 0 5
      let neg := bitsAt code 5 1 = 1
      if m = 0 then (if neg then .nan else .fin false 0 0) else .fin neg 1 (m - 16)
    else if f = 10 then (if code % 256 = 255 then .nan else .fin false 1 (4 * ((code % 256 : Nat) - 127)))
    else if f = 6 then .ofInt (code % 256)
    else .ofInt (sextNat (fmtWidth f) code)

/-- The dither table of R52. -/
def ditherD : List Nat := [0, 8, 4, 12, 2, 10, 6, 14, 1, 9, 5, 13, 3, 11, 7, 15]

/-- How a conversion rounds: the mode of R51, the saturating qualifier, and the dither threshold of R52. -/
structure Rnd where
  rm : Nat := 0
  sat : Bool := false
  d : Nat := 0
  deriving DecidableEq, Repr

/-- Rounding for an element at position `pos` under phase `ph` (R52). -/
def Rnd.at (rm : Nat) (sat : Bool) (pos : Nat) (ph : BitVec 4) : Rnd :=
  ⟨rm, sat, ditherD.getD ((pos + ph.toNat) % 16) 0⟩

/-- floor(2^(r/4) × 2^128) for r = 0 to 3. -/
def quarterRoot (r : Nat) : Nat :=
  match r with
  | 0 => 2 ^ 128
  | 1 => 404666211852346594250993303657235475948
  | 2 => 481231938336009023090067544955250113854
  | _ => 572284445035732655173711722608636624828

/-- A magnitude as a truncated binary value `t` × 2^`e`, with `sticky` when something was cut off (R57). -/
def truncated (m : Nat) (q : Int) : Nat × Int × Bool :=
  let r := (q % 4).toNat
  if r = 0 then (m, q / 4, false) else (m * quarterRoot r, q / 4 - 128, true)

/-- Rounds the magnitude `t` × 2^`e` (plus a cut-off part when `sticky`) to `p` bits, with no bit below
2^`lsbMin`: the retained integer and the exponent of its last bit (R51, R52). -/
def roundMag (r : Rnd) (neg : Bool) (p : Nat) (lsbMin : Int) (t : Nat) (e : Int) (sticky : Bool) : Nat × Int :=
  if t = 0 then (0, lsbMin) else
  let l : Int := max (e + (Nat.log2 t + 1 : Nat) - p) lsbMin
  if l ≤ e then (t * 2 ^ (e - l).toNat, l) else
  let k := (l - e).toNat
  let mant := t / 2 ^ k
  let rem := t % 2 ^ k
  let half := 2 ^ (k - 1)
  let inexact := rem ≠ 0 || sticky
  let inc : Bool :=
    match r.rm with
    | 0 => half < rem || (rem = half && (sticky || mant % 2 = 1))
    | 1 => false
    | 2 => neg && inexact
    | 3 => !neg && inexact
    | _ => decide (r.d < t * 16 / 2 ^ k % 16)
  (mant + bit inc, l)

/-- Rounds to an integer (R55). -/
def roundInt (r : Rnd) (x : Num) : Int :=
  match x with
  | .fin neg m q =>
    let (t, e, s) := truncated m q
    let (v, l) := roundMag r neg 4096 0 t e s
    let w : Int := (v * 2 ^ l.toNat : Nat)
    if neg then -w else w
  | _ => 0

/-- Clamps to a range. -/
def clampInt (lo hi x : Int) : Int := if x < lo then lo else if hi < x then hi else x

/-- The code of an integer in `n` bits. -/
def intCode (n : Nat) (x : Int) : Nat := (x % (2 ^ n : Nat)).toNat

/-- What an out-of-range or infinite magnitude becomes (R55). -/
def FloatFmt.overflow (f : FloatFmt) (r : Rnd) (neg infSrc : Bool) : Nat :=
  let sgn := bit neg * 2 ^ (f.eb + f.mb)
  let e4m3 := f.eb = 4
  if r.sat then sgn + f.maxCode
  else if infSrc then (if e4m3 then f.nanCode else sgn + f.maxCode + 1)
  else if r.rm = 1 || (r.rm = 2 && !neg) || (r.rm = 3 && neg) then sgn + f.maxCode
  else if e4m3 then f.nanCode else sgn + f.maxCode + 1

/-- Converts an exact value to a floating-point code (R49, R50, R55). -/
def FloatFmt.code (f : FloatFmt) (r : Rnd) (x : Num) : Nat :=
  match x with
  | .nan => f.nanCode
  | .inf neg => f.overflow r neg true
  | .fin neg m q =>
    let (t, e, s) := truncated m q
    let lsb : Int := 1 - (f.bias : Int) - f.mb
    let (v, l) := roundMag r neg (f.mb + 1) lsb t e s
    let c := (l - lsb).toNat * 2 ^ f.mb + v
    if c > f.maxCode then f.overflow r neg false else bit neg * 2 ^ (f.eb + f.mb) + c

/-- Whether a magnitude is a power of two. -/
def isPow2 (m : Nat) : Bool := m ≠ 0 && 2 ^ Nat.log2 m = m

/-- Converts to L6 in the logarithmic domain (R46, R56). -/
def l6Code (r : Rnd) (x : Num) : Nat :=
  match x with
  | .nan => 0x20
  | .inf neg => bit neg * 32 + 31
  | .fin neg m q =>
    if m = 0 then 0 else
    let fl : Int := q + 16 + Nat.log2 (m ^ 4)
    let ce : Int := if isPow2 m then fl else fl + 1
    let near : Int := (2 * q + 33 + Nat.log2 (m ^ 8)) / 2
    let away := (r.rm = 2 && neg) || (r.rm = 3 && !neg)
    let nearest := r.rm = 0 || 4 ≤ r.rm
    let v : Int := if nearest then near else if away then ce else fl
    if 31 ≤ v then bit neg * 32 + 31
    else if v < 1 then (if !nearest && away then bit neg * 32 + 1 else 0)
    else bit neg * 32 + v.toNat

/-- Converts to E8M0 (R58). -/
def e8Code (r : Rnd) (x : Num) : Nat :=
  match x with
  | .fin _ m q =>
    if m = 0 then 0 else
    let y : Int := q + Nat.log2 (m ^ 4)
    let exact := isPow2 m
    let e : Int :=
      if r.rm = 1 || r.rm = 2 then y / 4
      else if r.rm = 3 then (if exact && y % 4 = 0 then y / 4 else y / 4 + 1)
      else if exact && y % 4 = 2 then (if (y / 4 + 127) % 2 = 0 then y / 4 else y / 4 + 1)
      else (y + 2) / 4
    (clampInt 0 254 (e + 127)).toNat
  | _ => 255

/-- Converts an exact value to a code of format `f` (R55 to R58). -/
def fmtCode (f : Nat) (r : Rnd) (x : Num) : Nat :=
  match floatFmt f with
  | some ff => ff.code r x
  | none =>
    if f = 9 then l6Code r x
    else if f = 10 then e8Code r x
    else match intRange f with
      | none => 0
      | some (lo, hi) =>
        match x with
        | .nan => 0
        | .inf neg => intCode (fmtWidth f) (if neg then lo else hi)
        | .fin .. => intCode (fmtWidth f) (clampInt lo hi (roundInt r x))

/-- Multiplies by 2^k exactly (R60). -/
def Num.scale (x : Num) (k : Int) : Num :=
  match x with
  | .fin neg m q => .fin neg m (q + 4 * k)
  | y => y

/-- The exact negative. -/
def Num.neg (x : Num) : Num :=
  match x with
  | .nan => .nan
  | .inf n => .inf (!n)
  | .fin n m q => .fin (!n) m q

/-- The exact sum; an exact sum of operands of opposite signs that is 0 is +0 (R50). Operands lie on a
binary grid (`q` a multiple of 4). -/
def Num.add (x y : Num) : Num :=
  match x, y with
  | .nan, _ => .nan
  | _, .nan => .nan
  | .inf a, .inf b => if a = b then .inf a else .nan
  | .inf a, .fin .. => .inf a
  | .fin .., .inf b => .inf b
  | .fin a m p, .fin b n q =>
    let r := min p q
    let u : Int := (m * 2 ^ ((p - r) / 4).toNat : Nat)
    let v : Int := (n * 2 ^ ((q - r) / 4).toNat : Nat)
    let w := (if a then -u else u) + (if b then -v else v)
    if w = 0 then .fin (a && b) 0 r else .fin (decide (w < 0)) w.natAbs r

/-- The exact product. -/
def Num.mul (x y : Num) : Num :=
  match x, y with
  | .nan, _ => .nan
  | _, .nan => .nan
  | .inf a, .inf b => .inf (a != b)
  | .inf a, .fin b n _ => if n = 0 then .nan else .inf (a != b)
  | .fin a m _, .inf b => if m = 0 then .nan else .inf (a != b)
  | .fin a m p, .fin b n q => .fin (a != b) (m * n) (p + q)

/-- The value is a NaN. -/
def Num.isNan (x : Num) : Bool := x = .nan

/-- `x` < `y` for ordered values, with −0 = +0. -/
def Num.lt (x y : Num) : Bool :=
  match x, y with
  | .nan, _ => false
  | _, .nan => false
  | .inf a, .inf b => a && !b
  | .inf a, .fin .. => a
  | .fin .., .inf b => !b
  | .fin a m p, .fin b n q =>
    let r := min p q
    let u : Int := (m * 2 ^ ((p - r) / 4).toNat : Nat)
    let v : Int := (n * 2 ^ ((q - r) / 4).toNat : Nat)
    decide ((if a then -u else u) < (if b then -v else v))

/-- Both are ordered and equal, with −0 = +0. -/
def Num.eqv (x y : Num) : Bool := !x.isNan && !y.isNan && !x.lt y && !y.lt x

/-- The sign of a value. -/
def Num.isNeg (x : Num) : Bool :=
  match x with
  | .nan => false
  | .inf n => n
  | .fin n _ _ => n

/-- `VMIN` of two float values: a NaN if either is, else the smaller with −0 < +0 (R179). -/
def Num.min (x y : Num) : Num :=
  if x.isNan || y.isNan then .nan else if x.lt y then x else if y.lt x then y else if x.isNeg then x else y

/-- `VMAX` (R179). -/
def Num.max (x y : Num) : Num :=
  if x.isNan || y.isNan then .nan else if x.lt y then y else if y.lt x then x else if x.isNeg then y else x

/-- `rne_fp32` and its fellows: one rounding with RNE (R173). -/
def rne (f : Nat) (x : Num) : Nat := fmtCode f {} x

/-- The correctly rounded reciprocal (R180), from a quotient cut off at 2^−256 of the unit. -/
def recip (f : Nat) (x : Num) : Nat :=
  match x, floatFmt f with
  | .nan, _ => rne f .nan
  | .inf n, _ => rne f (.fin n 0 0)
  | .fin n m q, some ff =>
    if m = 0 then rne f (.inf n) else
    let t := 2 ^ 256 / m
    let sticky := 2 ^ 256 % m ≠ 0
    let lsb : Int := 1 - (ff.bias : Int) - ff.mb
    let (v, l) := roundMag {} n (ff.mb + 1) lsb t (-(q / 4) - 256) sticky
    let c := (l - lsb).toNat * 2 ^ ff.mb + v
    if c > ff.maxCode then ff.overflow {} n false else bit n * 2 ^ (ff.eb + ff.mb) + c
  | .fin .., none => 0

/-- floor(ln 2 × 2^256). -/
def ln2 : Nat := 80260960185991308862233904206310070533990667611589946606122867505419956976171

/-- The terms of the exponential series of `y`/2^256 from term `k` on, `fuel` of them, in units of 2^−256. -/
def expSeries (fuel k y term : Nat) : Nat :=
  match fuel with
  | 0 => 0
  | n + 1 => term + expSeries n (k + 1) y (term * y / 2 ^ 256 / (k + 1))

/-- The correctly rounded power of two (R180): exact for an integer, else from 256 fraction bits
(DEDUCED that they decide the rounding, notes/assumptions/12). -/
def exp2 (f : Nat) (x : Num) : Nat :=
  match x, floatFmt f with
  | .nan, _ => rne f .nan
  | .inf n, _ => rne f (if n then .fin false 0 0 else .inf false)
  | .fin neg m q, some ff =>
    if m = 0 then rne f (.fin false 1 0) else
    let e := q / 4
    let big := 9 ≤ (Nat.log2 m : Int) + e
    if big then (if neg then 0 else rne f (.inf false)) else
    let k := (-e).toNat
    let v : Int := (m * 2 ^ e.toNat : Nat)
    let w := if neg then -v else v
    let whole := w / (2 ^ k : Nat)
    let frac := (w % (2 ^ k : Nat)).toNat
    if frac = 0 then rne f (.fin false 1 (4 * whole)) else
    let t := expSeries 70 0 (frac * ln2 / 2 ^ k) (2 ^ 256)
    let lsb : Int := 1 - (ff.bias : Int) - ff.mb
    let (r, l) := roundMag {} false (ff.mb + 1) lsb t (whole - 256) true
    let c := (l - lsb).toNat * 2 ^ ff.mb + r
    if c > ff.maxCode then ff.overflow {} false false else c
  | .fin .., none => 0

/-- Rounds `x` / 2^`s` half to even; `x` itself when `s` = 0 (R74). -/
def roundShift (x : Int) (s : Nat) : Int :=
  if s = 0 then x else
  let q := x / (2 ^ s : Nat)
  let rem := x % (2 ^ s : Nat)
  if (2 ^ (s - 1) : Nat) < rem || (rem = (2 ^ (s - 1) : Nat) && q % 2 = 1) then q + 1 else q

/-- `sat_int32`. -/
def satInt32 (x : Int) : Int := clampInt (-2147483648) 2147483647 x

/-- The signed value of 32 bits. -/
def s32 (x : Nat) : Int := sextNat 32 x

/-- A quantisation parameter record of 16 bytes is well formed (R73). -/
def quantOk (r : BitVec 128) : Bool := field r 86 2 = (0 : BitVec 2) && field r 88 40 = (0 : BitVec 40)

/-- The output element of R74 for the format `f`. -/
def quantise (f : Nat) (acc corr : Int) (r : BitVec 128) : Int :=
  let t := acc + s32 (field r 32 32 : BitVec 32).toNat - corr
  let p := t * s32 (field r 0 32 : BitVec 32).toNat
  let y := sextNat 16 (field r 64 16 : BitVec 16).toNat + roundShift p (field r 80 6 : BitVec 6).toNat
  match intRange f with
  | some (lo, hi) => clampInt lo hi y
  | none => y

/-- The bits of plane 1 of a planed format (R67). -/
def plane1Bits (f : Nat) : Nat := if f = 12 then 16 else if f = 11 then 8 else 4

/-- An element of a planed format as its encoder writes it: NaNs canonical, plane 1 of an infinity 0 (R69). -/
def canonPlaned (f code : Nat) : Nat :=
  match floatFmt (fullFmt f) with
  | none => code
  | some ff =>
    match ff.value code with
    | .nan => ff.nanCode
    | _ => code

/-- The guard bit of an element (R68, R69). -/
def guardBit (f code : Nat) : Bool :=
  let b := plane1Bits f
  let lo := code % 2 ^ b
  let special := match floatFmt (fullFmt f) with
    | none => false
    | some ff => bitsAt code ff.mb ff.eb = 2 ^ ff.eb - 1
  !special && (2 ^ (b - 1) < lo || (lo = 2 ^ (b - 1) && code / 2 ^ b % 2 = 1))

/-- A plane-0 code incremented by its guard bit, for an RN read (R70). -/
def planeRN (f p0 : Nat) (g sat : Bool) : Nat :=
  let nf := narrowFmt f
  if !g then p0 else
  match floatFmt nf with
  | some ff =>
    let mag := p0 % 2 ^ (ff.eb + ff.mb)
    if bitsAt p0 ff.mb ff.eb = 2 ^ ff.eb - 1 then p0
    else if mag = ff.maxCode && sat then p0 else p0 + 1
  | none => if p0 = 7 then 7 else (p0 + 1) % 16

/-- The contribution of two L6 codes, in units of 2^−16, with scale exponent `sigma` (R61). -/
def l6Product (a b : Nat) (sigma : Int) : Int :=
  let ma := bitsAt a 0 5
  let mb := bitsAt b 0 5
  if ma = 0 || mb = 0 then 0 else
  let q : Int := ma + mb - 32
  let t := [1024, 1218, 1448, 1722].getD (q % 4).toNat 0
  let sh := q / 4 + 6 + sigma
  let c : Int := if 0 ≤ sh then ((t * 2 ^ sh.toNat : Nat) : Int) else roundShift t (-sh).toNat
  if (bitsAt a 5 1 = 1) != (bitsAt b 5 1 = 1) then -c else c

/-- The accumulator code that stands for NaR (R62). -/
def l6Nar : Nat := 0x80000000

/-- One L6 step: the contributions (`none` a NaR operand or scale) added to the prior code (R62). -/
def l6Step (prior : Nat) (cs : List (Option Int)) (sat : Bool) : Nat :=
  if prior = l6Nar || cs.any (·.isNone) then l6Nar else
  let sum := s32 prior + (cs.map (·.getD 0)).foldl (· + ·) 0
  if sat then intCode 32 (clampInt (-2147483647) 2147483647 sum) else intCode 32 sum

/-- One integer step (R63). -/
def intStep (prior : Nat) (ps : List Int) (sat : Bool) : Nat :=
  let sum := s32 prior + ps.foldl (· + ·) 0
  intCode 32 (if sat then satInt32 sum else sum)

/-- One floating-point step: everything added exactly, rounded once (R63). -/
def floatStep (prior : Nat) (ps : List Num) : Nat :=
  rne 0 (ps.foldl Num.add (fmtValue 0 prior))

end Sys2Proof.Machine
end

