-- ==== Sys2Proof/Machine/Access.lean ====
section
/-! DEFINITION. Reading and writing parts of the state: cells, issue states, registers, engines, the black
box, energy, free values. -/

namespace Sys2Proof.Machine

/-- Cell `c`. -/
def State.cell (s : State) (c : Nat) : Cell := s.cells.getD c {}

/-- Replaces cell `c`. -/
def State.setCell (s : State) (c : Nat) (x : Cell) : State := { s with cells := s.cells.set c x }

/-- Changes cell `c`. -/
def State.modCell (s : State) (c : Nat) (f : Cell → Cell) : State := s.setCell c (f (s.cell c))

/-- The die of a cell (R11). -/
def dieOf (c : Nat) : Nat := c / 48

/-- The quad of a cell (R11). -/
def quadOf (c : Nat) : Nat := c / 4

/-- The quad's state. -/
def State.quad (s : State) (n : Nat) : Quad := s.quads.getD n {}

/-- Changes quad `n`. -/
def State.modQuad (s : State) (n : Nat) (f : Quad → Quad) : State := { s with quads := s.quads.set n (f (s.quad n)) }

/-- `stalled` marks an instruction that could not issue or complete; nothing else changes. -/
def State.stall (s : State) : State := { s with stalled := true }

/-- The next free value (notes/assumptions/13) and the state that has used it. -/
def State.takeFree (s : State) : DWord × State := (Config.freeValue s.free, { s with free := s.free + 1 })

/-- The wicket `w` of a cell. -/
def Cell.wicket (x : Cell) (w : Nat) : Wicket := x.wickets.getD w {}

/-- The issue state of S or of a wicket; an engine stream has none and reads as S. -/
def Cell.issue (x : Cell) (ag : Agent) : Issue :=
  match ag with
  | .wicket w => (x.wicket w).iss
  | .stream _ => x.s.iss

/-- Changes the issue state of S or of a wicket. -/
def Cell.modIssue (x : Cell) (ag : Agent) (f : Issue → Issue) : Cell :=
  match ag with
  | .wicket w => { x with wickets := modAt x.wickets w fun k => { k with iss := f k.iss } }
  | .stream _ => { x with s := { x.s with iss := f x.s.iss } }

/-- Register `r` of S or of a wicket; `s0` reads 0 (R139). -/
def Cell.reg (x : Cell) (ag : Agent) (r : Nat) : DWord :=
  if r = 0 then 0 else
  match ag with
  | .wicket w => (x.wicket w).regs.getD r 0
  | .stream _ => x.s.regs.getD r 0

/-- Writes register `r`; a write to `s0` is discarded (R139). -/
def Cell.setReg (x : Cell) (ag : Agent) (r : Nat) (v : DWord) : Cell :=
  if r = 0 then x else
  match ag with
  | .wicket w => { x with wickets := modAt x.wickets w fun k => { k with regs := k.regs.set r v } }
  | .stream _ => { x with s := { x.s with regs := x.s.regs.set r v } }

/-- An engine stream's common part; S has none and reads as V's. -/
def Cell.engine (x : Cell) (st : Stream) : Engine :=
  match st with
  | .m => x.em
  | .c => x.ec
  | _ => x.ev

/-- Changes an engine stream's common part. -/
def Cell.modEngine (x : Cell) (st : Stream) (f : Engine → Engine) : Cell :=
  match st with
  | .m => { x with em := f x.em }
  | .c => { x with ec := f x.ec }
  | _ => { x with ev := f x.ev }

/-- The engine streams, in the order of R307. -/
def engines : List Stream := [.v, .m, .c]

/-- The number of a stream in `EPOS`, `SSTRM` and `STRM` (R307, R430). -/
def streamNumber (st : Stream) : Nat :=
  match st with
  | .s => 0
  | .v => 1
  | .m => 2
  | .c => 3

/-- The stream of a number. -/
def streamOf (n : Nat) : Stream :=
  match n with
  | 1 => .v
  | 2 => .m
  | 3 => .c
  | _ => .s

/-- The shutter code of a stream or wicket (R97). -/
def agentCode (ag : Agent) : BitVec 3 :=
  match ag with
  | .wicket _ => 4
  | .stream st => BitVec.ofNat 3 (streamNumber st)

/-- FREE (R97). -/
def codeFree : BitVec 3 := 5

/-- A tile's shutter. -/
def Cell.shutter (x : Cell) (t : Nat) : BitVec 3 := x.shutters.getD t 0

/-- Sets a tile's shutter. -/
def Cell.setShutter (x : Cell) (t : Nat) (v : BitVec 3) : Cell := { x with shutters := x.shutters.set t v }

/-- A token's count. -/
def Cell.token (x : Cell) (k : Nat) : Nat := (x.tokens.getD k 0).toNat

/-- Adds to a token, saturating at 65,535 (R36). -/
def Cell.signal (x : Cell) (k n : Nat) : Cell :=
  { x with tokens := x.tokens.set k (BitVec.ofNat 16 (min 65535 (x.token k + n))) }

/-- Subtracts from a token that holds at least `n` (R36). -/
def Cell.consume (x : Cell) (k n : Nat) : Cell :=
  { x with tokens := x.tokens.set k (BitVec.ofNat 16 (x.token k - n)) }

/-- Who makes an access: agent, context and mode (R76, R380). -/
structure Who where
  cell : Nat
  ag : Agent
  ctx : BitVec 16
  super : Bool := false
  deriving DecidableEq, Repr

/-- The context and mode of an agent of a cell: a wicket's own, in USER mode (R296); else the task's. -/
def State.whoOf (s : State) (c : Nat) (ag : Agent) : Who :=
  let x := s.cell c
  match ag with
  | .wicket w => ⟨c, ag, (x.wicket w).ctx, false⟩
  | .stream _ => ⟨c, ag, x.res.ctx, x.s.super⟩

/-- The outcome of an access or of an instruction's test: a value, a trap, or a stall. -/
inductive Acc (α : Type) where
  | ok (a : α)
  | trap (t : TrapInfo)
  | stall
  deriving DecidableEq, Repr

/-- Continues after a value. -/
def Acc.bind {α β : Type} (x : Acc α) (f : α → Acc β) : Acc β :=
  match x with
  | .ok a => f a
  | .trap t => .trap t
  | .stall => .stall

/-- Cause codes of R129. -/
def cILLEGAL : BitVec 8 := 0x01
def cPRIV : BitVec 8 := 0x02
def cALIGN : BitVec 8 := 0x03
def cNONCANON : BitVec 8 := 0x04
def cRANGE : BitVec 8 := 0x05
def cNOTPRESENT : BitVec 8 := 0x08
def cPERM : BitVec 8 := 0x09
def cPOISON : BitVec 8 := 0x0A
def cSHUTTER : BitVec 8 := 0x10
def cBOUND : BitVec 8 := 0x11
def cREDUCTION : BitVec 8 := 0x12
def cMETA : BitVec 8 := 0x18
def cFORMAT : BitVec 8 := 0x19
def cCODEBOOK : BitVec 8 := 0x1A
def cMIGABORT : BitVec 8 := 0x20
def cLINKDOWN : BitVec 8 := 0x28
def cUNCORR : BitVec 8 := 0x30
def cSELF : BitVec 8 := 0x38
def cBREAK : BitVec 8 := 0x3F

/-- The place of a cause in the order of R131. -/
def causeRank (c : BitVec 8) : Nat :=
  ([0x3F, 0x01, 0x02, 0x19, 0x05, 0x04, 0x03, 0x10, 0x08, 0x09, 0x30, 0x0A, 0x18, 0x1A, 0x12, 0x11, 0x28].idxOf c.toNat)

/-- The trap of a data access, with its address (R306). -/
def trapAt (cause : BitVec 8) (va : Nat) : TrapInfo := ⟨cause, BitVec.ofNat 64 va⟩

/-- `EPOS` of an engine entry (R307). -/
def eposOf (st : Stream) (pc : DWord) (tag : Nat) (inj : Bool) : DWord :=
  BitVec.ofNat 64 (bitsAt pc.toNat 2 50 * 4 + bit inj + streamNumber st * 2 ^ 52 + tag % 1024 * 2 ^ 54)

/-- The program counter that a `PCW` field names (R307). -/
def pcwPc (x : DWord) : DWord := BitVec.ofInt 64 (sextNat 52 (bitsAt x.toNat 2 50 * 4))

/-- `TIME`, the whole nanoseconds of the module's clock (R415). -/
def State.time (s : State) : DWord := field s.link.time 32 64

/-- Severity of an event code (R441). -/
def severity (code : Nat) : Nat :=
  match code with
  | 0x0103 | 0x0105 | 0x0202 | 0x0203 | 0x0205 => 2
  | 0x0104 | 0x0204 | 0x0602 => 0
  | 0x0401 | 0x0402 => 3
  | _ => 1

/-- Source kinds of R439. -/
inductive Src where
  | cell (n : Nat) | quad (n : Nat) | die (n : Nat) | port (n : Nat) | controller (n : Nat) | dispatcher | core
  deriving DecidableEq, Repr

/-- `SRCK` and `SRCN` (R439). -/
def Src.code (x : Src) : Nat × Nat :=
  match x with
  | .cell n => (0, n)
  | .quad n => (1, n)
  | .die n => (2, n)
  | .port n => (3, n)
  | .controller n => (4, n)
  | .dispatcher => (5, 0)
  | .core => (6, 0)

/-- The source of an event that an access of agent `a` gives rise to (R439, notes/assumptions/96). -/
def accessSrc (a : Nat) : Src :=
  if a < Config.cells then .cell a
  else if a = Config.cells then .dispatcher
  else if a = Config.cells + 2 then .core
  else if a < Config.cells + 8 then .die 0
  else .port (a - Config.cells - 8)

/-- The issuer of an access as an event names it: a cell's number, free for one that is no cell (R441,
notes/assumptions/96). -/
def issuerInfo (a : Nat) : Nat := if a < Config.cells then a else (Config.issuer a).toNat

/-- The place of a record among those of its cycle (R440). -/
def BbRecord.rank (r : BbRecord) : Nat := r.srck.toNat * 2 ^ 16 + r.srcn.toNat

/-- Puts a record among those of its cycle, which are in ascending order of their sources: the later ones move on by one
number (R440). -/
def BlackBox.record (b : BlackBox) (now : Nat) (r : BbRecord) : BlackBox :=
  let n := if b.lastAt = now then b.fresh else 0
  let later := (b.records.take n).takeWhile fun x => decide (r.rank < x.rank)
  { b with
    seq := b.seq + 1, lastAt := now, fresh := n + 1
    records := (later.map (fun (x : BbRecord) => { x with seq := x.seq + 1 }) ++
      { r with seq := b.seq - BitVec.ofNat 32 later.length } :: b.records.drop later.length).take 4096 }

/-- Writes a black-box event (R439, R440): a frozen box only counts it; 1,024 events after a FATAL one it freezes. -/
def State.event (s : State) (code : Nat) (src : Src) (ctx : BitVec 16) (info info2 : Nat) : State :=
  let b := s.bb
  if b.frozen then { s with bb := { b with lost := b.lost + 1 } } else
  let sev := severity code
  let r : BbRecord :=
    { time := s.time, code := BitVec.ofNat 16 code, sev := BitVec.ofNat 2 sev
      srck := BitVec.ofNat 8 src.code.1, srcn := BitVec.ofNat 16 src.code.2, ctx := ctx
      info2 := BitVec.ofNat 32 info2, info := BitVec.ofNat 64 info }
  let left := match b.countdown with
    | some k => some (k - 1)
    | none => if sev = 3 then some 1024 else none
  { s with bb := { b.record s.cycle r with frozen := left = some 0, countdown := if left = some 0 then none else left } }

/-- Adds energy in 1/256 pJ to the image on a cell; wickets' events count for their context's task, or with no image for
the wicket that runs (R316). -/
def Cell.charge (x : Cell) (n : Nat) : Cell :=
  if x.res.image ≠ .none then { x with res := { x.res with ea := x.res.ea + n } }
  else if x.wickets.any (·.running) then { x with loose := x.loose + n } else x

/-- Converts whole counts of the sub-accumulator, saturating at 2^48 − 1 (R316). -/
def Resident.convert (r : Resident) : Resident :=
  let unit := 2 ^ (r.escale.toNat + 8)
  let n := r.ea / unit
  let top := 2 ^ 48 - 1
  let e := r.energy.toNat + n
  { r with ea := r.ea % unit, energy := BitVec.ofNat 48 (min top e), esat := r.esat || decide (top < e) }

/-- One cycle of residency (R316). -/
def Cell.residentCycle (x : Cell) : Cell :=
  if x.res.image = .none then x else
  let wrap := x.res.rc = 1023
  let r := { x.res with rc := x.res.rc + 1, ea := x.res.ea + (if wrap then x.weights.static.toNat else 0) }
  { x with res := r.convert }

/-- The cell is stopping or stopped (R431). -/
def Debug.holds (d : Debug) : Bool := d.stopped || d.stopping.isSome

/-- HARD or TRIP is in force on the cell's die: no M command issues or goes on (R452). -/
def State.hard (s : State) (c : Nat) : Bool := 3 ≤ (s.dev.tpoint.getD (dieOf c) 0).toNat

/-- The dither phase moves on by 5 (R53). -/
def phaseStep (ph : BitVec 4) : BitVec 4 := ph + 5

/-- The dither phase of the command at an engine's head: that with which it began, else a written phase that waits, else the
stream's after the advances of the commands in progress (R53, R171). -/
def Engine.phaseNow (g : Engine) : BitVec 4 :=
  g.headPhase.getD (g.phaseNext.getD ((g.inprog.filter (·.rounds)).foldl (fun ph _ => phaseStep ph) g.phase))

/-- A written phase takes effect once no instruction of the stream is in progress (R171). -/
def Engine.settlePhase (g : Engine) : Engine :=
  if g.nextStep = 0 && g.inprog.isEmpty then { g with phase := g.phaseNext.getD g.phase, phaseNext := none } else g

/-- The oldest command in progress completes: one that has rounded with SR moves the phase on, unless software has written it
meanwhile (R53, R171). -/
def Engine.complete (g : Engine) : Engine :=
  match g.inprog with
  | [] => g
  | k :: r =>
    let g := { g with inprog := r, phase := if k.rounds && g.phaseNext.isNone then phaseStep g.phase else g.phase }
    g.settlePhase

/-- Nothing is kept of the entry that was at the head. -/
def Engine.freshHead (g : Engine) : Engine :=
  { g with
    nextStep := 0, progress := (0, 0), table := none, headPhase := none, rounds := false, waiting := false, wantsOwn := false
    headSince := none }

/-- An element has been rounded with SR by the command at the head (R53). -/
def Engine.rounded (g : Engine) (b : Bool) : Engine := { g with rounds := g.rounds || b }

/-- The bounds of an engine stream one cycle later. -/
def Engine.later (g : Engine) : Engine :=
  { g with
    inprog := g.inprog.map fun k => { k with since := k.since + 1 }
    headSince := g.headSince.map fun t => t + 1 }

/-- The bounds of S or of a wicket one cycle later. -/
def Issue.later (i : Issue) : Issue :=
  { i with
    unfinished := i.unfinished.map fun u => if u.bound.isSome then { u with since := u.since + 1 } else u
    wait := i.wait.map fun w => { w with since := w.since + 1 } }

/-- Bounds and the reduction count do not advance while the cell is stopping or stopped (R432); M's do not while
its die is held (R453). -/
def Cell.holdBounds (x : Cell) (hard : Bool) : Cell :=
  let x := if x.dbg.holds || hard then
      { x with em := x.em.later, m := { x.m with injectSince := x.m.injectSince + 1, retiredAt := x.m.retiredAt + 1 } }
    else x
  if x.dbg.holds then
    { x with
      s := { x.s with iss := x.s.iss.later }, ev := x.ev.later, ec := x.ec.later
      wickets := x.wickets.map fun k => { k with iss := k.iss.later } }
  else x

/-- One array cycle: the cycle count, `TIME` (R415) and each cell's residency (R316). -/
def State.tick (s : State) : State :=
  { s with
    cycle := s.cycle + 1
    link := { s.link with time := s.link.time + s.link.timeIncr }
    cells := mapFrom 0 (fun c x => (x.residentCycle).holdBounds (s.hard c)) s.cells }

/-- The kernel's declared maximum of `b` for an agent: the nibble of its stream, S's for a wicket, 14 for a
wicket with no task (R343). -/
def Cell.maxBound (x : Cell) (ag : Agent) : Nat :=
  match ag with
  | .wicket _ => if x.res.task.isNone then 14 else bitsAt x.res.maxb.toNat 0 4
  | .stream st => bitsAt x.res.maxb.toNat (4 * streamNumber st) 4

/-- The bound of the field `b` in cycles: 2^(b+8), none for 15 (R114), after the clamp of R343. -/
def Cell.bound (x : Cell) (ag : Agent) (b : Nat) : Option Nat :=
  let e := min b (x.maxBound ag)
  if e = 15 then none else some (2 ^ (e + 8))

end Sys2Proof.Machine
end

