-- ==== Sys2Proof/Machine/CtrlRegs.lean ====
section
/-! DEFINITION. The cell control registers by offset in the cell window: the trap frame (R305), energy weights
(R315), debug and sampling registers (R430 to R438), matrix and copy status (R221, R262), `PFDIST` (R383). -/

namespace Sys2Proof.Machine

/-- The status word of the trap frame (R305). -/
def TrapUnit.stat (t : TrapUnit) : Nat :=
  t.tfN.toNat + 16 * t.tfCe.toNat + 256 * bit t.pmode + 512 * bit t.eskip

/-- The 8 bytes at offset `o` of trap-frame entry (R305). -/
def FrameEntry.word8 (e : FrameEntry) (o : Nat) : Nat :=
  match o with
  | 0 => e.word.toNat + 2 ^ 32 * bit e.valid
  | 8 => e.pc.toNat
  | 16 => e.opa.toNat
  | 24 => e.opb.toNat
  | 32 => e.opd.toNat
  | 40 => e.ea.toNat
  | _ => 0

/-- An entry after an 8-byte write at offset `o`; read-only fields stay (R305). -/
def FrameEntry.write8 (e : FrameEntry) (o : Nat) (v : DWord) : FrameEntry :=
  match o with
  | 0 => { e with valid := bitsAt v.toNat 32 1 = 1 }
  | 16 => { e with opa := v }
  | 24 => { e with opb := v }
  | 32 => { e with opd := v }
  | 40 => { e with ea := v }
  | _ => e

/-- Weight register `k` of R315. -/
def Weights.get (w : Weights) (k : Nat) : BitVec 16 :=
  [w.scalar, w.vector, w.peStep, w.pair, w.copyB, w.hbmB, w.lpdB, w.cxlB, w.linkB, w.static].getD k 0

/-- Sets weight register `k`; a reserved one ignores the write. -/
def Weights.put (w : Weights) (k : Nat) (v : BitVec 16) : Weights :=
  match k with
  | 0 => { w with scalar := v }
  | 1 => { w with vector := v }
  | 2 => { w with peStep := v }
  | 3 => { w with pair := v }
  | 4 => { w with copyB := v }
  | 5 => { w with hbmB := v }
  | 6 => { w with lpdB := v }
  | 7 => { w with cxlB := v }
  | 8 => { w with linkB := v }
  | 9 => { w with static := v }
  | _ => w

/-- A breakpoint register (R434). -/
def Breakpoint.code (b : Breakpoint) : Nat :=
  bit b.en + 2 * bit b.anyTag + 4 * b.pcw.toNat + 2 ^ 52 * b.strm.toNat + 2 ^ 54 * b.tag.toNat

/-- Reads a breakpoint register's fields (R434). -/
def breakpointOf (v : DWord) : Breakpoint :=
  { en := bitsAt v.toNat 0 1 = 1, anyTag := bitsAt v.toNat 1 1 = 1, pcw := field v 2 50, strm := field v 52 2, tag := field v 54 10 }

/-- Fetch goes back to an entry: the queue empties, and the loop around the entry is unrolled again from its pass,
with the index registers it captured (R254, R300). -/
def Engine.refetch (g : Engine) (h : Entry) : Engine :=
  { g with
    queue := [], fpc := h.pc, idx := h.idx
    loops := (g.loops.filter fun l => l.first ≤ h.pc && h.pc ≤ l.last).map fun l => { l with pass := h.tag + 1, unrolling := true } }

/-- The head entry of an engine stream (R333): for M the injection slot while it is full, unless the command at
the head has been stopped or has begun (R38). -/
def Cell.head (x : Cell) (st : Stream) : Option Entry :=
  match st, x.m.inject with
  | .m, some i => if x.m.rowValid || x.em.nextStep ≠ 0 then x.em.queue.head? else some { i with inj := true }
  | _, _ => (x.engine st).queue.head?

/-- The head position (R307, R430); an empty queue's head is where fetch goes on. -/
def Cell.headPos (x : Cell) (st : Stream) : DWord :=
  match x.head st with
  | some h => eposOf st h.pc h.tag h.inj
  | none => eposOf st (x.engine st).fpc 0 false

/-- Address of the oldest instruction of S or of a wicket that has not issued (R142). -/
def Issue.nextPc (i : Issue) : DWord :=
  match i.replay with
  | u :: _ => u.pc
  | [] => i.pc

/-- `KIND` of an unfinished access in the in-flight table, or 0 (R435). -/
def Finish.kind (f : Finish) : Nat :=
  match f with
  | .load _ => 1
  | .store => 2
  | .atomic _ => 3
  | .tdef _ => 1
  | _ => 0

/-- The in-flight entries of an agent's accesses: position, kind word, address, size (R435). Its stores that wait at a cell window
are older than what it has not finished (R141). -/
def inflightOf (waits : List WindowAccess) (i : Issue) (agt : Nat) : List (List Nat) :=
  (waits.filterMap fun a => a.via.bind fun o => o.pc.map fun pc => [(eposOf .s pc 0 false).toNat, 2 + 8 * agt, o.va, a.size]) ++
  (i.unfinished.filter fun u => u.finish.kind ≠ 0).map fun u =>
    [(eposOf .s u.pc 0 false).toNat, u.finish.kind + 8 * agt, u.ea.toNat, u.size]

/-- The accesses of an agent that wait at cell windows, oldest first (R21, R22). -/
def State.windowWaitsOf (s : State) (who : Nat × Agent) : List WindowAccess :=
  (s.cells.flatMap fun x => (x.winWaits ++ x.winRegs).filter fun a => a.agent = who).foldl (fun l a =>
    let older := l.takeWhile fun b => b.since ≤ a.since
    older ++ a :: l.drop older.length) []

/-- The in-flight table (R435). -/
def State.inflight (s : State) (c : Nat) : List (List Nat) :=
  let x := s.cell c
  let cmds := fun (st : Stream) (k : Nat) =>
    ((x.engine st).inprog.map fun (c : Command) => [(eposOf st c.entry.pc c.entry.tag c.entry.inj).toNat, k + 256 * c.next, 0, 0]) ++
    (if (x.engine st).nextStep = 0 then [] else [[(x.headPos st).toNat, k + 256 * (x.engine st).nextStep, 0, 0]])
  let accesses := fun (ag : Agent) (agt : Nat) => inflightOf (s.windowWaitsOf (c, ag)) (x.issue ag) agt
  accesses (.stream .s) 0 ++ accesses (.wicket 0) 1 ++ accesses (.wicket 1) 2 ++ accesses (.wicket 2) 3 ++ cmds .m 4 ++ cmds .c 5

/-- Unacknowledged peer stores of S of cell `c` (R430). -/
def State.peerStores (s : State) (c : Nat) : Nat :=
  (s.link.out.filter fun p => p.cell = c && p.agent = .stream .s &&
    (match p.payload with | .store .. => true | _ => false)).length

/-- A trap that is held while the cell is stopped (R432). -/
def Cell.trapHeld (x : Cell) : Bool :=
  x.dbg.holds && (!x.trap.pending.isEmpty || (match x.s.iss.unfinished with | u :: _ => u.trap.isSome | [] => false))

/-- Peer stores of S that have not left (R351, R412). -/
def Issue.peerStoresDue (i : Issue) : Nat :=
  (i.unfinished.filter fun u => match u.finish with | .peerStore => true | _ => false).length

/-- The debug registers at 0xF0_3000 to 0xF0_3FFF (R430 to R437); those of the cut are open unless stopped
(notes/assumptions/99). -/
def State.debugRead (s : State) (c o : Nat) : Nat :=
  let x := s.cell c
  let d := x.dbg
  let cut := fun (v : Nat) => if d.stopped then v else (Config.openCut s.cycle o).toNat
  if o = 0x3000 then bit d.halt + 4 * d.sstrm.toNat + 16 * bit d.brken
  else if o = 0x3008 then
    bit d.stopped + 2 * d.why.toNat + 16 * d.bstrm.toNat + 64 * d.bnum.toNat + 256 * bit d.stepblk + 512 * bit x.trapHeld +
      1024 * (if d.stopped then (s.inflight c).length else 0) + 2 ^ 18 * (s.peerStores c + x.s.iss.peerStoresDue)
  else if o = 0x3010 then cut x.s.iss.nextPc.toNat
  else if o = 0x3018 then cut (x.headPos .v).toNat
  else if o = 0x3020 then cut (x.headPos .m).toNat
  else if o = 0x3028 then cut (x.headPos .c).toNat
  else if 0x3030 ≤ o ∧ o < 0x3048 then
    let w := x.wicket ((o - 0x3030) / 8)
    cut (if w.running then w.iss.nextPc.toNat else 0)
  else if 0x3060 ≤ o ∧ o < 0x3080 then (d.bps.getD ((o - 0x3060) / 8) {}).code
  else if 0x3080 ≤ o ∧ o < 0x30E0 then (d.hc.getD ((o - 0x3080) / 8) 0).toNat
  else if 0x3100 ≤ o ∧ o < 0x3200 then (d.tw.getD ((o - 0x3100) / 8) 0).toNat
  else if o = 0x3200 then d.smpPer.toNat
  else if o = 0x3208 then d.smpCnt.toNat
  else if 0x3210 ≤ o ∧ o < 0x3230 then (d.smp.getD ((o - 0x3210) / 8) 0).toNat
  else if o = 0x3230 then d.smpCls.toNat
  else 0

/-- The aligned 8 bytes of the control region at `off` (offset in the window from 0xF0_0000 up); reserved
offsets read 0 (R20). -/
def State.ctrlRead8 (s : State) (c off : Nat) : Nat :=
  let x := s.cell c
  let o := off - 0xF00000
  if o = 0x1000 then x.trap.stat
  else if o = 0x1008 then x.trap.tfInfo.toNat
  else if o = 0x1010 then x.trap.tfSpc.toNat
  else if 0x1040 ≤ o ∧ o < 0x1240 then (x.trap.frame.getD ((o - 0x1040) / 64) {}).word8 (o % 64)
  else if 0x2000 ≤ o ∧ o < 0x2028 then
    let k := (o - 0x2000) / 4
    (x.weights.get k).toNat + 2 ^ 32 * (x.weights.get (k + 1)).toNat
  else if 0x3000 ≤ o ∧ o < 0x4000 then s.debugRead c o
  else if o = 0x4000 then x.m.statPairs.toNat
  else if o = 0x4008 then x.m.statQfull.toNat
  else if o = 0x4010 then x.m.statLevee.toNat
  else if o = 0x4018 then x.m.statIdle.toNat
  else if o = 0x4020 then x.m.statSplit.toNat
  else if o = 0x4040 then x.c.statSrc.toNat
  else if o = 0x4048 then x.c.statDst.toNat
  else if o = 0x4050 then x.c.statPad.toNat
  else if o = 0x4058 then x.c.statInArr.toNat
  else if o = 0x4080 then x.pfdist.toNat
  else if 0x5000 ≤ o ∧ o < 0x6000 then
    if x.dbg.stopped then ((s.inflight c).getD ((o - 0x5000) / 32) []).getD (o % 32 / 8) 0 else 0
  else 0

/-- `PFDIST` as a write stores it (R383). -/
def pfdistOf (v : Nat) : BitVec 17 :=
  if 65536 < v % 2 ^ 17 then 65536 else BitVec.ofNat 17 (v % 2 ^ 17 / 256 * 256)

/-- RESUMES a stopped cell (R432): the bounds of the heads that wait start again. -/
def Cell.resume (x : Cell) (now : Nat) : Cell :=
  let again := fun (g : Engine) => { g with headSince := g.headSince.map fun _ => now }
  { x with
    dbg := { x.dbg with halt := false, stopped := false, stopping := none, why := 0, stepping := none }
    ev := again x.ev, em := again x.em, ec := again x.ec, m := { x.m with injectSince := now } }

/-- `HALT` written: 1 requests a stop, 0 withdraws a request that has not stopped the cell (R430). -/
def Debug.request (d : Debug) (halt : Bool) : Debug :=
  match halt, d.stopping with
  | true, none => { d with halt := true, stopping := if d.stopped then none else some 1 }
  | true, some w => { d with halt := true, stopping := some w }
  | false, none => { d with halt := false }
  | false, some w => { d with halt := false, stopping := if w = 1 then none else some w }

/-- A write to the first debug register (R430): a write of `HALT` 0 while stopped resumes, and `STEP` while stopped
asks for a step of `SSTRM`, which the next step of the machine makes. A cell stopped by a module halt stays so
(R428, R447). -/
def State.haltWrite (s : State) (c : Nat) (v : DWord) : State :=
  let x := s.cell c
  let stopped := x.dbg.stopped
  let y : Cell := { x with dbg := { x.dbg with sstrm := field v 2 2, brken := v.getLsbD 4 } }
  if y.dbg.why = 4 ∨ y.dbg.stopping = some 4 then s.setCell c y
  else if stopped && !v.getLsbD 0 then s.setCell c (y.resume s.cycle)
  else
    let s := s.setCell c { y with dbg := y.dbg.request (v.getLsbD 0) }
    if stopped && v.getLsbD 1 then { s with agenda := .event (.cellStep c (streamOf (bitsAt v.toNat 2 2))) :: s.agenda } else s

/-- Writes the aligned 8 bytes at `off`; read-only and reserved bits ignore it (R20). -/
def State.ctrlWrite8 (s : State) (c off : Nat) (v : DWord) : State :=
  let x := s.cell c
  let o := off - 0xF00000
  let d := x.dbg
  if o = 0x1000 then s.setCell c { x with trap := { x.trap with eskip := bitsAt v.toNat 9 1 = 1 } }
  else if o = 0x1010 then s.setCell c { x with trap := { x.trap with tfSpc := v } }
  else if 0x1040 ≤ o ∧ o < 0x1240 then
    s.setCell c { x with trap := { x.trap with frame := modAt x.trap.frame ((o - 0x1040) / 64) fun e => e.write8 (o % 64) v } }
  else if 0x2000 ≤ o ∧ o < 0x2028 then
    let k := (o - 0x2000) / 4
    s.setCell c { x with weights := (x.weights.put k (field v 0 16)).put (k + 1) (field v 32 16) }
  else if o = 0x3000 then s.haltWrite c v
  else if 0x3060 ≤ o ∧ o < 0x3080 then s.setCell c { x with dbg := { d with bps := d.bps.set ((o - 0x3060) / 8) (breakpointOf v) } }
  else if 0x3080 ≤ o ∧ o < 0x30E0 then s.setCell c { x with dbg := { d with hc := d.hc.set ((o - 0x3080) / 8) v } }
  else if 0x3100 ≤ o ∧ o < 0x3200 then s.setCell c { x with dbg := { d with tw := d.tw.set ((o - 0x3100) / 8) v } }
  else if o = 0x3200 then s.setCell c { x with dbg := { d with smpPer := field v 0 16 } }
  else if o = 0x3208 then s.setCell c { x with dbg := { d with smpCnt := v } }
  else if o = 0x4000 then s.setCell c { x with m := { x.m with statPairs := v } }
  else if o = 0x4008 then s.setCell c { x with m := { x.m with statQfull := v } }
  else if o = 0x4010 then s.setCell c { x with m := { x.m with statLevee := v } }
  else if o = 0x4018 then s.setCell c { x with m := { x.m with statIdle := v } }
  else if o = 0x4020 then s.setCell c { x with m := { x.m with statSplit := v } }
  else if o = 0x4040 then s.setCell c { x with c := { x.c with statSrc := v } }
  else if o = 0x4048 then s.setCell c { x with c := { x.c with statDst := v } }
  else if o = 0x4050 then s.setCell c { x with c := { x.c with statPad := v } }
  else if o = 0x4058 then s.setCell c { x with c := { x.c with statInArr := v } }
  else if o = 0x4080 then s.setCell c { x with pfdist := pfdistOf v.toNat }
  else s

end Sys2Proof.Machine
end

