-- ==== Sys2Proof/Machine/Mem.lean ====
section
/-! DEFINITION. The physical address map and the cell windows (R16 to R22), die views and cross-die writes
(R81 to R85), poison (R423 to R425), the sluice (R389 to R392), and translation (R376 to R383). -/

namespace Sys2Proof.Machine

/-- What a physical address names (R16). -/
inductive Place where
  | hbm | lpd | cxl | cluster
  | window (cell off : Nat)
  | hole
  deriving DecidableEq, Repr

/-- First byte of the cell windows and of cluster SRAM (R16). -/
def windowBase : Nat := 0x3C00000000000
def clusterBase : Nat := 0x3D00000000000

/-- The place of a physical address (R16). -/
def place (pa : Nat) : Place :=
  if pa < 0xC000000000 then .hbm
  else if 0x10000000000 ≤ pa ∧ pa < 0x28000000000 then .lpd
  else if 0x40000000000 ≤ pa ∧ pa < 0x140000000000 then .cxl
  else if windowBase ≤ pa ∧ pa < windowBase + 0xC0000000 then
    .window ((pa - windowBase) / 2 ^ 24) ((pa - windowBase) % 2 ^ 24)
  else if clusterBase ≤ pa ∧ pa < clusterBase + 0x18000000 then .cluster
  else .hole

/-- The memory tier of `TIER` (R378); none for a hole. -/
def Place.tier (p : Place) : Option Nat :=
  match p with
  | .hbm => some 0
  | .lpd => some 1
  | .cxl => some 2
  | .cluster => some 3
  | .window .. => some 3
  | .hole => none

/-- Whether an access finds nothing there: a hole, or CXL memory above the populated capacity (R18). -/
def absent (pa : Nat) : Bool :=
  match place pa with
  | .hole => true
  | .cxl => 0x40000000000 + Config.cxlBytes ≤ pa
  | _ => false

/-- Some byte of [`pa`, `pa` + `n`) lies in a hole. The regions are not adjacent and larger than any frame or
table, so the two ends decide. -/
def touchesHole (pa n : Nat) : Bool :=
  place pa = .hole || place (pa + n - 1) = .hole || (place pa).tier ≠ (place (pa + n - 1)).tier

/-- The home die of an address (R82). -/
def homeDie (pa : Nat) : Nat :=
  match place pa with
  | .hbm => pa / 0x3000000000
  | .lpd => (pa - 0x10000000000) / 0x6000000000
  | .cxl => if pa < 0x40000000000 + Config.cxlPort0Bytes then 1 else 2
  | .cluster => (pa - clusterBase) / 2 ^ 23 / 12
  | .window c _ => dieOf c
  | .hole => 0

/-- The home quad of an atomic (R93). -/
def homeQuad (pa : Nat) : Nat :=
  match place pa with
  | .cluster => (pa - clusterBase) / 2 ^ 23
  | _ => homeDie pa * 12 + pa / 4096 % 12

/-- The address of a cell's scratchpad byte in the map (R16, R19). -/
def padPa (c off : Nat) : Nat := windowBase + c * 2 ^ 24 + off

/-- Virtual addresses that are canonical (R381). -/
def canonical (va : Nat) : Bool := va < 2 ^ 51 || (2 ^ 64 - 2 ^ 51 ≤ va && va < 2 ^ 64)

/-- The test of R381 on [`ea`, `ea` + `n`). -/
def addrCheck (ea : Int) (n : Nat) : Option (BitVec 8) :=
  if ea < 0 ∨ (2 ^ 64 : Int) < ea + n then some cRANGE
  else if canonical ea.toNat && canonical (ea.toNat + n - 1) && (decide (ea.toNat < 2 ^ 51) == decide (ea.toNat + n - 1 < 2 ^ 51)) then none
  else some cNONCANON

/-! ### Granules and errors -/

/-- Bytes of a poison granule (R423). -/
def granule (pa : Nat) : Nat :=
  match place pa with
  | .cluster => 32
  | .window .. => 32
  | _ => 64

/-- Bases of the granules that [`pa`, `pa` + `n`) touches. -/
def granulesOf (pa n : Nat) : List Nat :=
  let g := granule pa
  (List.range ((pa + n - 1) / g - pa / g + 1)).map fun i => (pa / g + i) * g

/-- Marks granules as poisoned. -/
def MemUnit.mark (m : MemUnit) (bases : List Nat) : MemUnit :=
  { m with poison := bases.foldl (fun l b => if l.contains b then l else b :: l) m.poison }

/-- What an uncorrectable error in memory spoils: first byte, bytes, and whether it is on chip (R287, R423, R425). -/
def siteSpan (x : ErrorSite) : Option (Nat × Nat × Bool) :=
  match x with
  | .dram pa => some (pa / 64 * 64, 64, false)
  | .block pa => some (pa / 1024 * 1024, 1024, false)
  | .sidecar pa => some (pa / 65536 * 65536, 65536, false)
  | .pad c off => some (padPa c off, 1, true)
  | .cluster pa => some (pa, 1, true)
  | _ => none

/-- The granules that hold what an error spoils, as first byte and bytes (R423). -/
def errorUnit (p n : Nat) : Nat × Nat := (p / granule p * granule p, max n (granule p))

/-- Clears the marks and errors of granules that [`pa`, `pa` + `n`) covers whole (R423, R425). -/
def MemUnit.unmark (m : MemUnit) (pa n : Nat) : MemUnit :=
  if m.poison.isEmpty && m.uncorr.isEmpty then m else
  let covered := fun (b : Nat) => pa ≤ b && b + granule b ≤ pa + n
  { m with
    poison := m.poison.filter fun b => !covered b
    uncorr := m.uncorr.filter fun x => match siteSpan x with
      | some (p, k, _) => let (b, l) := errorUnit p k
        !(decide (pa ≤ b) && decide (b + l ≤ pa + n))
      | none => true }

/-- The first faulty byte of [`pa`, `pa` + `n`), as an offset, and whether it holds an uncorrectable on-chip
error; a byte of a poisoned granule or of a hole is poisoned (R18, R423). -/
def State.badIn (s : State) (pa n : Nat) : Option (Nat × Bool) :=
  if absent pa then some (0, false) else
  let pick := fun (acc : Option (Nat × Bool)) (b len : Nat) (u : Bool) =>
    if b < pa + n ∧ pa < b + len then
      let o := b - pa
      match acc with
      | some (p, v) => if o < p then some (o, u) else if o = p then some (p, v || u) else some (p, v)
      | none => some (o, u)
    else acc
  let acc := s.mem.poison.foldl (fun a b => pick a b (granule b) false) none
  s.mem.uncorr.foldl (fun a x => match siteSpan x with | some (p, k, u) => pick a p k u | none => a) acc

/-- Data as read, with its first faulty byte. -/
structure Data where
  bytes : List Byte
  bad : Option (Nat × Bool) := none
  deriving DecidableEq, Repr

/-- The value of the bytes. -/
def Data.nat (d : Data) : Nat := leNat d.bytes

/-- The trap of an S or wicket access or of a fetch at `va` that consumes the data (R306, R424, R425). -/
def Data.trap (d : Data) (va : Nat) : Option TrapInfo :=
  d.bad.map fun (_, u) => trapAt (if u then cUNCORR else cPOISON) va

/-- A granule that held an on-chip error is marked once the error is detected (R425). -/
def State.detect (s : State) (pa n : Nat) : State :=
  let hit := s.mem.uncorr.filterMap fun x => match siteSpan x with
    | some (p, _, true) => if pa ≤ p ∧ p < pa + n then some p else none
    | _ => none
  if hit.isEmpty then s else
  { s with mem := { (s.mem.mark (hit.map fun p => p / 32 * 32)) with
      uncorr := s.mem.uncorr.filter fun x => match siteSpan x with
        | some (p, _, true) => !(pa ≤ p && p < pa + n)
        | _ => true } }

/-! ### The sluice -/

/-- The migration whose source frame holds an address (R386). -/
def State.sluiceAt (s : State) (pa : Nat) : Option Sluice :=
  s.page.sluice.find? fun e => e.src ≤ pa && pa < e.src + 65536

/-- The address that serves an access: the destination once the page is SWITCHING (R392). -/
def State.served (s : State) (pa : Nat) : Nat :=
  match s.sluiceAt pa with
  | some e => if e.state = .switching then e.dst + (pa - e.src) else pa
  | none => pa

/-- The second place of a write in SLUICE below the frontier (R390). -/
def State.mirror (s : State) (pa : Nat) : Option Nat :=
  match s.sluiceAt pa with
  | some e => if e.state = .sluice ∧ (pa - e.src) / 256 < e.f then some (e.dst + (pa - e.src)) else none
  | none => none

/-! ### Views and cross-die writes -/

/-- A message may be applied when the receiving die's counts have caught up (R83). Counts compare as plain unsigned numbers,
also after one has wrapped (DESIGN CHOICE, notes/assumptions/111). -/
def MemUnit.ready (m : MemUnit) (w : CrossWrite) : Bool :=
  let have_ := m.clocks.getD w.dst []
  (List.range 4).all fun j =>
    if j = w.src then w.clock.getD j 0 = have_.getD j 0 + 1 else decide (w.clock.getD j 0 ≤ have_.getD j 0)

/-- Bytes with the 1 bits of a mask taken from others (R87). -/
def mergeMask (old new mask : List Byte) : List Byte :=
  match old, new, mask with
  | o :: os, n :: ns, k :: ks => ((o &&& ~~~k) ||| (n &&& k)) :: mergeMask os ns ks
  | _, _, _ => []

/-- A part written into a memory (R80, R87). -/
def Memory.put (m : Memory) (p : Part) : Memory :=
  m.writeN p.addr (if p.mask.isEmpty then p.bytes else mergeMask (m.readN p.addr p.bytes.length) p.bytes p.mask)

/-- All parts of a write. -/
def Memory.putAll (m : Memory) (ps : List Part) : Memory := ps.foldl Memory.put m

/-- Applies one message to its die's view (R81, R83). -/
def MemUnit.apply (m : MemUnit) (w : CrossWrite) : MemUnit :=
  { m with
    views := modAt m.views w.dst fun v => v.putAll w.parts
    clocks := modAt m.clocks w.dst fun k => k.set w.src (w.clock.getD w.src 0)
    pend := m.pend.erase w }

/-- Applies every message to die `d`, in the order sent, which is an order R83 allows. -/
def MemUnit.flush (m : MemUnit) (d : Nat) : MemUnit :=
  (m.pend.filter fun w => w.dst = d).foldl MemUnit.apply m

/-- Two byte ranges overlap. -/
def overlaps (a n b k : Nat) : Bool := a < b + k && b < a + n

/-- The write reaches a byte of [`pa`, `pa` + `n`). -/
def CrossWrite.touches (w : CrossWrite) (pa n : Nat) : Bool := w.parts.any fun p => overlaps p.addr p.bytes.length pa n

/-- A write by an agent of die `d`: applied to `d`'s view first, then sent to the other dies with `d`'s four
counters (R83). Earlier overlapping writes on their way to `d` are applied first, which keeps one coherence
order (R82, notes/assumptions/5). -/
def MemUnit.writeParts (m : MemUnit) (d : Nat) (ag : Nat × Agent) (ps : List Part) : MemUnit :=
  let m := if m.pend.any fun w => w.dst = d && ps.any fun p => w.touches p.addr p.bytes.length then m.flush d else m
  let clock := (m.clocks.getD d []).set d ((m.clocks.getD d []).getD d 0 + 1)
  let sends := ((List.range 4).filter (· ≠ d)).map fun k =>
    ({ dst := k, src := d, seq := m.nextSeq, agent := ag, clock := clock, parts := ps } : CrossWrite)
  { m with
    views := modAt m.views d fun v => v.putAll ps
    clocks := m.clocks.set d clock
    nextSeq := m.nextSeq + 1
    pend := m.pend ++ sends }

/-- The naturally aligned pieces of 8 bytes of a part: `skip` bytes of the first lie before it (R80). -/
def piecesOf (fuel : Nat) (p : Part) : List Part :=
  match fuel with
  | 0 => []
  | fuel + 1 =>
    let k := 8 - p.addr % 8
    if p.bytes.length ≤ k then [p]
    else { p with bytes := p.bytes.take k, mask := p.mask.take k } ::
      piecesOf fuel { addr := p.addr + k, bytes := p.bytes.drop k, mask := p.mask.drop k }

/-- An ordinary write of one part: one write for each of its pieces, in ascending order (R80, notes/assumptions/103). -/
def MemUnit.write (m : MemUnit) (d : Nat) (ag : Nat × Agent) (p : Part) : MemUnit :=
  (piecesOf (p.bytes.length + 1) p).foldl (fun m q => m.writeParts d ag [q]) m

/-- Bytes of DRAM or cluster SRAM as die `d` sees them. -/
def MemUnit.read (m : MemUnit) (d pa n : Nat) : List Byte := (m.views.getD d []).readN pa n

/-- The view holds every write that a clock covers (R94). -/
def MemUnit.covers (m : MemUnit) (d : Nat) (clock : List Word) : Bool :=
  let have_ := m.clocks.getD d []
  (List.range 4).all fun j => decide (clock.getD j 0 ≤ have_.getD j 0)

/-! ### Cell windows -/

/-- Aligned 8 bytes of a register region of a window (R19). -/
def State.windowReg8 (s : State) (c off : Nat) : Nat :=
  let x := s.cell c
  if off < 0x800000 then 0
  else if off < 0x810000 then bitsAt (x.m.acc.getD ((off - 0x800000) / 256) 0).toNat (off % 256 * 8) 64
  else if off < 0x900000 then 0
  else if off < 0x904000 then bitsAt (x.v.regs.getD ((off - 0x900000) / 256) 0).toNat (off % 256 * 8) 64
  else if off < 0x910000 then 0
  else if off < 0x910100 then (x.reg (.stream .s) ((off - 0x910000) / 8)).toNat
  else if off < 0x910280 then (x.reg (.wicket ((off - 0x910100) / 128)) (off % 128 / 8)).toNat
  else if off < 0x920000 then 0
  else if off < 0x921000 then (x.c.banks.getD ((off - 0x920000) / 8) (0, false)).1.toNat
  else if off < 0xF00000 then 0
  else s.ctrlRead8 c off

/-- Replaces the aligned 8 bytes at byte `o` of a 256-byte line. -/
def lineSet8 (l : Line) (o : Nat) (v : DWord) : Line := setField l (o * 8) v

/-- Writes the aligned 8 bytes at `off` of a register region (R19, R20); a codebook entry becomes valid (R278). -/
def State.setWindowReg8 (s : State) (c off : Nat) (v : DWord) : State :=
  let x := s.cell c
  if off < 0x800000 then s
  else if off < 0x810000 then
    s.setCell c { x with m := { x.m with acc := modAt x.m.acc ((off - 0x800000) / 256) fun l => lineSet8 l (off % 256) v } }
  else if off < 0x900000 then s
  else if off < 0x904000 then
    s.setCell c { x with v := { x.v with regs := modAt x.v.regs ((off - 0x900000) / 256) fun l => lineSet8 l (off % 256) v } }
  else if off < 0x910000 then s
  else if off < 0x910100 then s.setCell c (x.setReg (.stream .s) ((off - 0x910000) / 8) v)
  else if off < 0x910280 then s.setCell c (x.setReg (.wicket ((off - 0x910100) / 128)) (off % 128 / 8) v)
  else if off < 0x920000 then s
  else if off < 0x921000 then
    s.setCell c { x with c := { x.c with banks := modAt x.c.banks ((off - 0x920000) / 8) fun _ => (v, true) } }
  else if off < 0xF00000 then s
  else s.ctrlWrite8 c off v

/-- Bytes of a cell's window. -/
def State.windowRead (s : State) (c off n : Nat) : List Byte :=
  if off < 0x200000 then (s.cell c).pad.readN off n
  else
    let lo := off / 8 * 8
    let words := (List.range ((off + n - 1 - lo) / 8 + 1)).map fun i => leBytes 8 (s.windowReg8 c (lo + 8 * i))
    ((words.flatten).drop (off - lo)).take n

/-- Writes bytes of a register region, 8 aligned bytes at a time. The upper half of the first debug register is
reserved: a write of it alone is ignored (R5, R20). -/
def State.windowRegWrite (s : State) (c off : Nat) (bs : List Byte) : State :=
  if off = 0xF03004 then s else
  let lo := off / 8 * 8
  let n := bs.length
  let old := s.windowRead c lo ((off + n - 1 - lo) / 8 * 8 + 8)
  let new := old.take (off - lo) ++ bs ++ old.drop (off - lo + n)
  (List.range (new.length / 8)).foldl
    (fun s i => s.setWindowReg8 c (lo + 8 * i) (BitVec.ofNat 64 (leNat ((new.drop (8 * i)).take 8)))) s

/-- A commit of bytes to the scratchpad, of the 1 bits of a mask when there is one. -/
def State.padWrite (s : State) (c off : Nat) (bs : List Byte) (mask : List Byte := []) : State :=
  s.modCell c fun x => { x with pad := x.pad.put { addr := off, bytes := bs, mask := mask } }

/-- An M command that reads or writes accumulators. -/
def usesAcc (i : Instr) : Bool :=
  match i with
  | .mzero .. | .mma .. | .mmaExt .. | .mspb .. | .mspbExt .. | .mscr .. | .mscrExt .. | .mscn .. | .mscnExt ..
  | .mdrain .. | .mdrainExt .. | .mdrainQ .. => true
  | _ => false

/-- The codebook bank that a C command names, a `DEC` by its source's descriptor (R278, R279). -/
def bankOf (table : List (BitVec 512)) (i : Instr) : Option Nat :=
  match i with
  | .cbload _ k _ _ _ => some k.toNat
  | .dec _ _ e | .decExt _ _ e _ =>
    let d := table.getD (bitsAt e.toNat 0 8) 0
    if bitsAt d.toNat 58 2 = 3 then some (bitsAt d.toNat 61 1) else none
  | _ => none

/-- An engine has a begun command at its head, stopped neither by a trap nor with the stream. -/
def Engine.midway (g : Engine) : Bool := g.nextStep ≠ 0 && g.started && !g.ended && !g.stopped

/-- The instruction of an engine's head entry in the queue. -/
def Engine.headInstr (g : Engine) (st : Stream) : Option Instr :=
  match g.queue with
  | [] => none
  | h :: _ => match decode st h.word h.ext with
    | .instr i => some i
    | .reject _ => none

/-- The owning engine of a register region (R22), the instructions in it that read or write the region, each with the
tensor table that it reads. -/
def regionUser (off : Nat) : Option (Stream × (List (BitVec 512) → Instr → Bool)) :=
  if 0x800000 ≤ off ∧ off < 0x810000 then some (.m, fun _ i => usesAcc i)
  else if 0x920000 ≤ off ∧ off < 0x921000 then some (.c, fun t i => bankOf t i = some ((off - 0x920000) / 0x800))
  else none

/-- A begun command at the head of the owning engine reads or writes the register region at `off`. -/
def Cell.midwayAt (x : Cell) (off : Nat) : Bool :=
  match regionUser off with
  | none => false
  | some (st, hit) => let g := x.engine st; g.midway && (g.headInstr st).any fun i => hit (g.table.getD x.tensors) i

/-- The owning engine of a register region whose external writes wait for a command boundary (R22) is at one: no
command in progress, nor one that has begun, reads or writes the region. -/
def Cell.atBoundary (x : Cell) (off : Nat) : Bool :=
  !x.midwayAt off && match regionUser off with
  | none => true
  | some (st, hit) => !(x.engine st).inprog.any fun k => hit k.table k.instr

/-- A register region whose writes take effect at the end of a cycle (R22, R108): accumulators, vector registers,
scalar and wicket registers, codebooks. -/
def stagedRegion (off : Nat) : Bool :=
  (0x800000 ≤ off && off < 0x810000) || (0x900000 ≤ off && off < 0x904000) || (0x910000 ≤ off && off < 0x910280) ||
    (0x920000 ≤ off && off < 0x921000)

/-- A tile that an access from outside the cell may reach now (R21, R302). -/
def Cell.padOpen (x : Cell) (off : Nat) : Bool :=
  let v := x.shutter (off / 0x4000)
  (v = 3 || v = codeFree) && x.res.image ≠ .saving && x.res.image ≠ .restoring

/-- The same for an agent: one whose access has met a save or a restore waits until the next image is ACTIVE (R302). -/
def Cell.padOpenFor (x : Cell) (who : Nat × Agent) (off : Nat) : Bool := x.padOpen off && !x.barred.contains who

/-! ### Reading and writing by physical address -/

/-- The data of [`pa`, `pa` + `n`) for an agent of die `d`; a fenced cell's window reads poisoned (R427). -/
def State.readPa (s : State) (d pa n : Nat) : Data :=
  let pa := s.served pa
  match place pa with
  | .hole => ⟨List.replicate n 0, some (0, false)⟩
  | .window c off =>
    if (s.cell c).res.fenced then ⟨List.replicate n 0, some (0, false)⟩
    else ⟨s.windowRead c off n, if off < 0x200000 then s.badIn pa n else none⟩
  | _ => ⟨s.mem.read d pa n, s.badIn pa n⟩

/-- The bytes that a part writes whole: a mask leaves out bits of the first or the last one (R87). -/
def Part.whole (p : Part) : Nat × Nat :=
  let lo := if p.mask.headD 255 = 255 then 0 else 1
  (p.addr + lo, p.bytes.length - lo - (if p.mask.getLastD 255 = 255 then 0 else 1))

/-- The marks that a write of a part leaves (R423). -/
def State.markWrite (s : State) (p : Part) (bad : Bool) : State :=
  { s with mem := if bad then s.mem.mark (granulesOf p.addr p.bytes.length) else s.mem.unmark p.whole.1 p.whole.2 }

/-- Writes DRAM or cluster SRAM, with the marks of R423. -/
def State.writeMem (s : State) (d : Nat) (ag : Nat × Agent) (p : Part) (bad : Bool) : State :=
  if absent p.addr then s else ({ s with mem := s.mem.write d ag p } : State).markWrite p bad

/-- The event of an access of agent `a` to a hole or to unpopulated CXL memory (R18, R441). -/
def State.holeAccess (s : State) (a pa : Nat) : State := s.event 0x0101 (accessSrc a) 0 pa (issuerInfo a)

/-- The event of an access of agent `a` that has reached the limit of R21 at a tile of cell `k` (R441). -/
def State.limitReached (s : State) (a k off : Nat) : State :=
  s.event 0x0102 (.cell k) 0 (k + 256 * (off / 0x4000) + 65536 * ((s.cell k).shutter (off / 0x4000)).toNat) (issuerInfo a)

/-- Writes a cell window: a scratchpad at once; accumulators, registers and codebooks at the end of a cycle, and not
before the owning engine is at a boundary (R22, R108). -/
def State.writeWindow (s : State) (ag : Nat × Agent) (c off : Nat) (p : Part) (bad : Bool) (via : Option AccessOrigin) : State :=
  let x := s.cell c
  if x.res.fenced then s
  else if off < 0x200000 then (s.padWrite c off p.bytes p.mask).markWrite p bad
  else if stagedRegion off then s.setCell c { x with winRegs := x.winRegs ++ [{ agent := ag, off := off, size := p.bytes.length, wr := some p.bytes, since := s.cycle, via := via }] }
  else s.windowRegWrite c off p.bytes

/-- Performs a write for an agent of die `d`: on a page in the sluice both copies below the frontier (R390); to a hole, it
is discarded with a black-box event (R18). With a mask only its 1 bits are written (R87). -/
def State.writePa (s : State) (d : Nat) (ag : Nat × Agent) (pa : Nat) (bs : List Byte) (bad : Bool := false) (mask : List Byte := [])
    (via : Option AccessOrigin := none) : State :=
  let mir := s.mirror pa
  let pa := s.served pa
  match place pa with
  | .hole => s.holeAccess ag.1 pa
  | .window c off => s.writeWindow ag c off { addr := pa, bytes := bs, mask := mask } bad via
  | _ =>
    if absent pa then s.holeAccess ag.1 pa
    else
      let s := s.writeMem d ag { addr := pa, bytes := bs, mask := mask } bad
      match mir with
      | some q => s.writeMem d ag { addr := q, bytes := bs, mask := mask } bad
      | none => s

/-- Memory that the dies' views hold: DRAM and cluster SRAM. -/
def viewed (pa : Nat) : Bool :=
  match place pa with
  | .hole | .window .. => false
  | _ => !absent pa

/-- COMMITS the parts of one plane block together (R72, R101): those in DRAM or cluster SRAM are one write, also of their
second copies in the sluice (R390). Each part has the offsets of its bytes that become poisoned. -/
def State.commitPlanes (s : State) (d : Nat) (ag : Nat × Agent) (ps : List (Part × List Nat)) : State :=
  let here := ps.map fun (p, bad) => ({ p with addr := s.served p.addr }, bad)
  let copies := ps.filterMap fun (p, bad) => (s.mirror p.addr).map fun q => ({ p with addr := q }, bad)
  let held := (here ++ copies).filter fun (p, _) => viewed p.addr
  let s := if held.isEmpty then s else { s with mem := s.mem.writeParts d ag (held.map Prod.fst) }
  let s := (here.filter fun (p, _) => !viewed p.addr).foldl (fun (s : State) (p, _) => s.writePa d ag p.addr p.bytes false p.mask) s
  let s := held.foldl (fun (s : State) (p, _) => s.markWrite p false) s
  (here ++ copies).foldl (fun (s : State) (p, bad) =>
    if bad.isEmpty then s else { s with mem := s.mem.mark (bad.map fun o => (p.addr + o) / granule (p.addr + o) * granule (p.addr + o)) }) s

/-- The energy weight of a byte at an address (R315). -/
def Weights.byteAt (w : Weights) (pa : Nat) : Nat :=
  match place pa with
  | .hbm => w.hbmB.toNat
  | .lpd => w.lpdB.toNat
  | .cxl => w.cxlB.toNat
  | _ => 0

/-- Charges the DRAM bytes of an access to the task on cell `c` (R315). -/
def State.chargeBytes (s : State) (c pa n : Nat) : State := s.modCell c fun x => x.charge (x.weights.byteAt pa * n)

/-! ### Translation -/

/-- Fields of a leaf (R378). -/
def leafRD (e : DWord) : Bool := e.getLsbD 2
def leafWR (e : DWord) : Bool := e.getLsbD 3
def leafEX (e : DWord) : Bool := e.getLsbD 4
def leafSUP (e : DWord) : Bool := e.getLsbD 5
def leafTier (e : DWord) : Nat := bitsAt e.toNat 6 2
def leafSLU (e : DWord) : Bool := e.getLsbD 8
def leafPIN (e : DWord) : Bool := e.getLsbD 9
def leafTOL (e : DWord) : Bool := e.getLsbD 10
def leafCK (e : DWord) : Nat := bitsAt e.toNat 11 3
def leafFrame (e : DWord) : Nat := bitsAt e.toNat 16 34 * 2 ^ 16

/-- The size of a page. -/
def pageSize (large : Bool) : Nat := if large then 2 ^ 21 else 2 ^ 16

/-- A valid leaf entry (R378, R379). -/
def leafValid (e : DWord) (large : Bool) : Bool :=
  e.getLsbD 0 && (e.getLsbD 1 == large) && bitsAt e.toNat 14 2 = 0 && bitsAt e.toNat 50 14 = 0 &&
  (!large || bitsAt e.toNat 16 5 = 0) && !touchesHole (leafFrame e) (pageSize large) &&
  (place (leafFrame e)).tier = some (leafTier e) && (leafTier e ≠ 3 || (leafCK e = 0 && !leafTOL e)) &&
  leafCK e ≤ 3 && (!leafWR e || leafRD e)

/-- A valid table entry at a level from 0 to 3 (R377, R379). -/
def tableValid (e : DWord) (level : Nat) : Bool :=
  e.getLsbD 0 && !e.getLsbD 1 && bitsAt e.toNat 2 6 = 0 && bitsAt e.toNat 50 14 = 0 &&
  (level = 3 || bitsAt e.toNat 8 4 = 0) &&
  !touchesHole (bitsAt e.toNat 8 42 * 256) (if level = 3 then 256 else 4096)

/-- What a translation finds: a leaf with the address it was read from, an invalid entry, or an entry that
reads as poisoned (`false`) or holds an uncorrectable error (`true`), with its address (R376, R379). -/
inductive Walk where
  | leaf (e : DWord) (large : Bool) (at_ : Nat)
  | notPresent
  | bad (uncorr : Bool) (at_ : Nat)
  deriving DecidableEq, Repr

/-- Walks the tables from `level` on, at `table` (R376). `fuel` is the number of levels left. -/
def State.walk (s : State) (d : Nat) (va : Nat) (fuel level table : Nat) : Walk :=
  match fuel with
  | 0 => .notPresent
  | fuel + 1 =>
    let idx := match level with
      | 0 => bitsAt va 48 4
      | 1 => bitsAt va 39 9
      | 2 => bitsAt va 30 9
      | 3 => bitsAt va 21 9
      | _ => bitsAt va 16 5
    let a := table + 8 * idx
    let r := s.readPa d a 8
    match r.bad with
    | some (_, u) => .bad u a
    | none =>
      let e : DWord := BitVec.ofNat 64 r.nat
      if level = 4 then (if leafValid e false then .leaf e false a else .notPresent)
      else if level = 3 ∧ e.getLsbD 1 then (if leafValid e true then .leaf e true a else .notPresent)
      else if tableValid e level then s.walk d va fuel (level + 1) (bitsAt e.toNat 8 42 * 256)
      else .notPresent

/-- The dispatcher's copy of a context. -/
def State.context (s : State) (ctx : BitVec 16) : Context := (look s.disp.contexts ctx.toNat).getD {}

/-- A context's page tables walked for an address, by an agent of die `d`; none for a FREE context (R474). -/
def State.walkFrom (s : State) (d : Nat) (ctx : BitVec 16) (va : Nat) : Walk :=
  let k := s.context ctx
  if k.state = .free then .notPresent else s.walk d va 5 0 k.ptroot

/-- A cached translation that covers an address (R382). -/
def tlbFind (l : List TlbEntry) (ctx : BitVec 16) (va : Nat) : Option TlbEntry :=
  l.find? fun e => e.ctx = ctx && e.va ≤ va && va < e.va + pageSize e.large

/-- The translation an agent uses: from its cell's TLB, for an engine its current- or next-page register,
from its quad's TLB, else from a walk (R382, R383, notes/assumptions/8). -/
def State.lookup (s : State) (w : Who) (va : Nat) : Walk :=
  let x := s.cell w.cell
  let regs := match w.ag with
    | .stream .m => (x.pageRegs.take 4).flatMap fun (a, b) => a.toList ++ b.toList
    | .stream .c => (x.pageRegs.drop 4).flatMap fun (a, b) => a.toList ++ b.toList
    | _ => x.tlb
  match tlbFind (regs ++ (s.quad (quadOf w.cell)).tlb) w.ctx va with
  | some e => .leaf e.leaf e.large 0
  | none => s.walkFrom (dieOf w.cell) w.ctx va

/-- The physical address of a virtual one under a leaf (R378). -/
def leafPa (e : DWord) (large : Bool) (va : Nat) : Nat := leafFrame e + va % pageSize large

/-- What an access needs of a leaf (R380). -/
structure Need where
  rd : Bool := false
  wr : Bool := false
  ex : Bool := false
  deriving DecidableEq, Repr

/-- The leaf permits the access (R380); control registers need a SUPER-mode mapping (R20). -/
def permitted (e : DWord) (pa : Nat) (super : Bool) (n : Need) : Bool :=
  (!n.rd || leafRD e) && (!n.wr || leafWR e) && (!n.ex || leafEX e) && (!leafSUP e || super) &&
  (match place pa with | .window _ off => off < 0xF00000 || leafSUP e | _ => true)

/-- The size and alignment rule of register regions (R20); lines of 256 bytes are for copy engines. -/
def windowAlign (pa n : Nat) (line : Bool) : Bool :=
  match place pa with
  | .window _ off =>
    off < 0x800000 || ((n = 4 || n = 8) && off % n = 0) ||
      (line && n = 256 && off % 256 = 0 && (off < 0x810000 || (0x900000 ≤ off && off < 0x904000) || (0x920000 ≤ off && off < 0x921000)))
  | _ => true

/-- An earlier pass or claim of a tile has not taken effect. -/
def passPending (older : List Unfinished) (t : Nat) : Bool :=
  older.any fun u => match u.finish with | .pass k _ | .claim k => k = t | _ => false

/-- The shutter of a tile as an agent's own earlier passes and claims leave it (R153). -/
def Cell.effShutter (x : Cell) (ag : Agent) (t : Nat) : BitVec 3 :=
  (x.issue ag).unfinished.foldl
    (fun v u => match u.finish with
      | .pass k code => if k = t then BitVec.ofNat 3 code else v
      | .claim k => if k = t then agentCode ag else v
      | _ => v) (x.shutter t)

/-- SHUTTER with its information (R306). -/
def shutterInfo (t : Nat) (v : BitVec 3) : TrapInfo := ⟨cSHUTTER, BitVec.ofNat 64 (t + 256 * v.toNat)⟩

/-- The shutter test of S and of a wicket on its own cell's scratchpad (R98, R153). -/
def shutterTrap (x : Cell) (w : Who) (pa : Nat) : Option TrapInfo :=
  match place pa with
  | .window c off =>
    if c = w.cell ∧ off < 0x200000 ∧ x.effShutter w.ag (off / 0x4000) ≠ agentCode w.ag then
      some (shutterInfo (off / 0x4000) (x.effShutter w.ag (off / 0x4000)))
    else none
  | _ => none

/-- The checks of an access of S or of a wicket that precede its data, in the order of R131 and R380: RANGE,
NONCANON, ALIGN, SHUTTER, NOTPRESENT, PERM. A walk that meets a bad entry raises POISON or UNCORR (R376). An access
that reads and writes is an atomic's: it reaches no tile, and a cell window denies it (R93, notes/assumptions/40). A
read of a block of 64 bytes counts as aligned accesses of 8 bytes, also in a register region (R20, DESIGN CHOICE,
notes/assumptions/110). -/
def State.accessCheck (s : State) (w : Who) (ea : Int) (n align : Nat) (need : Need) : Acc Nat :=
  let va := ea.toNat
  match addrCheck ea n with
  | some c => .trap (trapAt c (ea % 2 ^ 64).toNat)
  | none =>
    if va % align ≠ 0 then .trap (trapAt cALIGN va) else
    match s.lookup w va with
    | .notPresent => .trap (trapAt cNOTPRESENT va)
    | .bad u _ => .trap (trapAt (if u then cUNCORR else cPOISON) va)
    | .leaf e large _ =>
      let pa := leafPa e large va
      if !windowAlign pa (min n 8) false then .trap (trapAt cALIGN va) else
      match if need.rd && need.wr then none else shutterTrap (s.cell w.cell) w pa with
      | some t => .trap t
      | none => if permitted e pa w.super need then .ok pa else .trap (trapAt cPERM va)

/-- A scratchpad byte of another cell, or of any cell for a fetch or a dispatcher access (R21). -/
def foreignPad (c pa : Nat) : Bool :=
  match place pa with
  | .window k off => k ≠ c && off < 0x200000
  | _ => false

/-- Whether an access of an agent carried by a copy-engine port proceeds now (R21). -/
def State.portOpen (s : State) (who : Nat × Agent) (pa : Nat) : Bool :=
  match place pa with
  | .window c off => off ≥ 0x200000 || (s.cell c).res.fenced || (s.cell c).padOpenFor who off
  | _ => true

/-- A read of a register region waits for a begun command that uses it (R22). -/
def State.regSettled (s : State) (pa : Nat) : Bool :=
  match place pa with
  | .window c off => off < 0x800000 || !(s.cell c).midwayAt off
  | _ => true

/-- An access that waits at the scratchpad of a cell whose image is being saved or restored waits on for the next
ACTIVE one (R302). -/
def State.bar (s : State) (who : Nat × Agent) (pa : Nat) : State :=
  match place pa with
  | .window c off =>
    let x := s.cell c
    if off < 0x200000 && (x.res.image = .saving || x.res.image = .restoring) && !x.barred.contains who then
      s.setCell c { x with barred := who :: x.barred } else s
  | _ => s

/-- An access that has reached the limit of R21 waits no more. -/
def State.unbar (s : State) (who : Nat × Agent) (c : Nat) : State :=
  s.modCell c fun x => { x with barred := x.barred.filter fun w => w ≠ who }

/-- The limit of an external access's stall on a shutter, in cycles (R21). -/
def portLimit : Nat := 2 ^ 20

/-- What a read of an agent that has met bad data leaves behind: the event of a hole (R18), or of the limit of R21 when
the access is carried by a copy-engine port, or the mark of a granule that held an on-chip error (R425). -/
def State.badRead (s : State) (who : Nat × Agent) (carried : Bool) (pa n : Nat) : State :=
  if absent pa then s.holeAccess who.1 pa else
  match place pa with
  | .window k off => if carried && off < 0x200000 && !s.portOpen who pa then (s.limitReached who.1 k off).unbar who k else s.detect pa n
  | _ => s.detect pa n

/-- What a consuming read at the address of a POISON or UNCORR trap leaves behind. A fetch is always carried by a
copy-engine port (R21); an access to a tile names its bytes by their window address. A walk that met a bad entry
leaves what the read of the entry does (R18, R376). -/
def State.badAt (s : State) (w : Who) (fetch : Bool) (n : Nat) (t : TrapInfo) : State :=
  let va := t.info.toNat
  if (t.cause ≠ cUNCORR ∧ t.cause ≠ cPOISON) ∨ (va = 0 ∧ n = 1) then s else
  let s := match s.lookup w va with
    | .leaf e large _ =>
      let pa := s.served (leafPa e large va)
      s.badRead (w.cell, w.ag) (fetch || foreignPad w.cell pa) pa (min n (16384 - va % 16384))
    | .bad _ a => s.badRead (w.cell, w.ag) false a 8
    | .notPresent => s
  if t.cause = cUNCORR then (match place va with | .window k off => if k = w.cell ∧ off < 0x200000 then s.detect va 1 else s | _ => s) else s

end Sys2Proof.Machine
end

