-- ==== Sys2Proof/Machine/Objects.lean ====
section
/-! DEFINITION. What the dispatcher keeps and does for every instruction: its own memory accesses, notices
(R309), context states (R293, R295), groups (R348 to R357), and the end of a task (R31, R318). -/

namespace Sys2Proof.Machine

/-- The dispatcher as the agent of a write; it sits on die 0 (R362). -/
def dispatcherAgent : Nat × Agent := (Config.cells, .stream .s)

/-- Every cross-die write applied everywhere, in the order sent. -/
def State.settle (s : State) : State := { s with mem := s.mem.pend.foldl MemUnit.apply s.mem }

/-- A dispatcher write by physical address, performed at PACKAGE scope before it counts as done: dispatcher
writes are releases (R30, R309, R349, R362, notes/assumptions/5). -/
def State.dwrite (s : State) (pa : Nat) (bs : List Byte) : State := (s.writePa 0 dispatcherAgent pa bs).settle

/-- The code with which a dispatcher access says that it waits on a shutter; no cause of R129. -/
def cWAIT : BitVec 8 := 0

/-- A dispatcher access of agent `dispatcherAgent` to a tile waits on its shutter, and has not reached the limit (R21). -/
def State.dwaits (s : State) (pa : Nat) : Bool :=
  !s.portOpen dispatcherAgent pa && !(look s.disp.portWaits (pa / 16384)).any fun t => t + portLimit ≤ s.cycle

/-- The physical address of a dispatcher access of `n` bytes in a context, or the cause of its fault: that of the leaf, or
ALIGN by the rule of register regions (R20). -/
def State.dplace (s : State) (ctx : BitVec 16) (va n : Nat) (need : Need) : Except (BitVec 8) Nat :=
  match s.walkFrom 0 ctx va with
  | .notPresent => .error cNOTPRESENT
  | .bad u _ => .error (if u then cUNCORR else cPOISON)
  | .leaf e large _ =>
    let pa := leafPa e large va
    if !windowAlign pa n false then .error cALIGN
    else if !permitted e pa true need then .error cPERM else .ok pa

/-- Bytes read by the dispatcher in a context, or the cause of the fault; a scratchpad that its shutter closes makes the
read wait, and poisons it at the limit (R21). -/
def State.dread (s : State) (ctx : BitVec 16) (va n : Nat) : Except (BitVec 8) (List Byte) :=
  match s.dplace ctx va n { rd := true } with
  | .error c => .error c
  | .ok pa =>
    if s.dwaits pa then .error cWAIT
    else if !s.portOpen dispatcherAgent pa then .error cPOISON else
    let d := s.readPa 0 pa n
    match d.bad with
    | some (_, u) => .error (if u then cUNCORR else cPOISON)
    | none => .ok d.bytes

/-- Charges a dispatcher access for a cell's task (R303, R315). -/
def State.chargeVa (s : State) (c : Nat) (ctx : BitVec 16) (va n : Nat) : State :=
  match s.walkFrom 0 ctx va with
  | .leaf e large _ => s.chargeBytes c (leafPa e large va) n
  | _ => s

/-- What a dispatcher access to [`va`, `va` + `n`) that has met a fault of cause `c`, or waits, leaves behind (R18, R21,
R425). -/
def State.dmiss (s : State) (ctx : BitVec 16) (va n : Nat) (c : BitVec 8) : State :=
  if c ≠ cPOISON ∧ c ≠ cUNCORR ∧ c ≠ cWAIT then s else
  match s.walkFrom 0 ctx va with
  | .leaf e large _ =>
    let pa := leafPa e large va
    if c = cWAIT then
      let s := if (look s.disp.portWaits (pa / 16384)).isSome then s
        else { s with disp := { s.disp with portWaits := store s.disp.portWaits (pa / 16384) s.cycle } }
      s.bar dispatcherAgent pa
    else
      let s := s.badRead dispatcherAgent true (s.served pa) n
      { s with disp := { s.disp with portWaits := drop s.disp.portWaits (pa / 16384) } }
  | .bad _ a => s.badRead dispatcherAgent true a 8
  | .notPresent => s

/-- A dispatcher access has gone through: its tile keeps it waiting no more. -/
def State.dcame (s : State) (ctx : BitVec 16) (va : Nat) : State :=
  if s.disp.portWaits.isEmpty then s else
  match s.walkFrom 0 ctx va with
  | .leaf e large _ => { s with disp := { s.disp with portWaits := drop s.disp.portWaits (leafPa e large va / 16384) } }
  | _ => s

/-- Bytes written by the dispatcher in a context, or the cause of the fault. A scratchpad that its shutter closes keeps the
write waiting at its cell (R21). -/
def State.dstore (s : State) (ctx : BitVec 16) (va : Nat) (bs : List Byte) : Except (BitVec 8) State :=
  match s.dplace ctx va bs.length { wr := true } with
  | .error c => .error c
  | .ok pa =>
    if s.portOpen dispatcherAgent pa then .ok (s.dwrite pa bs) else
    match place pa with
    | .window k off => .ok ((s.bar dispatcherAgent pa).modCell k fun x => { x with winWaits := x.winWaits ++
        [{ agent := dispatcherAgent, off := off, size := bs.length, wr := some bs, since := s.cycle, via := some { ctx := ctx, va := va } }] })
    | _ => .ok s

/-! ### Contexts -/

/-- Replaces the dispatcher's copy of a context. -/
def State.setContext (s : State) (ctx : BitVec 16) (k : Context) : State :=
  { s with disp := { s.disp with contexts := store s.disp.contexts ctx.toNat k } }

/-- `STATE` as the table holds it (R290). -/
def ctxStateCode (x : CtxState) : Nat :=
  match x with
  | .free => 0
  | .active => 1
  | .faulted => 2
  | .destroyed => 3

/-- The address of a context's table entry (R289). -/
def State.ctxEntry (s : State) (ctx : BitVec 16) : Nat := s.disp.ctxtbl.toNat + 64 * ctx.toNat

/-- Writes the dispatcher's fields of a context table entry: `STATE`, `ETOTAL`, `ESAT` and `NRPROD` (R290). -/
def State.writeCtx (s : State) (ctx : BitVec 16) : State :=
  let k := s.context ctx
  let e := s.ctxEntry ctx
  let s := s.dwrite (e + 42) (leBytes 1 (ctxStateCode k.state))
  let s := s.dwrite (e + 48) (leBytes 8 (k.etotal.toNat + 2 ^ 63 * bit k.esat))
  s.dwrite (e + 56) (leBytes 4 k.nrprod.toNat)

/-- Changes a context and writes its entry. -/
def State.modContext (s : State) (ctx : BitVec 16) (f : Context → Context) : State :=
  (s.setContext ctx (f (s.context ctx))).writeCtx ctx

/-- Writes a notice (R309): the record, then `NRPROD`. A record whose slot meets a fault is lost, and the count
goes on (notes/assumptions/19). -/
def State.notice (s : State) (ctx : BitVec 16) (cause : BitVec 8) (origin cell task : Nat) (info page : DWord) : State :=
  let k := s.context ctx
  let slot := k.nrprod.toNat % 2 ^ (k.nrlog + 4)
  let bs := leBytes 1 cause.toNat ++ leBytes 1 origin ++ leBytes 2 cell ++ leBytes 4 task ++ leBytes 8 info.toNat ++
    leBytes 8 page.toNat ++ leBytes 8 s.time.toNat
  let s := match s.dstore ctx (k.nrbase + 32 * slot) bs with
    | .ok s => s
    | .error c => s.dmiss ctx (k.nrbase + 32 * slot) 32 c
  s.modContext ctx fun k => { k with nrprod := k.nrprod + 1 }

/-! ### Routes over the torus -/

/-- This module's number in the fabric (R348, R400). -/
def State.moduleNumber (s : State) : Nat := s.link.mx.toNat + 16 * s.link.my.toNat + 256 * s.link.mz.toNat

/-- Coordinates of a module number (R348). -/
def moduleXyz (n : Nat) : List Nat := [n % 16, n / 16 % 16, n / 256 % 16]

/-- The larger coordinate number of each dimension (R400). -/
def State.dims (s : State) : List Nat := [s.link.dxm.toNat + 1, s.link.dym.toNat + 1, s.link.dzm.toNat + 1]

/-- A port in UP, DETERMINISTIC or DEGRADED (R403). -/
def Port.live (p : Port) : Bool := 2 ≤ p.state.toNat

/-- The preferred port of dimension `k` towards a coordinate: the shorter way, + when equal (R404); none when
the coordinate is reached. -/
def State.wayTo (s : State) (k t : Nat) : Option Nat :=
  let m := (moduleXyz s.moduleNumber).getD k 0
  let n := s.dims.getD k 1
  let plus := (t + n - m) % n
  if plus = 0 then none else some (2 * k + (if 2 * plus ≤ n then 0 else 1))

/-- The port of the other direction. -/
def otherWay (p : Nat) : Nat := if p % 2 = 0 then p + 1 else p - 1

/-- The first port tried towards a module (R412). -/
def State.firstTried (s : State) (dst : Nat) : Nat :=
  ((List.range 3).findSome? fun k => s.wayTo k ((moduleXyz dst).getD k 0)).getD 0

/-- The port a packet takes: in dimension order, the other direction when the preferred port is not live
(R404). The module itself is reached without a port (6). None when no dimension can proceed. -/
def State.route (s : State) (dst : Nat) : Option Nat :=
  if dst = s.moduleNumber then some 6 else
  (List.range 3).findSome? fun k =>
    match s.wayTo k ((moduleXyz dst).getD k 0) with
    | none => none
    | some p =>
      if (s.link.ports.getD p {}).live then some p
      else if (s.link.ports.getD (otherWay p) {}).live then some (otherWay p) else none

/-- The module number lies in the torus (R400). -/
def State.inTorus (s : State) (m : Nat) : Bool := ((moduleXyz m).zip s.dims).all fun (a, n) => a < n

/-! ### Groups -/

/-- Parts of a group id (R348). -/
def gidLevel (g : BitVec 32) : Nat := bitsAt g.toNat 30 2
def gidHome (g : BitVec 32) : Nat := bitsAt g.toNat 18 12
def gidSlot (g : BitVec 32) : Nat := bitsAt g.toNat 0 18

/-- Group states (R349). -/
def gOPEN : BitVec 3 := 0
def gCLOSING : BitVec 3 := 1
def gDRAINED : BitVec 3 := 2
def gCOMPLETE : BitVec 3 := 3
def gCANCELLING : BitVec 3 := 4
def gCANCELLED : BitVec 3 := 5
def gFREE : BitVec 3 := 7

/-- COMPLETE or CANCELLED (R350). -/
def Group.terminal (g : Group) : Bool := g.state = gCOMPLETE || g.state = gCANCELLED

/-- The group in a slot; FREE when none. -/
def State.groupAt (s : State) (slot : Nat) : Group := (look s.disp.groups slot).getD {}

/-- The group of an id on this module: whichever group its slot holds now (R350). -/
def State.group (s : State) (g : BitVec 32) : Option Group :=
  if gidHome g ≠ s.moduleNumber then none else
  let x := s.groupAt (gidSlot g)
  if x.state = gFREE then none else some x

/-- The id of a group on this module (R348). -/
def State.gidOf (s : State) (level slot : Nat) : BitVec 32 := BitVec.ofNat 32 (level * 2 ^ 30 + s.moduleNumber * 2 ^ 18 + slot)

/-- The 64 bytes of a group table entry (R349). -/
def Group.bytes (g : Group) : List Byte :=
  leBytes 1 (g.state.toNat + 8 * g.level.toNat + 32 * bit g.err + 64 * g.bnd.toNat) ++ leBytes 1 0 ++ leBytes 2 g.ctx.toNat ++
    leBytes 4 g.parent.toNat ++ leBytes 8 g.count.toNat ++ leBytes 8 g.bval.toNat ++ leBytes 4 g.node.toNat ++
    leBytes 4 g.nedge.toNat ++ leBytes 8 g.garg.toNat ++ leBytes 24 0

/-- Replaces a group in the dispatcher's copy and in the table. -/
def State.setGroup (s : State) (slot : Nat) (g : Group) : State :=
  ({ s with disp := { s.disp with groups := store s.disp.groups slot g } } : State).dwrite (s.disp.gtbl.toNat + 64 * slot) g.bytes

/-- Sends an operation to a group on another module (R348). -/
def State.sendGroup (s : State) (g : BitVec 32) (msg : GroupMsg) : State :=
  { s with link := { s.link with out := s.link.out ++
      [{ dst := gidHome g, port := (s.route (gidHome g)).getD (s.firstTried (gidHome g)), cell := Config.cells, agent := .stream .s
         ctx := 0, sentAt := s.cycle, payload := .group msg }] } }

/-- A message of the dispatcher to the module at the far end of a port or anywhere in the torus. -/
def State.tell (s : State) (dst port : Nat) (p : Payload) : State :=
  { s with link := { s.link with out := s.link.out ++
      [{ dst := dst, port := port, cell := Config.cells, agent := .stream .s, ctx := 0, sentAt := s.cycle, payload := p }] } }

/-- The state word of a group (R360). -/
def Group.word (g : Group) : DWord :=
  BitVec.ofNat 64 (g.state.toNat + 8 * g.level.toNat + 32 * bit g.err + 256 * g.count.toNat)

/-- A `GCTL` WAIT of the cell's task that stalls on a group receives the state word with which the group became
terminal; the group's slot may be free again before the form moves on (R350, R360). -/
def Cell.endWait (x : Cell) (gid : BitVec 32) (ctx : BitVec 16) (v : DWord) : Cell :=
  match x.s.iss.wait, x.s.iss.unfinished.getLast? with
  | some _, some u =>
    (match u.instr with
     | .gctlWait .. =>
       if gidHome (field u.opa 0 32) = gidHome gid ∧ gidSlot (field u.opa 0 32) = gidSlot gid ∧ x.res.ctx = ctx ∧ u.value.isNone then
         { x with s := { x.s with iss := { x.s.iss with unfinished := x.s.iss.unfinished.dropLast ++ [{ u with value := some v }] } } }
       else x
     | _ => x)
  | _, _ => x

/-- Ends the WAITs on a group that is terminal, on this module and on others (R360). -/
def State.endWaits (s : State) (gid : BitVec 32) (g : Group) : State :=
  g.waiters.foldl (fun (s : State) (m, c) => s.tell m ((s.route m).getD (s.firstTried m)) (.reply c g.word))
    { s with cells := s.cells.map fun x => x.endWait gid g.ctx g.word }

/-- Adds to a `KLIVE` counter at an address of a context; none while a shutter keeps it waiting (R21, R340). -/
def State.kliveTry (s : State) (ctx : BitVec 16) (va : Nat) (d : Int) : Option State :=
  match s.dread ctx va 4 with
  | .error c => if c = cWAIT then none else some (s.dmiss ctx va 4 c)
  | .ok bs =>
    match (s.dcame ctx va).dstore ctx va (leBytes 4 (((leNat bs : Int) + d) % 2 ^ 32).toNat) with
    | .ok s => some s
    | .error c => some (s.dmiss ctx va 4 c)

/-- Adds to `KLIVE` of a bound launch's kernel header, in the launch's context; one that `GCTL` opened has none (R340). -/
def State.klive (s : State) (g : Group) (d : Int) : State :=
  if !g.bound then s else
  match s.kliveTry g.ctx g.bval.toNat d with
  | some s => s
  | none =>
    let s := s.dmiss g.ctx g.bval.toNat 4 cWAIT
    { s with disp := { s.disp with kliveWaits := s.disp.kliveWaits ++ [(g.ctx, g.bval.toNat, d)] } }

/-- Tries the additions to `KLIVE` that wait. -/
def State.drainKlive (s : State) : State :=
  s.disp.kliveWaits.foldl (fun (s : State) (k : BitVec 16 × Nat × Int) =>
    match s.kliveTry k.1 k.2.1 k.2.2 with
    | some t => { t with disp := { t.disp with kliveWaits := t.disp.kliveWaits.erase k } }
    | none => s) s

/-- A phase's boundary is met (R354). -/
def State.boundaryMet (s : State) (g : Group) : Bool :=
  match g.bnd.toNat with
  | 1 => g.bval ≤ s.time
  | 2 => g.met
  | _ => true

/-- The launch of a node is held: a predecessor node holds a launch that is not COMPLETE, or none while the
graph is OPEN or DRAINED (R357). -/
def Group.holds (g : Group) (n : Nat) : Bool :=
  g.edges.any fun (a, b) => b = n &&
    match look g.nodes a with
    | some k => !k.complete
    | none => g.state = gOPEN || g.state = gDRAINED

/-- Marks `ERR` of a launch. -/
def State.groupErr (s : State) (gid : BitVec 32) : State :=
  match s.group gid with
  | none => if gid = 0 ∨ gidHome gid = s.moduleNumber then s else s.sendGroup gid (.err gid)
  | some g => s.setGroup (gidSlot gid) { g with err := true }

/-! ### Records, stops and the ready pool -/

/-- The 64 bytes of a record (R25). -/
def Record.bytes (r : Record) : List Byte :=
  leBytes 8 r.spc.toNat ++ leBytes 8 r.vpc.toNat ++ leBytes 8 r.mpc.toNat ++ leBytes 8 r.cpc.toNat ++ leBytes 8 r.frame.toNat ++
  leBytes 4 r.taskid.toNat ++ leBytes 4 r.nodeid.toNat ++ leBytes 1 r.basepri.toNat ++ leBytes 1 r.ceilpri.toNat ++
  leBytes 2 r.ctxid.toNat ++ leBytes 4 r.launchid.toNat ++ leBytes 1 r.skind.toNat ++ leBytes 1 r.scause.toNat ++
  leBytes 2 r.sinfo.toNat ++ leBytes 1 r.flags.toNat ++ leBytes 3 r.resv.toNat

/-- Reads a record (R25). -/
def recordOf (bs : List Byte) : Record :=
  let f := fun (o n : Nat) => leNat ((bs.drop o).take n)
  { spc := BitVec.ofNat 64 (f 0 8), vpc := BitVec.ofNat 64 (f 8 8), mpc := BitVec.ofNat 64 (f 16 8), cpc := BitVec.ofNat 64 (f 24 8)
    frame := BitVec.ofNat 64 (f 32 8), taskid := BitVec.ofNat 32 (f 40 4), nodeid := BitVec.ofNat 32 (f 44 4)
    basepri := BitVec.ofNat 8 (f 48 1), ceilpri := BitVec.ofNat 8 (f 49 1), ctxid := BitVec.ofNat 16 (f 50 2)
    launchid := BitVec.ofNat 32 (f 52 4), skind := BitVec.ofNat 8 (f 56 1), scause := BitVec.ofNat 8 (f 57 1)
    sinfo := BitVec.ofNat 16 (f 58 2), flags := BitVec.ofNat 8 (f 60 1), resv := BitVec.ofNat 24 (f 61 3) }

/-- Flags of a record (R25). -/
def Record.stealable (r : Record) : Bool := r.flags.getLsbD 0
def Record.det (r : Record) : Bool := r.flags.getLsbD 1
def Record.weir (r : Record) : Bool := r.flags.getLsbD 2

/-- A task. -/
def State.task (s : State) (n : Nat) : Option Task := look s.disp.tasks n

/-- Replaces a task. -/
def State.setTask (s : State) (n : Nat) (t : Task) : State := { s with disp := { s.disp with tasks := store s.disp.tasks n t } }

/-- Writes a task's record back; one whose place meets a fault is not written (R30). -/
def State.writeRecord (s : State) (t : Task) : State :=
  match s.dstore t.record.ctxid t.va t.record.bytes with
  | .ok s => s
  | .error c => s.dmiss t.record.ctxid t.va 64 c

/-- Energy of an image in units of 2^`esc` pJ (R318). -/
def Resident.total (r : Resident) (esc : Nat) : Nat := (r.energy.toNat * 2 ^ r.escale.toNat + r.ea / 256) / 2 ^ esc

/-- Adds an image's energy to `ETOTAL` (R318). -/
def Context.addEnergy (k : Context) (r : Resident) : Context :=
  let t := k.etotal.toNat + r.total k.esc.toNat
  { k with etotal := BitVec.ofNat 48 (min (2 ^ 48 - 1) t), esat := k.esat || r.esat || decide (2 ^ 48 - 1 < t) }

/-- Credits the energy that agent `ag`'s move has used on a cell without an image to its wicket, and that of a wicket that
has ended to the `ETOTAL` of its context (R316, R318, DESIGN CHOICE, notes/assumptions/107). -/
def State.creditWickets (s : State) (c : Nat) (ag : Agent) : State :=
  let x := s.cell c
  if x.loose = 0 ∧ (x.wickets.all fun k => k.running || k.ea = 0) then s else
  let credit := fun (w : Nat) (k : Wicket) => if ag = .wicket w then { k with ea := k.ea + x.loose } else k
  let s := s.setCell c { x with loose := 0, wickets := mapFrom 0 credit x.wickets }
  let s := ((s.cell c).wickets.filter fun k => !k.running && k.ea ≠ 0).foldl (fun (s : State) k =>
    s.modContext k.ctx fun e => e.addEnergy { energy := 0, ea := k.ea }) s
  s.modCell c fun x => { x with wickets := x.wickets.map fun k => if k.running then k else { k with ea := 0 } }

/-- Frees a landing-buffer slot (R409). -/
def Cell.freeSlot (x : Cell) (k : Option Nat) : Cell :=
  match k with
  | some i => { x with landing := x.landing.set i none }
  | none => x

/-- A cell without a task; what the next task finds in it stays (R34). The packets the task holds are released
(R414). Its wickets stop with a cancelled task; those of a retired one run on in their context
(notes/assumptions/27). -/
def Cell.vacate (x : Cell) (cancelled : Bool) (now : Nat) : Cell :=
  let x := { x with res := { x.res with task := none, image := .none, stop := none, lastCtx := x.res.ctx } }
  let x := { (x.freeSlot x.s.packet) with s := { x.s with packet := none, iss := {}, owed := 0 } }
  let x := if cancelled then (x.wickets.filter (·.running)).foldl (fun x k => x.freeSlot k.packet) x else x
  { x with wickets := x.wickets.map fun k =>
      if !k.running then k else if cancelled then { k with running := false, packet := none, iss := {}, alone := false }
      else { k with alone := true, start := now } }

/-- A free frame slot of a context (R298). -/
def Context.freeSlot (k : Context) : Option Nat := (List.range k.fslots).find? fun i => !k.slots.contains i

/-- A stop that waits for M to retire an accumulator: a fault, a FAULTED context or a cancel takes over from it (R301). -/
def Stop.givesWay (p : Stop) : Bool := p.reason = .preempt || p.reason = .yield || p.reason = .yieldLand

/-- Begins the stop of R301 on the task of cell `c`, taking a frame slot at its first suspension. A fault or a
FAULTED stop that finds none becomes a cancel with `ERR` set (R298). During a stop only what takes over from it changes
it; a cancel during a save is remembered (R32, R302). -/
def State.beginStop (s : State) (c : Nat) (reason : StopReason) (cause : BitVec 8) (page : Nat) (tag : BitVec 16) : State :=
  let x := s.cell c
  match x.res.task with
  | none => s
  | some n =>
    match s.task n with
    | none => s
    | some t =>
      let set := fun (s : State) (r : StopReason) =>
        s.modCell c fun x => { x with res := { x.res with
          stop := some { reason := r, cause := cause, page := page, tag := tag, mDone := x.res.stop.any (·.mDone) } } }
      match x.res.stop with
      | some p =>
        if x.res.image = .active ∧ ((reason = .cancel ∧ p.reason ≠ .cancel) ∨ ((reason = .faulted ∨ reason = .fault) ∧ p.givesWay)) then set s reason
        else if reason = .cancel then s.setTask n { t with cancelReq := true } else s
      | none =>
      if reason = .cancel ∨ t.slot.isSome then set s reason else
      match (s.context t.record.ctxid).freeSlot with
      | some k =>
        let s := s.setContext t.record.ctxid { (s.context t.record.ctxid) with slots := k :: (s.context t.record.ctxid).slots }
        set (s.setTask n { t with slot := some k }) reason
      | none => set (s.groupErr t.record.launchid) .cancel

/-- Whether a stop of the task on `c` would find no frame slot (R298). -/
def State.slotless (s : State) (c : Nat) : Bool :=
  match (s.cell c).res.task.bind s.task with
  | none => false
  | some t => t.slot.isNone && (s.context t.record.ctxid).freeSlot.isNone

/-- The cells whose image runs a task of a context. -/
def State.cellsOf (s : State) (ctx : BitVec 16) : List Nat :=
  (List.range Config.cells).filter fun c => (s.cell c).res.image = .active && (s.cell c).res.task.isSome && (s.cell c).res.ctx = ctx

/-- Signals an MSI-X vector of the host port (R429, R434). -/
def State.interrupt (s : State) (v : Nat) : State := { s with dev := { s.dev with vectors := s.dev.vectors ++ [v] } }

/-- An ACTIVE context becomes FAULTED (R293, R295): its tasks are stopped, then the event and the notice of
origin 3 are written. `cond` is the condition of event 0x0203, or 0 for a FAULT command; the notice's page,
and the cell when there is none, are open (notes/assumptions/100). -/
def State.faultContext (s : State) (ctx : BitVec 16) (cond cell : Nat) : State :=
  let k := s.context ctx
  if k.state ≠ .active then s else
  let s := s.modContext ctx fun k => { k with state := .faulted }
  let s := (s.cellsOf ctx).foldl (fun s c => s.beginStop c .faulted 0 0 0) s
  let (n, s) := s.takeFree
  let (page, s) := s.takeFree
  let s := s.event 0x0203 (if cell < Config.cells then .cell cell else .dispatcher) ctx cond (issuerInfo cell)
  let s := s.interrupt 0
  s.notice ctx 0 3 (if cell < Config.cells then cell else n.toNat) 0 (BitVec.ofNat 64 cond) page

/-- READY and WAITING tasks but task `n`, which take room in the pool and the spill area (R326, R357). -/
def State.poolHeld (s : State) (n : Nat) : Nat :=
  (s.disp.tasks.filter fun (k, t) => k ≠ n && (t.state = .ready || t.state = .waiting) && t.stolenTo.isNone).length

/-- READY tasks held in the pool and the spill area (R321). -/
def State.poolCount (s : State) : Nat := (s.disp.tasks.filter fun (_, t) => t.state = .ready && t.stolenTo.isNone).length

/-- A task enters READY with no wait time: it goes to the pool, to the spill area when the pool is full, and a full
spill area makes its context FAULTED (R31, R326). The module writes an entry of its own layout (R475). -/
def State.makeReady (s : State) (n : Nat) : State :=
  match s.task n with
  | none => s
  | some t =>
    let k := s.poolHeld n
    let s := { s with disp := { s.disp with entered := true } }
    let s := s.setTask n { t with state := .ready, deps := 0, waitSince := s.cycle, woken := false, wants := none }
    if k < 65536 then s
    else if 65536 + 2 ^ 20 ≤ k then s.faultContext t.record.ctxid 5 Config.cells
    else
      let (a, s) := s.takeFree
      let (b, s) := s.takeFree
      s.dwrite (s.disp.spillbase.toNat + 16 * (k - 65536)) (leBytes 8 a.toNat ++ leBytes 8 b.toNat)

/-- The header address and header copy of a task's kernel (R340). -/
def State.taskKernel (s : State) (t : Task) : Nat × BitVec 512 :=
  match t.kernel with
  | some k => k
  | none => match s.group t.record.launchid with
    | some g => (g.bval.toNat, g.header)
    | none => (0, 0)

/-! ### Counting out, and the end of a task -/

/-- The WAITING tasks of a launch become READY (R31, R357), on its home and where its tasks were put. -/
def State.wakeLaunch (s : State) (l : BitVec 32) : State :=
  let s := { s with disp := { s.disp with queues := s.disp.queues.map fun (q, (x : RQueue)) =>
    (q, { x with puts := x.puts.map fun (p : SlotPut) => if p.launch = l then { p with held := false } else p }) } }
  ((s.disp.tasks.filter fun (_, t) => t.record.launchid = l && t.state = .waiting).map Prod.fst).foldl State.makeReady s

/-- A launch on this module is held no longer (R357). -/
def State.releaseLaunch (s : State) (l : BitVec 32) : State :=
  let g := s.groupAt (gidSlot l)
  let s := s.setGroup (gidSlot l) { g with held := false }
  (g.afar.foldl (fun (s : State) (m, _) => s.tell m ((s.route m).getD (s.firstTried m)) (.group (.release l))) s).wakeLaunch l

/-- Releases the launches of a graph whose hold has ended (R357). -/
def State.unhold (s : State) (graph : BitVec 32) : State :=
  match s.group graph with
  | none => s
  | some g =>
    let free := g.nodes.filter fun (n, k) => k.held && !g.holds n
    let s := if free.isEmpty then s
      else s.setGroup (gidSlot graph) { g with nodes := g.nodes.map fun (n, k) => (n, if g.holds n then k else { k with held := false }) }
    free.foldl (fun (s : State) (_, k) =>
      if k.launch = 0 then s
      else if gidHome k.launch = s.moduleNumber then s.releaseLaunch k.launch else s.sendGroup k.launch (.release k.launch)) s

/-- Decrements a group's counter; at 0 it drains, completes or becomes CANCELLED, is counted out of its parent
and its slot is freed (R350 to R352). With `now` it becomes terminal without a decrement. `fuel` covers the
four levels. -/
def State.countOut (s : State) (fuel : Nat) (gid : BitVec 32) (now : Bool := false) : State :=
  match fuel with
  | 0 => s
  | fuel + 1 =>
    if gid = 0 then s else
    match s.group gid with
    | none => if gidHome gid = s.moduleNumber then s else s.sendGroup gid (.memberGone gid)
    | some g =>
      let slot := gidSlot gid
      let gid := s.gidOf g.level.toNat slot
      let g := if now then g else { g with count := g.count - 1 }
      if !now ∧ g.count ≠ 0 then s.setGroup slot g
      else if !now ∧ g.state = gOPEN then s.setGroup slot { g with state := gDRAINED }
      else if now ∨ (g.state = gCLOSING ∧ s.boundaryMet g) ∨ g.state = gCANCELLING then
        let done := g.state ≠ gCANCELLING
        let g := { g with state := if done then gCOMPLETE else gCANCELLED }
        let s := (s.setGroup slot { g with waiters := [] }).endWaits gid g
        let s := if g.level = 0 then s.klive g (-1) else s
        if g.parent = 0 then (if g.waiters.isEmpty then s else s.setGroup slot { g with state := gFREE, waiters := [] }) else
        if gidHome g.parent ≠ s.moduleNumber then s.sendGroup g.parent (.childTerminal g.parent gid !done) else
        let p := s.groupAt (gidSlot g.parent)
        let p := { p with err := p.err || !done
                          nodes := p.nodes.map fun (n, k) => (n, { k with complete := k.complete || (k.launch = gid && done) }) }
        let s := (s.setGroup (gidSlot g.parent) p).countOut fuel g.parent
        let s := s.unhold g.parent
        s.setGroup slot { (s.groupAt slot) with state := gFREE }
      else s.setGroup slot g

/-- Completes a group whose counter is 0 once nothing keeps it (R352). -/
def State.recheck (s : State) (gid : BitVec 32) : State :=
  match s.group gid with
  | none => s
  | some g =>
    if g.count = 0 ∧ ((g.state = gCLOSING ∧ s.boundaryMet g) ∨ g.state = gCANCELLING) then s.countOut 5 gid true else s

/-- A cancelled member of a launch is counted out of it, and the launch's `ERR` is set (R349, R351). -/
def State.cancelOut (s : State) (gid : BitVec 32) : State := (s.groupErr gid).countOut 5 gid

/-- Peer stores of S that are counted and have not left (R351). -/
def SUnit.unsent (x : SUnit) : Nat :=
  x.owed + (x.iss.unfinished.filter fun u => match u.finish with | .peerStore => true | _ => false).length

/-- Peer stores of a task that are counted and have not left (R351). -/
def State.unsent (s : State) (t : Task) : Nat :=
  match t.cell, t.image with
  | some c, _ => (s.cell c).s.unsent
  | none, some i => i.s.unsent
  | none, none => 0

/-- Counts `n` members out of a launch. -/
def State.countOuts (s : State) (n : Nat) (gid : BitVec 32) : State := (List.range n).foldl (fun (s : State) _ => s.countOut 5 gid) s

/-- A task leaves the machine as RETIRED or CANCELLED: its record is written, its frame slot released, its
energy added, its launch decremented; a stolen one is reported to its origin (R31, R298, R318, R332). -/
def State.finishTask (s : State) (n : Nat) (cancelled : Bool) : State :=
  match s.task n with
  | none => s
  | some t =>
    let t := { t with state := if cancelled then .cancelled else .retired
                      record := { t.record with skind := if cancelled then 6 else 5, scause := 0, sinfo := 0 } }
    let res : Option Resident := match t.cell, t.image with
      | some c, _ => some (s.cell c).res
      | none, some i => some i.res
      | none, none => none
    let s := s.modContext t.record.ctxid fun k =>
      let k := { k with slots := k.slots.filter fun x => some x ≠ t.slot }
      match res with
      | some r => k.addEnergy r
      | none => k
    let unsent := s.unsent t
    let s := s.setTask n { t with slot := none, cell := none, image := none }
    let s := s.writeRecord t
    let s := s.countOuts unsent t.record.launchid
    let s := match t.cell, t.image with
      | some c, _ => s.modCell c fun x => x.vacate cancelled s.cycle
      | none, some i => s.modCell t.lastCell fun x =>
          (i.wickets.filter fun (k : Wicket) => k.running).foldl (fun (x : Cell) (k : Wicket) => x.freeSlot k.packet) (x.freeSlot i.s.packet)
      | none, none => s
    match t.stolenFrom with
    | some m => s.tell m ((s.route m).getD (s.firstTried m)) (.group (if cancelled then .cancelled t.record.launchid else .retired t.record.launchid))
    | none => if cancelled then s.cancelOut t.record.launchid else s.countOut 5 t.record.launchid

/-- NOTPRESENT absorbed: the task is stopped and saved (R385); without a frame slot its context becomes
FAULTED and it is cancelled (R298). The notice carries the faulting address and its page. Nothing is absorbed while a
stop is under way that does not give way. -/
def State.absorb (s : State) (c : Nat) (va : DWord) : State :=
  let x := s.cell c
  if x.res.stop.any fun p => !p.givesWay then s else
  let task := (x.res.task.bind s.task).map fun t => t.record.taskid.toNat
  let page := va.toNat / 65536 * 65536
  let none_ := x.res.stop.isNone && s.slotless c
  let s := s.beginStop c .fault cNOTPRESENT page 0
  let s := s.notice x.res.ctx cNOTPRESENT 3 c (task.getD 0) va (BitVec.ofNat 64 page)
  if none_ then s.faultContext x.res.ctx 4 c else s

/-! ### Cancelling -/

/-- An id of a group on this module. -/
def State.homed (s : State) (gid : BitVec 32) : Bool := gid ≠ 0 && gidHome gid = s.moduleNumber

/-- The groups that a cancel reaches: members of a reached group, and the launches of successor nodes (R352,
R357); `fuel` rounds close the set. -/
def State.cancelSet (s : State) (fuel : Nat) (l : List Nat) : List Nat :=
  match fuel with
  | 0 => l
  | fuel + 1 =>
    let home := s.moduleNumber
    let under := (s.disp.groups.filter fun (_, g) => g.parent ≠ 0 && gidHome g.parent = home && l.contains (gidSlot g.parent) && !g.terminal).map Prod.fst
    let succ := s.disp.groups.flatMap fun (_, g) =>
      g.edges.filterMap fun (a, b) =>
        match look g.nodes a, look g.nodes b with
        | some p, some q =>
          if s.homed p.launch ∧ s.homed q.launch ∧ l.contains (gidSlot p.launch) ∧ !(s.groupAt (gidSlot q.launch)).terminal then
            some (gidSlot q.launch) else none
        | _, _ => none
    let new := (under ++ succ).filter fun i => !l.contains i
    if new.isEmpty then l else s.cancelSet fuel (l ++ new.eraseDups)

/-- Asks another module to cancel what it holds of a launch (R332, R352). -/
def State.cancelAt (s : State) (m : Nat) (launch : BitVec 32) (ctx : BitVec 16) : State :=
  s.tell m ((s.route m).getD (s.firstTried m)) (.group (.cancel launch ctx))

/-- Cancels one task under R31: at once, or by stopping its cell. A granted task is cancelled once the thief has answered
(R332). -/
def State.cancelTask (s : State) (n : Nat) : State :=
  match s.task n with
  | none => s
  | some t =>
    match t.stolenTo with
    | some m =>
      let s := s.setTask n { t with cancelReq := true }
      if t.granted then s else s.cancelAt m t.record.launchid t.record.ctxid
    | none =>
    match t.state with
    | .retired | .cancelled => s
    | .dispatched | .running =>
      (match t.cell with
       | some c => s.beginStop c .cancel 0 0 0
       | none => s.finishTask n true)
    | _ =>
      match t.cell with
      | some _ => s.setTask n { t with cancelReq := true }
      | none => s.finishTask n true

/-- Members of a launch that still exist: its tasks that have been taken, its unacknowledged peer stores, and what other
modules hold of it until they report; slots never taken are written off (R354). -/
def State.members (s : State) (gid : BitVec 32) : Nat :=
  let mine := (s.disp.tasks.filter fun (_, t) => t.record.launchid = gid && t.state ≠ .retired && t.state ≠ .cancelled).map Prod.snd
  mine.length + (mine.map s.unsent).sum + (s.link.out.filter fun p => p.launch = gid).length +
    ((s.groupAt (gidSlot gid)).afar.map Prod.snd).sum

/-- The launches on other modules that a cancel of groups of this module reaches: nodes of a cancelled graph, and
successors of a cancelled node (R352, R357). -/
def State.remoteCancels (s : State) (set : List Nat) : List (BitVec 32 × BitVec 16) :=
  (s.disp.groups.flatMap fun (i, g) =>
    let hit := fun (n : Nat) (k : GNode) => set.contains i || g.edges.any fun (a, b) => b = n &&
      (look g.nodes a).any fun (p : GNode) => s.homed p.launch && set.contains (gidSlot p.launch)
    g.nodes.filterMap fun (n, k) => if k.launch ≠ 0 ∧ !s.homed k.launch ∧ !k.complete ∧ hit n k then some (k.launch, g.ctx) else none).eraseDups

/-- Cancels a group and everything below it (R352, R354). -/
def State.cancelGroup (s : State) (gid : BitVec 32) : State :=
  let set := s.cancelSet 300000 [gidSlot gid]
  let s := set.foldl (fun (s : State) i =>
    let g := s.groupAt i
    if g.terminal ∨ g.state = gFREE ∨ g.state = gCANCELLING then s else
    let gid := s.gidOf g.level.toNat i
    let s := s.setGroup i { g with state := gCANCELLING, err := true, held := false
                                   count := if g.level = 0 then BitVec.ofNat 48 (s.members gid) else g.count }
    let s := g.afar.foldl (fun (s : State) (m, _) => s.cancelAt m gid g.ctx) s
    if g.parent = 0 then s
    else if s.homed g.parent then s.groupErr g.parent else s.sendGroup g.parent (.childCancelling g.parent gid)) s
  let s := (s.remoteCancels set).foldl (fun (s : State) (l, ctx) => s.sendGroup l (.cancel l ctx)) s
  let tasks := (s.disp.tasks.filter fun (_, t) => set.contains (gidSlot t.record.launchid) && s.homed t.record.launchid &&
    (s.groupAt (gidSlot t.record.launchid)).level = 0 && t.state ≠ .retired && t.state ≠ .cancelled).map Prod.fst
  let s := tasks.foldl State.cancelTask s
  set.foldl (fun (s : State) i =>
    let g := s.groupAt i
    if g.state = gCANCELLING ∧ g.count = 0 then
      s.recheck (s.gidOf g.level.toNat i)
    else s) s

end Sys2Proof.Machine
end

