-- ==== Sys2Proof/Machine/Ops.lean ====
section
/-! DEFINITION. How S and the wickets issue and finish instructions (R139 to R144), how a trap is taken and
returned from (R142, R304 to R308, R312), and when accesses are performed at a scope (R77, R88). -/

namespace Sys2Proof.Machine

/-- Changes the issue state of S or of a wicket of cell `c`. -/
def State.modIssue (s : State) (c : Nat) (ag : Agent) (f : Issue → Issue) : State := s.modCell c fun x => x.modIssue ag f

/-- Overwrites an on-chip location that holds an uncorrectable error (R425). -/
def State.overwrite (s : State) (site : ErrorSite) : State :=
  if s.mem.uncorr.isEmpty then s else { s with mem := { s.mem with uncorr := s.mem.uncorr.filter fun x => x ≠ site } }

/-- Writes a register of S or of a wicket. -/
def State.setReg (s : State) (c : Nat) (ag : Agent) (r : BitVec 5) (v : DWord) : State :=
  let s := if ag = .stream .s then s.overwrite (.scalarReg c r.toNat) else s
  s.modCell c fun x => x.setReg ag r.toNat v

/-! ### Taking a trap -/

/-- A replay entry in the layout of the trap frame (R142, R305). -/
def frameEntryOf (u : Unfinished) : FrameEntry :=
  { word := u.word, valid := true, pc := u.pc, opa := u.opa, opb := u.opb, opd := u.opd, ea := u.ea }

/-- Exactly eight frame entries. -/
def frameOf (l : List Unfinished) : List FrameEntry :=
  (List.range 8).map fun i => match l[i]? with | some u => frameEntryOf u | none => {}

/-- `TVEC` is canonical and 4-byte aligned (R295). -/
def vectorOk (v : DWord) : Bool := canonical v.toNat && v.toNat % 4 = 0

/-- TAKING A TRAP in S (R304): the trap frame takes the status, the information, the address at which issue
resumes and the replay queue; the mode becomes SUPER, `INTRAP` 1, `CAUSE` and `EPOS` are written, and issue goes
on at `TVEC`. With `INTRAP` = 1 already, or a bad `TVEC`, the context becomes FAULTED instead (R295). -/
def State.enterTrap (s : State) (c : Nat) (t : TrapInfo) (ce : BitVec 4) (epos spc : DWord) (entries : List Unfinished) : State :=
  let x := s.cell c
  if x.trap.inTrap then s.faultContext x.res.ctx 1 c
  else if !vectorOk x.trap.tvec then s.faultContext x.res.ctx 2 c
  else s.setCell c { x with
    trap := { x.trap with
      inTrap := true, cause := t.cause, epos := epos
      tfN := BitVec.ofNat 4 entries.length, tfCe := ce, pmode := x.s.super
      tfInfo := t.info, tfSpc := spc, frame := frameOf entries, acquire := x.s.iss.acquire }
    s := { x.s with super := true, iss := { pc := x.trap.tvec }, owed := x.s.unsent } }

/-- A trap in a wicket: it stops, its packet is discarded, a notice of origin 1 is written (R308). -/
def State.wicketTrap (s : State) (c w : Nat) (t : TrapInfo) : State :=
  let k := (s.cell c).wicket w
  let h := match k.packet.bind fun i => ((s.cell c).landing.getD i none) with
    | some p => p.packet.handler
    | none => 0
  let s := s.modCell c fun x => { (x.freeSlot k.packet) with
    wickets := modAt x.wickets w fun k => { k with running := false, packet := none, iss := {}, alone := false } }
  s.notice k.ctx t.cause 1 c 0 t.info h

/-- A branch or jump, whose trap leaves `SPC` at the branch (R157). -/
def isBranch (i : Instr) : Bool :=
  match i with
  | .br .. | .jmp .. | .jmpL .. | .jmpi .. | .jmpiL .. | .loops .. => true
  | _ => false

/-- Takes the trap of the oldest unfinished instruction of an agent, once no atomic whose request has left is
unfinished (R142); NOTPRESENT of S is absorbed (R385). -/
def State.trapTake (s : State) (c : Nat) (ag : Agent) : State :=
  let x := s.cell c
  let iss := x.issue ag
  match iss.unfinished with
  | [] => s
  | u :: rest =>
    match u.trap with
    | none => s
    | some t =>
      if rest.any (·.sent) then s else
      match ag with
      | .wicket w => s.wicketTrap c w t
      | .stream _ =>
        if t.cause = cNOTPRESENT then (if x.res.stop.any fun p => !p.givesWay || p.mDone then s.stall else s.absorb c t.info)
        else
          let self := t.cause = cSELF
          let s := if self then s.modCell c fun x => x.charge x.weights.scalar.toNat else s
          s.enterTrap c t (if self then 15 else 0) (eposOf .s u.pc 0 false)
            (if isBranch u.instr then u.pc else iss.pc)
            ((if self then rest else u :: rest) ++ iss.replay)

/-- A trap of S with no entry as its cause: an engine trap, or a fault in fetching the next word (R142, R307,
notes/assumptions/20). -/
def State.asyncTrap (s : State) (c : Nat) (t : TrapInfo) (epos : DWord) : State :=
  let iss := (s.cell c).s.iss
  s.enterTrap c t 15 epos iss.pc (iss.unfinished ++ iss.replay)

/-! ### Scopes -/

/-- Stores, and register writes that wait at another unit, of an agent (R21, R22). -/
def State.waitingWrites (s : State) (who : Nat × Agent) : Bool :=
  s.cells.any fun x => x.winWaits.any (fun a => a.agent = who && a.wr.isSome) || x.winRegs.any fun a => a.agent = who

/-- Every write of the agent is applied to its own die's view (R77). -/
def State.performedDie (s : State) (who : Nat × Agent) : Bool :=
  !s.waitingWrites who && !s.mem.pend.any fun w => w.agent = who && w.dst = dieOf who.1

/-- Every write of the agent is applied to all four views (R77). -/
def State.performedAll (s : State) (who : Nat × Agent) : Bool :=
  !s.waitingWrites who && !s.mem.pend.any fun w => w.agent = who

/-- Torus distance of two modules. -/
def State.hops (s : State) (a b : Nat) : Nat :=
  let d := fun (p q n : Nat) => let k := (q + n - p % n) % n; min k (n - k)
  ((moduleXyz a).zip (moduleXyz b)).zip s.dims |>.foldl (fun acc ((p, q), n) => acc + d p q n) 0

/-- The partition word of the job at or above a group, when it declares one (R77, R356); `fuel` covers the four levels.
What the module that holds a group of another module would answer is open (notes/assumptions/104). -/
def State.partition (s : State) (fuel : Nat) (g : BitVec 32) : Option Nat :=
  match fuel with
  | 0 => none
  | fuel + 1 =>
    if g = 0 then none
    else if gidHome g ≠ s.moduleNumber then Config.remotePartition g
    else match s.group g with
      | none => none
      | some x =>
        if x.level = 3 then (if x.garg.getLsbD 24 then some x.garg.toNat else none)
        else s.partition fuel x.parent

/-- Whether a module lies in a partition (R356). -/
def inPartition (p n : Nat) : Bool :=
  (List.range 3).all fun i =>
    let v := (moduleXyz n).getD i 0
    bitsAt p (8 * i) 4 ≤ v && v ≤ bitsAt p (8 * i + 4) 4

/-- A destination module that a scope counts (R77). -/
def State.counted (s : State) (c scope dst : Nat) : Bool :=
  if scope = 6 then s.hops s.moduleNumber dst ≤ 1
  else if scope = 7 then
    match ((s.cell c).res.task.bind s.task).bind fun t => s.partition 4 t.record.launchid with
    | some p => inPartition p dst
    | none => true
  else 8 ≤ scope

/-- The agent's peer stores and landings that have left for modules within the scope are acknowledged or lost (R77). -/
def State.peersDone (s : State) (who : Nat × Agent) (scope : Nat) : Bool :=
  scope < 6 || !s.link.out.any fun p => (p.cell, p.agent) = who && s.counted who.1 scope p.dst &&
    (match p.payload with | .store .. | .landing .. => true | _ => false)

/-- Every write of the agent is performed at the scope, and the ordering event may complete (R77); HOST acts as
PACKAGE, since the module has no CXL.cache session of its own (notes/assumptions/21). -/
def State.performedAt (s : State) (who : Nat × Agent) (scope : Nat) : Bool :=
  (if scope = 0 then true else if scope ≤ 3 then s.performedDie who else s.performedAll who) && s.peersDone who scope

/-- The memory instructions of S (R141). -/
def memInstr (i : Instr) : Bool :=
  match i with
  | .ld .. | .st .. | .atom .. | .cas .. | .tdef .. => true
  | _ => false

/-- A peer store that has not left (R412). -/
def Unfinished.peerStore (u : Unfinished) : Bool :=
  match u.finish with
  | .peerStore => true
  | _ => false

/-- An unfinished entry that reads or writes memory; one whose trap is decided has done neither (R142). -/
def Unfinished.memory (u : Unfinished) : Bool :=
  match u.finish with
  | .load _ | .store | .atomic _ | .tdef _ => true
  | _ => u.trap.isSome && memInstr u.instr

/-- An unfinished entry that reads. -/
def Unfinished.reads (u : Unfinished) : Bool :=
  match u.finish with
  | .load _ | .atomic _ | .tdef _ => true
  | _ => u.trap.isSome && (match u.instr with | .ld .. | .atom .. | .cas .. | .tdef .. => true | _ => false)

/-- An unfinished entry that writes memory. -/
def Unfinished.writes (u : Unfinished) : Bool :=
  match u.finish with
  | .store | .atomic _ => true
  | _ => u.trap.isSome && (match u.instr with | .st .. | .atom .. | .cas .. => true | _ => false)

/-- The operation of an atomic and its qualifiers: `ord`, scope, engine operation (R154, R155). -/
def atomicParts (i : Instr) : BitVec 2 × Nat × Nat :=
  match i with
  | .atom sc o _ _ _ f => (o, sc.toNat, f.toNat)
  | .cas sc o _ _ _ _ => (o, sc.toNat, 31)
  | _ => (0, 0, 0)

/-- An unfinished REL fence (R168), or an atomic not sent yet whose REL or AR acts as one before it (R96). -/
def Unfinished.relFence (u : Unfinished) : Bool :=
  match u.finish with
  | .fence _ 0 => true
  | .atomic _ => !u.sent && 2 ≤ (atomicParts u.instr).1.toNat && (atomicParts u.instr).2.1 ≠ 0
  | _ => false

/-- An earlier peer store to a module within the scope has not left (R77). -/
def State.peersQueued (s : State) (c : Nat) (older : List Unfinished) (scope : Nat) : Bool :=
  6 ≤ scope && older.any fun u => match u.finish with | .peerStore => s.counted c scope u.pa | _ => false

/-- Earlier peer stores to modules within the scope have left and are acknowledged or lost (R77). -/
def State.peersSettled (s : State) (c : Nat) (ag : Agent) (older : List Unfinished) (scope : Nat) : Bool :=
  !s.peersQueued c older scope && s.peersDone (c, ag) scope

/-- Earlier accesses are complete and performed at the scope (R88, R89). -/
def State.released (s : State) (c : Nat) (ag : Agent) (older : List Unfinished) (scope : Nat) : Bool :=
  scope = 0 || (!older.any (·.memory) && !s.peersQueued c older scope && s.performedAt (c, ag) scope)

/-- An ACQ at the scope may complete: the earlier reads are complete, and the condition on peer stores holds (R77, R88). -/
def State.acquired (s : State) (c : Nat) (ag : Agent) (older : List Unfinished) (scope : Nat) : Bool :=
  scope = 0 || (!older.any (·.reads) && s.peersSettled c ag older scope)

/-! ### Who may move -/

/-- The debugger keeps an agent from moving (R431, R433). -/
def Cell.debugHolds (x : Cell) (ag : Agent) : Bool :=
  x.dbg.holds && (match ag with | .stream st => x.dbg.stepping ≠ some st | .wicket _ => true)

/-- The stop of R301 has captured S and the wickets. -/
def Cell.captured (x : Cell) : Bool := x.res.stop.any fun p => p.mDone

/-- AN AGENT MAY MOVE: its cell is not halted, fenced or stopped by the debugger, its image is ACTIVE, and the
stop of R301 has not captured it. -/
def State.mayRun (s : State) (c : Nat) (ag : Agent) : Bool :=
  let x := s.cell c
  decide (c < Config.cells) && !s.dev.halted && !x.res.fenced && !x.debugHolds ag && !(ag = .stream .m && s.hard c) &&
  match ag with
  | .stream .s => x.res.image = .active && !x.s.ended && !x.captured
  | .stream _ => x.res.image = .active
  | .wicket w => (x.wicket w).running && x.res.image ≠ .saving && x.res.image ≠ .restoring && !x.captured

/-- The instruction at an engine's head, when it is one. -/
def Cell.headInstr (x : Cell) (st : Stream) : Option Instr :=
  match x.head st with
  | none => none
  | some h => match decode st h.word h.ext with
    | .instr i => some i
    | .reject _ => none

/-! ### Issue -/

/-- What an S instruction needs at issue: predicate, registers read and written, privileges. Register 0 stands
for none. -/
structure Form where
  q : BitVec 4 := 0
  a : BitVec 5 := 0
  b : BitVec 5 := 0
  d : BitVec 5 := 0
  imm : Option DWord := none
  dest : BitVec 5 := 0
  dest2 : BitVec 5 := 0
  /-- issues only when no earlier instruction is unfinished (R139) -/
  alone : Bool := false
  /-- raises PRIV in USER mode -/
  super : Bool := false
  /-- a wicket may execute it (R144) -/
  wicket : Bool := true
  /-- its own operation tests for ILLEGAL or PRIV (R112) -/
  tests : Bool := false
  deriving DecidableEq, Repr

/-- How an instruction ends its issue. -/
inductive Fin where
  /-- finished, with the address at which issue goes on when it jumps -/
  | done (s : State) (jump : Option DWord)
  /-- stays unfinished -/
  | pend (s : State) (u : Unfinished)
  /-- waits and holds later issue: the bound and what BOUND reports -/
  | hold (s : State) (u : Unfinished) (bound : Option Nat) (info : DWord)
  | trap (t : TrapInfo) (u : Unfinished)
  /-- a trap after effects that stay -/
  | trapAfter (s : State) (t : TrapInfo) (u : Unfinished)
  | stall

/-- The word of an instruction. -/
def wordOf (i : Instr) : Word := (encode i).headD 0

/-- The information of an ILLEGAL or PRIV trap (R306). -/
def wordInfo (w : Word) (detail : Nat) : DWord := BitVec.ofNat 64 (w.toNat + 2 ^ 32 * detail)

/-- Most unfinished instructions of an agent (R140, R144). -/
def maxUnfinished (ag : Agent) : Nat :=
  match ag with
  | .wicket _ => 4
  | .stream _ => Config.maxUnfinished

/-- A wicket's restrictions on register fields and predicates (R144). -/
def wicketForm (f : Form) : Bool :=
  f.wicket && f.q = 0 && [f.a, f.b, f.d, f.dest, f.dest2].all fun r => r.toNat < 16

/-- The predicate of a stage-predicate field holds (R112). -/
def predHolds (preds : BitVec 8) (q : BitVec 4) : Bool := !q.msb || preds.getLsbD (bitsAt q.toNat 0 3)

/-- The oldest unfinished instruction has a trap to take (R142). -/
def Issue.mustTrap (i : Issue) : Bool :=
  match i.unfinished with
  | u :: _ => u.trap.isSome
  | [] => false

/-- A decided trap that keeps others from issuing: the oldest instruction's, unless it is a memory instruction, or a
branch's. Behind a memory instruction issue goes on until its trap is taken, as in the example of chapter 6
(DEDUCED, notes/assumptions/39). -/
def Issue.blocked (i : Issue) : Bool :=
  (match i.unfinished with | u :: _ => u.trap.isSome && !memInstr u.instr | [] => false) ||
    i.unfinished.any fun u => u.trap.isSome && isBranch u.instr

/-- An acquire holds the next instruction: it comes behind the replay queue and waits for the unfinished reads (R89, R142). -/
def Issue.acquires (i : Issue) : Bool := i.acquire && i.replay.isEmpty && i.unfinished.any (·.reads)

/-- The scoreboard of R139: a source or destination register is still to be written. -/
def Issue.hazard (i : Issue) (f : Form) (captured : Bool) : Bool :=
  let rs := [f.dest, f.dest2] ++ (if captured then [] else [f.a, f.b, f.d])
  i.unfinished.any fun u => u.dest ≠ 0 && rs.contains u.dest

/-- A finished or predicated-off S or wicket instruction is charged (R315). -/
def Cell.chargeScalar (x : Cell) : Cell := x.charge x.weights.scalar.toNat

/-- Replaces the youngest unfinished entry. -/
def Issue.setLast (i : Issue) (u : Unfinished) : Issue := { i with unfinished := i.unfinished.dropLast ++ [u] }

/-- The youngest unfinished entry of an agent traps: at once when nothing older is unfinished; a memory
instruction, whose checks take their time, by `TRAP_TAKE` (R141, R142). -/
def State.concludeTrap (s : State) (c : Nat) (ag : Agent) (t : TrapInfo) (u : Unfinished) : State :=
  let s := s.modIssue c ag fun i => { (i.setLast { u with trap := some t }) with wait := none }
  if memInstr u.instr then s else s.trapTake c ag

/-- Ends the issue of the youngest unfinished entry of an agent. -/
def State.conclude (s : State) (c : Nat) (ag : Agent) (r : Fin) : State :=
  match r with
  | .stall => s.stall
  | .done s jump => s.modCell c fun x => (x.modIssue ag fun i =>
      { i with unfinished := i.unfinished.dropLast, wait := none, pc := jump.getD i.pc }).chargeScalar
  | .pend s u => s.modIssue c ag fun i => { (i.setLast u) with wait := none }
  | .hold s u bound info =>
    (s.modIssue c ag fun i => { (i.setLast u) with
      wait := some (match i.wait with | some w => w | none => { since := s.cycle, bound := bound, info := info }) }).stall
  | .trap t u => s.concludeTrap c ag t u
  | .trapAfter s t u => s.concludeTrap c ag t u

/-- The effective address of a memory instruction with base `a`; 0 for another one (R142, R305). -/
def memAddr (i : Instr) (a : DWord) : DWord :=
  match i with
  | .ld z _ _ _ o | .st z _ _ _ o => BitVec.ofInt 64 (a.toNat + o.toInt * 2 ^ (z.toNat % 4))
  | .atom .. | .cas .. | .tdef .. | .qput .. | .estart .. | .launch .. | .migrStart .. => a
  | .gctlOpen _ _ _ l => if l = 1 then a else 0
  | _ => 0

/-- The entry of an instruction about to issue, with its operands captured (R142). -/
def newEntry (x : Cell) (ag : Agent) (i : Instr) (f : Form) (pc : DWord) (now : Nat) : Unfinished :=
  { instr := i, word := wordOf i, pc := pc, opa := x.reg ag f.a.toNat
    opb := f.imm.getD (x.reg ag f.b.toNat), opd := x.reg ag f.d.toNat, ea := memAddr i (x.reg ag f.a.toNat), dest := f.dest, since := now }

/-- The state with an entry issued: behind the unfinished ones, its address passed, or its replay entry taken. -/
def State.issued (s : State) (c : Nat) (ag : Agent) (u : Unfinished) (replayed : Bool) : State :=
  s.modIssue c ag fun i =>
    if replayed then { i with unfinished := i.unfinished ++ [u], replay := i.replay.drop 1 }
    else { i with unfinished := i.unfinished ++ [u], pc := i.pc + 4, acquire := false }

/-- An operation on a register that holds an uncorrectable error raises UNCORR (R425). -/
def State.regUncorr (s : State) (c : Nat) (ag : Agent) (f : Form) : Bool :=
  !s.mem.uncorr.isEmpty && ag = .stream .s && [f.a, f.b, f.d].any fun r => r ≠ 0 && s.mem.uncorr.contains (.scalarReg c r.toNat)

/-- A trap of an instruction some of whose registers hold an uncorrectable error: UNCORR, unless its own trap comes
first in the order of R131. -/
def uncorrFirst (t : TrapInfo) : TrapInfo := if causeRank t.cause < causeRank cUNCORR then t else ⟨cUNCORR, 0⟩

/-- The end of issue of an instruction some of whose registers hold an uncorrectable error (R131, R425). -/
def Fin.uncorr (r : Fin) (u : Unfinished) : Fin :=
  match r with
  | .trap t u => .trap (uncorrFirst t) u
  | _ => .trap ⟨cUNCORR, 0⟩ u

/-- A trap that a false predicate does not keep away (R112). -/
def Fin.tested (r : Fin) : Bool :=
  match r with
  | .trap t _ => t.cause = cILLEGAL || t.cause = cPRIV
  | _ => false

/-- A new or re-injected instruction: the tests of R110, R112, R114 and R144, then its own operation. A re-injected one has
passed its predicate (R142). -/
def State.runEntry (s : State) (c : Nat) (ag : Agent) (i : Instr) (f : Form) (replayed : Option Unfinished)
    (body : Unfinished → State → Fin) : State :=
  let x := s.cell c
  let iss := x.issue ag
  let isW := ag ≠ .stream .s
  let illegal := !i.wellFormed || (isW && !wicketForm f)
  let priv := f.super && !(s.whoOf c ag).super
  let u := match replayed with
    | some r => { r with trap := none, sent := false, value := none, got := [], finish := .again, dest := f.dest, since := s.cycle }
    | none => newEntry x ag i f iss.pc s.cycle
  let s1 := s.issued c ag u replayed.isSome
  let off := replayed.isNone && !predHolds x.s.preds f.q
  if !illegal && !priv && off && !(f.tests && (body u s1).tested) then
    s.modCell c fun x => (x.modIssue ag fun i => { i with pc := i.pc + 4, acquire := false }).chargeScalar
  else if iss.unfinished.length ≥ maxUnfinished ag || (f.alone && !iss.unfinished.isEmpty) || iss.hazard f replayed.isSome then s.stall
  else if illegal then s1.conclude c ag (.trap ⟨cILLEGAL, wordInfo u.word 0⟩ u)
  else if priv then s1.conclude c ag (.trap ⟨cPRIV, wordInfo u.word 0⟩ u)
  else match body u s1 with
    | .stall => s.stall
    | r => s1.conclude c ag (if s.regUncorr c ag f then r.uncorr u else r)

/-- THE ISSUE of an S or wicket instruction `i` at the focus (R139): a waiting instruction tests again, a
replay entry goes before the next address, and nothing issues behind a wait. -/
def State.sIssue (s : State) (i : Instr) (f : Form) (body : Nat → Agent → Unfinished → State → Fin) : State :=
  let c := s.focus.1
  let ag := s.focus.2
  let iss := (s.cell c).issue ag
  if iss.blocked || iss.acquires then s.stall
  else if iss.wait.isSome then
    match iss.unfinished.getLast? with
    | some u => if u.instr = i && u.trap.isNone then s.conclude c ag (body c ag u s) else s.stall
    | none => s.stall
  else match iss.replay with
    | r :: _ => if r.instr = i then s.runEntry c ag i f (some r) (body c ag) else s.stall
    | [] => s.runEntry c ag i f none (body c ag)

/-- An instruction that only writes a register (R140). -/
def State.sWrite (s : State) (i : Instr) (f : Form) (val : Unfinished → DWord) : State :=
  s.sIssue i f fun c ag u s => .done (s.setReg c ag f.dest (val u)) none

/-! ### Finishing -/

/-- Takes entry `k` out of an agent's unfinished ones, finished (R140). -/
def State.finish (s : State) (c : Nat) (ag : Agent) (k : Nat) : State :=
  s.modCell c fun x => (x.modIssue ag fun i => { i with unfinished := i.unfinished.eraseIdx k }).chargeScalar

/-- Marks entry `k` with a trap, to be taken when it is the oldest (R142). -/
def State.markTrap (s : State) (c : Nat) (ag : Agent) (k : Nat) (t : TrapInfo) : State :=
  s.modIssue c ag fun i => { i with unfinished := modAt i.unfinished k fun u => { u with trap := some t } , wait := if k + 1 = i.unfinished.length then none else i.wait }

/-- The value of a load of field `sz` from its bytes (R152). -/
def loadValue (sz : Nat) (v : Nat) : DWord :=
  if 4 ≤ sz then BitVec.ofInt 64 (sextNat (8 * 2 ^ (sz % 4)) v) else BitVec.ofNat 64 v

/-- An earlier unfinished access of the agent overlaps this one, or may: a trapped one's place is open (R82, R84). -/
def blockedBy (older : List Unfinished) (u : Unfinished) : Bool :=
  older.any fun v => v.memory && (v.trap.isSome || overlaps v.pa v.size u.pa u.size)

/-- A claim of the tile that an own-scratchpad access names has not taken effect (R153, R167). -/
def claimPending (older : List Unfinished) (u : Unfinished) : Bool :=
  u.own && older.any fun v => match v.finish with | .claim t => t = (u.pa - windowBase) % 2 ^ 24 / 0x4000 | _ => false

/-- The bytes an access reads now: `none` while a shutter, or a begun command that uses the registers, keeps it waiting;
after the limit of R21 they read poisoned and an event is written. -/
def State.portRead (s : State) (c : Nat) (ag : Agent) (pa n since : Nat) : Option (State × Data) :=
  if foreignPad c pa && !s.portOpen (c, ag) pa then
    if since + portLimit ≤ s.cycle then
      match place pa with
      | .window k off =>
        some ((s.limitReached c k off).unbar (c, ag) k, ⟨List.replicate n 0, some (0, false)⟩)
      | _ => none
    else none
  else if !s.regSettled pa then none
  else some (s, s.readPa (dieOf c) pa n)

/-- Performs a store to the address of a translation: at once, or waiting at the target's copy-engine port (R21); `pc` is the
address of an `ST`. -/
def State.performStore (s : State) (c : Nat) (ag : Agent) (va pa : Nat) (bs : List Byte) (pc : Option DWord := none) : State :=
  let via : AccessOrigin := { ctx := (s.whoOf c ag).ctx, va := va, pc := pc }
  let s := s.chargeBytes c pa bs.length
  if foreignPad c pa && !s.portOpen (c, ag) pa then
    match place pa with
    | .window k off => (s.bar (c, ag) pa).modCell k fun x => { x with winWaits := x.winWaits ++
        [{ agent := (c, ag), off := off, size := bs.length, wr := some bs, since := s.cycle, via := some via }] }
    | _ => s
  else s.writePa (dieOf c) (c, ag) pa bs (via := some via)

/-- Sends an atomic to its home engine with the requester's clock (R93, R94). -/
def State.sendAtomic (s : State) (c : Nat) (ag : Agent) (u : Unfinished) (op : Nat) : State × Unfinished :=
  let d := dieOf c
  let r : AtomicReq :=
    { id := s.mem.nextSeq, cell := c, agent := ag, ctx := (s.whoOf c ag).ctx, die := d, pa := u.pa, width := u.size, op := op, b := u.opb
      cmp := u.opd, clock := s.mem.clocks.getD d [], since := s.cycle }
  let s := { s with mem := { s.mem with nextSeq := s.mem.nextSeq + 1 } }
  (s.modQuad (homeQuad r.pa) fun q => { q with requests := q.requests ++ [r] }, { u with sent := true, finish := .atomic r.id })

/-- An agent's place among those of its cell in one cycle: S, the wickets, V, M, C (R36, R99; the place of the wickets is a
DESIGN CHOICE, notes/assumptions/106). -/
def agentPlace (ag : Agent) : Nat :=
  match ag with
  | .stream .s => 0
  | .wicket w => 1 + w
  | .stream .v => 4
  | .stream .m => 5
  | .stream .c => 6

/-- An arrival is sent to the barrier unit. Those of one cycle are in ascending order of cells, and within a cell in the order of
a cycle (R366). -/
def State.sendArrival (s : State) (c : Nat) (ag : Agent) (ctx : BitVec 16) (barrier : Nat) (bytes : DWord) : State :=
  let first := s.disp.arrivals.takeWhile fun b => b.sent < s.cycle || 8 * b.cell + agentPlace b.agent ≤ 8 * c + agentPlace ag
  { s with disp := { s.disp with arrivals := first ++ ⟨c, ag, ctx, barrier, bytes, s.cycle⟩ :: s.disp.arrivals.drop first.length } }

/-- Entries of the stores class that wait at other units (R163). -/
def State.storesOut (s : State) (who : Nat × Agent) : Nat :=
  (s.cells.flatMap fun x => (x.winWaits ++ x.winRegs).filter fun a => a.agent = who && a.wr.isSome).length +
  (s.mem.pend.filter fun w => w.agent = who && w.dst = dieOf who.1).length +
  (s.disp.arrivals.filter fun a => (a.cell, a.agent) = who).length

/-- The stores class of an agent with the earlier entries `older`: a store to the cell's own scratchpad is a tile
operation and does not count (R163). -/
def State.storesClass (s : State) (who : Nat × Agent) (older : List Unfinished) : Nat :=
  (older.filter fun u => (match u.finish with | .store | .atomic _ | .arrive .. => true | _ => false) && !u.own).length + s.storesOut who

/-- The effective address of a memory entry: a handler's `EA` when it changed it, else the address of the
captured base (R305). -/
def effAddr (u : Unfinished) (disp : Int) : Int :=
  let ea : Int := u.opa.toNat + disp
  if u.replayed && u.ea ≠ BitVec.ofInt 64 ea then (u.ea.toNat : Int) else ea

/-- A trap entry's operand: the entry with its address (R142). -/
def Unfinished.at (u : Unfinished) (ea : Int) : Unfinished := { u with ea := BitVec.ofInt 64 ea }

/-- The address lies in the agent's own cell's scratchpad. -/
def ownPad (c pa : Nat) : Bool :=
  match place pa with
  | .window k off => k = c && off < 0x200000
  | _ => false

/-- The unfinished entries before the one that is issuing. -/
def State.olderOf (s : State) (c : Nat) (ag : Agent) : List Unfinished := ((s.cell c).issue ag).unfinished.dropLast

end Sys2Proof.Machine
end

