-- ==== Sys2Proof/Machine/Operands.lean ====
section
/-! DEFINITION. Tensor descriptors (R124 to R127) and where their elements, planes, guard bits and scales lie
(R48, R59, R67, R71, R126). -/

namespace Sys2Proof.Machine

/-- A tensor descriptor's fields (R124). `base`, `p1base`, `gbase` and `sbase` are the addresses used. -/
structure Desc where
  base : Nat
  fmt : Nat
  rank : Nat
  blk : Nat
  tol : Bool
  cbank : Nat
  p1base : Nat
  planes : Nat
  grd : Bool
  gbase : Nat
  uses : Nat
  sbase : Nat
  sblk : Nat
  dims : List Nat
  pitches : List Nat
  deriving DecidableEq, Repr

/-- `n` bits of a descriptor from bit `bit_` of byte `byte`. -/
def descField (d : BitVec 512) (byte bit_ n : Nat) : Nat := bitsAt d.toNat (8 * byte + bit_) n

/-- `sext`(field, 52) as an address (R124). -/
def sext52 (x : Nat) : Nat := (sextNat 52 x % 2 ^ 64).toNat

/-- Reads a descriptor (R124). `pitches` begins with dimension 0's pitch of 1. -/
def descOf (d : BitVec 512) : Desc :=
  let f := descField d
  { base := sext52 (f 0 0 52), fmt := f 0 52 4, rank := f 0 56 2 + 1, blk := f 0 58 2, tol := f 0 60 1 = 1, cbank := f 0 61 1
    p1base := sext52 (f 8 0 52), planes := f 8 52 2, grd := f 8 54 1 = 1
    gbase := sext52 (f 16 0 52), uses := f 16 52 12, sbase := sext52 (f 24 0 52), sblk := f 24 52 6
    dims := (List.range 4).map fun k => f (32 + 4 * k) 0 32
    pitches := 1 :: (List.range 3).map fun k => f (48 + 4 * k) 0 32 }

/-- Dimension `k`. -/
def Desc.dim (d : Desc) (k : Nat) : Nat := d.dims.getD k 1

/-- Pitch `k`. -/
def Desc.pitch (d : Desc) (k : Nat) : Nat := d.pitches.getD k 0

/-- The descriptor permits a use (R125). -/
def Desc.may (d : Desc) (use : Nat) : Bool := d.uses.testBit use

/-- Widths in bits of plane 0 and plane 1 (R67, R126); an unplaned format has one plane of its own width. -/
def planeWidths (f : Nat) : Nat × Nat :=
  if isPlaned f then (fmtWidth (fullFmt f) - plane1Bits f, plane1Bits f) else (fmtWidth f, 0)

/-- Bytes of a plane-0 (and plane-1) part of a plane block (R67). -/
def planeBlockBytes (f : Nat) : Nat := if f = 12 then 512 else if f = 11 then 256 else 128

/-- The value planes present: base address and width in bits (R127). -/
def Desc.values (d : Desc) : List (Nat × Nat) :=
  let (w0, w1) := planeWidths d.fmt
  (d.base, w0) :: (if isPlaned d.fmt ∧ d.planes = 2 then [(d.p1base, w1)] else [])

/-- The greatest linear position (R126). -/
def Desc.lastPos (d : Desc) : Nat := ((List.range 4).map fun k => (d.dim k - 1) * d.pitch k).foldl (· + ·) 0

/-- The arrays whose extents R127's check 11 tests: address and bytes. -/
def Desc.arrays (d : Desc) : List (Nat × Nat) :=
  let n := d.lastPos
  (if d.blk = 0 then d.values.map (fun (b, w) => (b, ((n + 1) * w + 7) / 8)) ++ (if d.grd then [(d.gbase, n / 8 + 1)] else [])
   else if d.blk = 3 then [(d.base, n / 4 + 1)]
   else [(d.base, 32)]) ++
  (if d.sblk = 0 then [] else [(d.sbase, d.dim 1 * d.dim 2 * d.dim 3 * ((d.dim 0 + 31) / 32))])

/-- The first failing check of R127, or 0. Check 8 tests `BASE` of a compressed tensor too (DEDUCED,
notes/assumptions/22). -/
def tdefCheck (x : BitVec 512) : Nat :=
  let d := descOf x
  let f := descField x
  let pl := isPlaned d.fmt
  let bb := planeBlockBytes d.fmt
  let mat := d.may 2 || d.may 3 || d.may 4
  let inRank := fun (k : Nat) => k < d.rank
  if f 0 62 2 ≠ 0 ∨ f 8 55 9 ≠ 0 ∨ bitsAt d.uses 9 3 ≠ 0 ∨ f 24 58 6 ≠ 0 ∨ f 60 0 32 ≠ 0 ∨ 14 ≤ d.fmt then 1
  else if d.planes = 0 ∨ d.planes = 3 ∨ (d.planes = 2 ∧ !pl) ∨ (!pl ∧ (d.grd ∨ d.tol)) ∨ (d.tol ∧ d.planes = 1) then 2
  else if (d.p1base ≠ 0 ∧ d.planes = 1) ∨ (d.gbase ≠ 0 ∧ !d.grd) then 3
  else if (List.range 4).any (fun k => if inRank k then d.dim k = 0 else d.dim k ≠ 1 || d.pitch k ≠ 0) then 4
  else if (d.sblk ≠ 0 ∧ d.sblk ≠ 32) ∨ (d.sblk ≠ 0 ∧ !([3, 4, 7, 9].contains d.fmt)) ∨ (d.sblk = 0 ∧ d.sbase ≠ 0) then 5
  else if pl ∧ ((d.blk = 0 ∧ d.base % bb ≠ 0) ∨ (d.planes = 2 ∧ (d.p1base % bb ≠ 0 ∨ (d.blk = 0 ∧ d.p1base % 4096 ≠ d.base % 4096))) ∨
      (d.grd ∧ d.gbase % 32 ≠ 0)) then 6
  else if (d.may 1 ∨ d.may 4 ∨ d.may 8) ∧ d.blk = 0 ∧
      ((2 ≤ d.rank ∧ d.pitch 1 < d.dim 0) ∨ (3 ≤ d.rank ∧ d.pitch 2 < d.dim 1 * d.pitch 1) ∨
       (4 ≤ d.rank ∧ d.pitch 3 < d.dim 2 * d.pitch 2)) then 7
  else if mat ∧ d.values.any (fun (b, w) => b % 32 ≠ 0 || [1, 2, 3].any fun k => inRank k && d.pitch k * w % 256 ≠ 0) then 8
  else if (d.blk = 1 ∨ d.blk = 2) ∧ (d.rank ≠ 2 ∨ [1, 2, 3].any (fun k => d.pitch k ≠ 0) ∨ d.sblk ≠ 0) then 9
  else if d.blk = 3 ∧ ((d.fmt ≠ 1 ∧ d.fmt ≠ 2) ∨ d.rank ≠ 2 ∨ d.dim 0 % 4 ≠ 0 ∨ d.pitch 1 % 4 ≠ 0 ∨ d.uses ≠ 1) then 10
  else if d.arrays.any (fun (b, n) => (if b < 2 ^ 51 then 2 ^ 51 else 2 ^ 64) < b + n) then 11
  else 0

end Sys2Proof.Machine
end

