-- ==== Sys2Proof/Machine/Flags.lean ====
section
/-! DEFINITION. Conditions and predicate bits: the comparisons of `SETC` and `BR` (R149, R158), the shift of
S's stage predicates by `LOOPS` (R161), writes of one predicate. -/

namespace Sys2Proof.Machine

/-- The conditions of `SETC` (R149) on `n`-bit values. -/
def setcCond {n : Nat} (cond : Nat) (a b : BitVec n) : Bool :=
  match cond with
  | 0 => a.slt b
  | 1 => a.ult b
  | 2 => a = b
  | 3 => a ≠ b
  | 4 => !a.slt b
  | _ => !a.ult b

/-- The conditions of `BR` (R158). -/
def brCond (cond : Nat) (a b : DWord) : Bool :=
  match cond with
  | 0 => a = b
  | 1 => a ≠ b
  | 2 => a.slt b
  | 3 => !a.slt b
  | 4 => a.ult b
  | _ => !a.ult b

/-- `SETC`'s result for the field `fn` (R149). -/
def setcResult (f : BitVec 6) (a b : DWord) : Bool :=
  let cond := bitsAt f.toNat 0 3
  if f.getLsbD 4 then setcCond cond (a.setWidth 32) (b.setWidth 32) else setcCond cond a b

/-- A predicate set with one bit replaced. -/
def setPred (p : BitVec 8) (n : Nat) (c : Bool) : BitVec 8 :=
  if c then p ||| (1#8 <<< n) else p &&& ~~~(1#8 <<< n)

/-- "Shift in c" of R161: q7 := q6, …, q1 := q0, q0 := c. -/
def shiftIn (p : BitVec 8) (c : Bool) : BitVec 8 := (p <<< 1) ||| (if c then 1 else 0)

end Sys2Proof.Machine
end

