-- ==== Sys2Proof/Machine/Scalar.lean ====
section
/-! DEFINITION. The integer instructions of S and of the wickets (R145 to R151). -/

namespace Sys2Proof.Machine

/-- The low word of a register. -/
def lowW (a : DWord) : Word := a.setWidth 32

/-- An unsigned value clamped to a width. -/
def clampNat (n : Nat) (x : Int) : DWord := BitVec.ofInt 64 (clampInt 0 ((2 : Int) ^ n - 1) x)

/-- `ADD` and `SUB`; `o` is +1 or −1 (R146). -/
def addVal (o : Int) (fn : Nat) (a b : DWord) : DWord :=
  match fn with
  | 0 => BitVec.ofInt 64 (a.toNat + o * b.toNat)
  | 1 => (BitVec.ofInt 32 ((lowW a).toNat + o * (lowW b).toNat)).signExtend 64
  | 2 => BitVec.ofInt 64 (clampInt (-(2 : Int) ^ 63) ((2 : Int) ^ 63 - 1) (a.toInt + o * b.toInt))
  | 3 => BitVec.ofInt 64 (satInt32 ((lowW a).toInt + o * (lowW b).toInt))
  | 4 => clampNat 64 (a.toNat + o * b.toNat)
  | _ => clampNat 32 ((lowW a).toNat + o * (lowW b).toNat)

/-- `MUL` (R147). -/
def mulVal (fn : Nat) (a b : DWord) : DWord :=
  if fn = 0 then a * b else (lowW a * lowW b).signExtend 64

/-- `MULH` (R147). -/
def mulhVal (fn : Nat) (a b : DWord) : DWord :=
  match fn with
  | 0 => BitVec.ofInt 64 (a.toInt * b.toInt / 2 ^ 64)
  | 1 => BitVec.ofNat 64 (a.toNat * b.toNat / 2 ^ 64)
  | _ => BitVec.ofInt 64 (a.toInt * b.toNat / 2 ^ 64)

/-- The quotient and remainder of R147: truncated, and −1 and the dividend for a divisor of 0. -/
def divMod (x z : Int) : Int × Int :=
  if z = 0 then (-1, x) else (x.tdiv z, x - z * x.tdiv z)

/-- `DIV` and `REM` (R147). -/
def divVal (isRem : Bool) (fn : Nat) (a b : DWord) : DWord :=
  let pick := fun (p : Int × Int) => if isRem then p.2 else p.1
  match fn with
  | 0 => BitVec.ofInt 64 (pick (divMod a.toInt b.toInt))
  | 1 => BitVec.ofInt 64 (pick (divMod a.toNat b.toNat))
  | 2 => (BitVec.ofInt 32 (pick (divMod (lowW a).toInt (lowW b).toInt))).signExtend 64
  | _ => (BitVec.ofInt 32 (pick (divMod (lowW a).toNat (lowW b).toNat))).setWidth 64

/-- `SHL` (R148). -/
def shlVal (fn : Nat) (a b : DWord) : DWord :=
  if fn = 0 then a <<< (bitsAt b.toNat 0 6) else (lowW a <<< (bitsAt b.toNat 0 5)).signExtend 64

/-- `SHR` (R148). -/
def shrVal (fn : Nat) (a b : DWord) : DWord :=
  if fn = 0 then a >>> (bitsAt b.toNat 0 6) else (lowW a >>> (bitsAt b.toNat 0 5)).setWidth 64

/-- `SRA` (R148). -/
def sraVal (fn : Nat) (a b : DWord) : DWord :=
  if fn = 0 then a.sshiftRight (bitsAt b.toNat 0 6) else ((lowW a).sshiftRight (bitsAt b.toNat 0 5)).signExtend 64

/-- The extended immediate of S-IMM (R145). -/
def imm11 (i : BitVec 11) : DWord := i.signExtend 64

/-- The S-REG form of an integer instruction (R145). -/
def State.aluReg (s : State) (i : Instr) (q : BitVec 4) (d a b : BitVec 5) (val : DWord → DWord → DWord) : State :=
  s.sWrite i { q := q, a := a, b := b, dest := d } fun u => val u.opa u.opb

/-- The S-IMM form: the S-REG form with the extended immediate for `sb` (R145). -/
def State.aluImm (s : State) (i : Instr) (q : BitVec 4) (d a : BitVec 5) (imm : BitVec 11) (val : DWord → DWord → DWord) : State :=
  s.sWrite i { q := q, a := a, imm := some (imm11 imm), dest := d } fun u => val u.opa u.opb

/-- `ADD` (R146). -/
def execAdd (q : BitVec 4) (d a b : BitVec 5) (f : BitVec 6) (s : State) : Host.Outcome State Fault Refusal :=
  .next (s.aluReg (.add q d a b f) q d a b (addVal 1 f.toNat))

/-- `ADD` with an immediate (R145). -/
def execAddImm (q : BitVec 4) (d a : BitVec 5) (i : BitVec 11) (s : State) : Host.Outcome State Fault Refusal :=
  .next (s.aluImm (.addImm q d a i) q d a i (addVal 1 0))

/-- `SUB` (R146). -/
def execSub (q : BitVec 4) (d a b : BitVec 5) (f : BitVec 6) (s : State) : Host.Outcome State Fault Refusal :=
  .next (s.aluReg (.sub q d a b f) q d a b (addVal (-1) f.toNat))

/-- `SUB` with an immediate (R145). -/
def execSubImm (q : BitVec 4) (d a : BitVec 5) (i : BitVec 11) (s : State) : Host.Outcome State Fault Refusal :=
  .next (s.aluImm (.subImm q d a i) q d a i (addVal (-1) 0))

/-- `MUL` (R147). -/
def execMul (q : BitVec 4) (d a b : BitVec 5) (f : BitVec 6) (s : State) : Host.Outcome State Fault Refusal :=
  .next (s.aluReg (.mul q d a b f) q d a b (mulVal f.toNat))

/-- `MUL` with an immediate (R145). -/
def execMulImm (q : BitVec 4) (d a : BitVec 5) (i : BitVec 11) (s : State) : Host.Outcome State Fault Refusal :=
  .next (s.aluImm (.mulImm q d a i) q d a i (mulVal 0))

/-- `MULH` (R147). -/
def execMulh (q : BitVec 4) (d a b : BitVec 5) (f : BitVec 6) (s : State) : Host.Outcome State Fault Refusal :=
  .next (s.aluReg (.mulh q d a b f) q d a b (mulhVal f.toNat))

/-- `MULH` with an immediate (R145). -/
def execMulhImm (q : BitVec 4) (d a : BitVec 5) (i : BitVec 11) (s : State) : Host.Outcome State Fault Refusal :=
  .next (s.aluImm (.mulhImm q d a i) q d a i (mulhVal 0))

/-- `DIV` (R147). -/
def execDiv (q : BitVec 4) (d a b : BitVec 5) (f : BitVec 6) (s : State) : Host.Outcome State Fault Refusal :=
  .next (s.aluReg (.div q d a b f) q d a b (divVal false f.toNat))

/-- `DIV` with an immediate (R145). -/
def execDivImm (q : BitVec 4) (d a : BitVec 5) (i : BitVec 11) (s : State) : Host.Outcome State Fault Refusal :=
  .next (s.aluImm (.divImm q d a i) q d a i (divVal false 0))

/-- `REM` (R147). -/
def execRem (q : BitVec 4) (d a b : BitVec 5) (f : BitVec 6) (s : State) : Host.Outcome State Fault Refusal :=
  .next (s.aluReg (.rem q d a b f) q d a b (divVal true f.toNat))

/-- `REM` with an immediate (R145). -/
def execRemImm (q : BitVec 4) (d a : BitVec 5) (i : BitVec 11) (s : State) : Host.Outcome State Fault Refusal :=
  .next (s.aluImm (.remImm q d a i) q d a i (divVal true 0))

/-- `AND` (R148). -/
def execAnd (q : BitVec 4) (d a b : BitVec 5) (f : BitVec 6) (s : State) : Host.Outcome State Fault Refusal :=
  .next (s.aluReg (.and q d a b f) q d a b fun x y => x &&& y)

/-- `AND` with an immediate (R145). -/
def execAndImm (q : BitVec 4) (d a : BitVec 5) (i : BitVec 11) (s : State) : Host.Outcome State Fault Refusal :=
  .next (s.aluImm (.andImm q d a i) q d a i fun x y => x &&& y)

/-- `OR` (R148). -/
def execOr (q : BitVec 4) (d a b : BitVec 5) (f : BitVec 6) (s : State) : Host.Outcome State Fault Refusal :=
  .next (s.aluReg (.or q d a b f) q d a b fun x y => x ||| y)

/-- `OR` with an immediate (R145). -/
def execOrImm (q : BitVec 4) (d a : BitVec 5) (i : BitVec 11) (s : State) : Host.Outcome State Fault Refusal :=
  .next (s.aluImm (.orImm q d a i) q d a i fun x y => x ||| y)

/-- `XOR` (R148). -/
def execXor (q : BitVec 4) (d a b : BitVec 5) (f : BitVec 6) (s : State) : Host.Outcome State Fault Refusal :=
  .next (s.aluReg (.xor q d a b f) q d a b fun x y => x ^^^ y)

/-- `XOR` with an immediate (R145). -/
def execXorImm (q : BitVec 4) (d a : BitVec 5) (i : BitVec 11) (s : State) : Host.Outcome State Fault Refusal :=
  .next (s.aluImm (.xorImm q d a i) q d a i fun x y => x ^^^ y)

/-- `SHL` (R148). -/
def execShl (q : BitVec 4) (d a b : BitVec 5) (f : BitVec 6) (s : State) : Host.Outcome State Fault Refusal :=
  .next (s.aluReg (.shl q d a b f) q d a b (shlVal f.toNat))

/-- `SHL` with an immediate (R145). -/
def execShlImm (q : BitVec 4) (d a : BitVec 5) (i : BitVec 11) (s : State) : Host.Outcome State Fault Refusal :=
  .next (s.aluImm (.shlImm q d a i) q d a i (shlVal 0))

/-- `SHR` (R148). -/
def execShr (q : BitVec 4) (d a b : BitVec 5) (f : BitVec 6) (s : State) : Host.Outcome State Fault Refusal :=
  .next (s.aluReg (.shr q d a b f) q d a b (shrVal f.toNat))

/-- `SHR` with an immediate (R145). -/
def execShrImm (q : BitVec 4) (d a : BitVec 5) (i : BitVec 11) (s : State) : Host.Outcome State Fault Refusal :=
  .next (s.aluImm (.shrImm q d a i) q d a i (shrVal 0))

/-- `SRA` (R148). -/
def execSra (q : BitVec 4) (d a b : BitVec 5) (f : BitVec 6) (s : State) : Host.Outcome State Fault Refusal :=
  .next (s.aluReg (.sra q d a b f) q d a b (sraVal f.toNat))

/-- `SRA` with an immediate (R145). -/
def execSraImm (q : BitVec 4) (d a : BitVec 5) (i : BitVec 11) (s : State) : Host.Outcome State Fault Refusal :=
  .next (s.aluImm (.sraImm q d a i) q d a i (sraVal 0))

/-- `SETC` (R149): 1 or 0 into `sd`, or with `P` = 1 into the predicate that `sd` names; a wicket has none (R144). -/
def execSetc (q : BitVec 4) (d a b : BitVec 5) (f : BitVec 6) (s : State) : Host.Outcome State Fault Refusal :=
  let p := f.getLsbD 5
  .next (s.sIssue (.setc q d a b f) { q := q, a := a, b := b, dest := if p then 0 else d, wicket := !p } fun c ag u s =>
    let r := setcResult f u.opa u.opb
    if p then .done (s.modCell c fun x => { x with s := { x.s with preds := setPred x.s.preds (bitsAt d.toNat 0 3) r } }) none
    else .done (s.setReg c ag d (BitVec.ofNat 64 (bit r))) none)

/-- `SETC` with an immediate: `.lt` on 64 bits (R149). -/
def execSetcImm (q : BitVec 4) (d a : BitVec 5) (i : BitVec 11) (s : State) : Host.Outcome State Fault Refusal :=
  .next (s.aluImm (.setcImm q d a i) q d a i fun x y => BitVec.ofNat 64 (bit (setcResult 0 x y)))

/-- `SEL` (R150): the condition register is captured as the third operand. -/
def execSel (q : BitVec 4) (d a b : BitVec 5) (z : BitVec 1) (c : BitVec 5) (s : State) : Host.Outcome State Fault Refusal :=
  .next (s.sWrite (.sel q d a b z c) { q := q, a := a, b := b, d := c, dest := d } fun u =>
    if (u.opd ≠ 0) != (z = 1) then u.opa else u.opb)

/-- `LIMM` with `K` = 0 (R151). -/
def execLimm (q : BitVec 4) (d : BitVec 5) (i : BitVec 16) (s : State) : Host.Outcome State Fault Refusal :=
  .next (s.sWrite (.limm q d i) { q := q, dest := d } fun _ => i.signExtend 64)

/-- `LIMM` with `K` = 1, which reads `sd` (R151). -/
def execLimmSh (q : BitVec 4) (d : BitVec 5) (i : BitVec 16) (s : State) : Host.Outcome State Fault Refusal :=
  .next (s.sWrite (.limmSh q d i) { q := q, d := d, dest := d } fun u => (u.opd <<< 16) ||| i.setWidth 64)

end Sys2Proof.Machine
end

