-- ==== Sys2Proof/Machine/ScalarMem.lean ====
section
/-! DEFINITION. Loads, stores, atomics and `TDEF` of S and of the wickets (R152 to R156, R169). -/

namespace Sys2Proof.Machine

/-- The bytes of the `sz` field (R152). -/
def sizeOf (z : BitVec 3) : Nat := 2 ^ (z.toNat % 4)

/-- `LD` (R152): the checks are made at issue, the data returns later (R141). -/
def execLd (z : BitVec 3) (q : BitVec 4) (d a : BitVec 5) (o : BitVec 9) (s : State) : Host.Outcome State Fault Refusal :=
  .next (s.sIssue (.ld z q d a o) { q := q, a := a, dest := d } fun c ag u s =>
    let n := sizeOf z
    let ea := effAddr u (o.toInt * n)
    match s.accessCheck (s.whoOf c ag) ea n n { rd := true } with
    | .trap t => .trap t (u.at ea)
    | .stall => .stall
    | .ok pa => .pend s { (u.at ea) with finish := .load z.toNat, pa := pa, size := n, own := ownPad c pa })

/-- `ST` (R152): it performs at once unless an earlier memory instruction or REL fence is unfinished (R141, R168); at
the stores class's capacity one that counts there does not issue (R163). -/
def execSt (z : BitVec 3) (q : BitVec 4) (d a : BitVec 5) (o : BitVec 9) (s : State) : Host.Outcome State Fault Refusal :=
  .next (s.sIssue (.st z q d a o) { q := q, a := a, d := d } fun c ag u s =>
    let n := sizeOf z
    let ea := effAddr u (o.toInt * n)
    match s.accessCheck (s.whoOf c ag) ea n n { wr := true } with
    | .trap t => .trap t (u.at ea)
    | .stall => .stall
    | .ok pa =>
      if !ownPad c pa && 32 ≤ s.storesClass (c, ag) (s.olderOf c ag) then .stall
      else
        let v := { (u.at ea) with finish := .store, pa := pa, size := n, own := ownPad c pa }
        if ((s.olderOf c ag).any fun v => v.memory || v.relFence) || claimPending (s.olderOf c ag) v then .pend s v
        else .done (s.performStore c ag ea.toNat pa (leBytes n u.opd.toNat) u.pc) none)

/-- Bytes of an atomic's operand (R154). -/
def atomWidth (f : BitVec 5) : Nat := if f = 2 then 4 else if f.toNat < 2 then 4 * (f.toNat + 1) else if f.toNat % 2 = 1 then 4 else 8

/-- An atomic may be sent: no REL fence is unfinished, no earlier access overlaps, and a REL or AR qualifier's
own condition holds (R84, R96, R168). -/
def State.atomicReady (s : State) (c : Nat) (ag : Agent) (older : List Unfinished) (u : Unfinished) (o : BitVec 2) (scope : Nat) : Bool :=
  !older.any (·.relFence) && !(older.any fun v => v.memory && (v.trap.isSome || overlaps v.pa v.size u.pa u.size)) &&
    (o.toNat < 2 || s.released c ag older scope)

/-- The issue of an atomic of `n` bytes and operation `op` (R156): it is sent to its home engine when it may be;
with ACQ or AR, later issue waits for the old value, and as behind an ACQ fence at its scope (R96). At the stores class's
capacity it does not issue (R163). -/
def atomicBody (scope : BitVec 4) (o : BitVec 2) (n op : Nat) (c : Nat) (ag : Agent) (u : Unfinished) (s : State) : Fin :=
  let acq := o.getLsbD 0
  match u.value with
  | some v => if acq && !s.acquired c ag (s.olderOf c ag) scope.toNat then .hold s u none 0 else .done (s.setReg c ag u.dest v) none
  | none =>
    if u.sent then .hold s u none 0 else
    let ea := effAddr u 0
    match s.accessCheck (s.whoOf c ag) ea n n { rd := true, wr := true } with
    | .trap t => .trap t (u.at ea)
    | .stall => .stall
    | .ok pa =>
      match place pa with
      | .window .. => .trap (trapAt cPERM ea.toNat) (u.at ea)
      | _ =>
        if 32 ≤ s.storesClass (c, ag) (s.olderOf c ag) then .stall else
        let u := { (u.at ea) with finish := .atomic 0, pa := pa, size := n }
        let (s, u) := if s.atomicReady c ag (s.olderOf c ag) u o scope.toNat then s.sendAtomic c ag u op else (s, u)
        if acq then .hold s u none 0 else .pend s u

/-- `ATOM` (R154). -/
def execAtom (sc : BitVec 4) (o : BitVec 2) (d a b f : BitVec 5) (s : State) : Host.Outcome State Fault Refusal :=
  .next (s.sIssue (.atom sc o d a b f) { a := a, b := b, dest := d } (atomicBody sc o (atomWidth f) f.toNat))

/-- `CAS` (R155): `sd` holds the expected value. -/
def execCas (sc : BitVec 4) (o : BitVec 2) (d a b f : BitVec 5) (s : State) : Host.Outcome State Fault Refusal :=
  .next (s.sIssue (.cas sc o d a b f) { a := a, b := b, d := d, dest := d } (atomicBody sc o (if f = 0 then 4 else 8) 31))

/-- The checks of a block read of `n` bytes aligned to `n` (R169, R345, R381), as for a load. -/
def State.blockCheck (s : State) (w : Who) (ea : Int) (n : Nat) : Acc Nat := s.accessCheck w ea n n { rd := true }

/-- `TDEF` (R169): the checks at issue; the entry is replaced when the data has returned. -/
def execTdef (q : BitVec 4) (a : BitVec 5) (t : BitVec 8) (s : State) : Host.Outcome State Fault Refusal :=
  .next (s.sIssue (.tdef q a t) { q := q, a := a, wicket := false } fun c ag u s =>
    let ea := effAddr u 0
    match s.blockCheck (s.whoOf c ag) ea 64 with
    | .trap t => .trap t (u.at ea)
    | .stall => .stall
    | .ok pa => .pend s { (u.at ea) with finish := .tdef t.toNat, pa := pa, size := 64, own := ownPad c pa })

/-- The new value of an `ATOM` operation on `8w`-bit values (R154). -/
def atomNew (op w : Nat) (old b : Nat) : Nat :=
  let m := 2 ^ (8 * w)
  let sg := sextNat (8 * w)
  match op with
  | 0 | 1 => (old + b) % m
  | 2 => rne 0 ((fmtValue 0 old).add (fmtValue 0 b))
  | 3 | 4 => if sg b < sg old then b else old
  | 5 | 6 => min old b
  | 7 | 8 => if sg old < sg b then b else old
  | 9 | 10 => max old b
  | 11 | 12 => old &&& b
  | 13 | 14 => old ||| b
  | 15 | 16 => old ^^^ b
  | _ => b

end Sys2Proof.Machine
end

