-- ==== Sys2Proof/Machine/Flow.lean ====
section
/-! DEFINITION. Branches, jumps and the counted loop of S and of the wickets (R157 to R162). -/

namespace Sys2Proof.Machine

/-- The test of a taken target (R157): RANGE outside 0 to 2^64 − 1, then NONCANON. -/
def targetCheck (t : Int) : Option TrapInfo :=
  if t < 0 ∨ (2 ^ 64 : Int) ≤ t then some ⟨cRANGE, BitVec.ofInt 64 t⟩
  else if canonical t.toNat then none else some ⟨cNONCANON, BitVec.ofInt 64 t⟩

/-- The target of a branch at `pc`: PC + 4 × `sext`(off) (R157). -/
def targetOf {n : Nat} (pc : DWord) (o : BitVec n) : Int := pc.toNat + 4 * o.toInt

/-- A jump to `t` from an entry: the trap, or `fin` on the state at the target. -/
def jumpTo (t : Int) (u : Unfinished) (s : State) : Fin :=
  match targetCheck t with
  | some e => .trap e u
  | none => .done s (some (BitVec.ofInt 64 t))

/-- `BR` (R158). -/
def execBr (c : BitVec 3) (a b : BitVec 5) (o : BitVec 13) (s : State) : Host.Outcome State Fault Refusal :=
  .next (s.sIssue (.br c a b o) { a := a, b := b } fun _ _ u s =>
    if brCond c.toNat u.opa u.opb then jumpTo (targetOf u.pc o) u s else .done s none)

/-- `JMP` (R159). -/
def execJmp (o : BitVec 25) (s : State) : Host.Outcome State Fault Refusal :=
  .next (s.sIssue (.jmp o) {} fun _ _ u s => jumpTo (targetOf u.pc o) u s)

/-- `JMP` with `L` = 1: PC + 4 into `s31` as the jump takes effect (R159). -/
def execJmpL (o : BitVec 25) (s : State) : Host.Outcome State Fault Refusal :=
  .next (s.sIssue (.jmpL o) { dest := 31, wicket := false } fun c ag u s =>
    match jumpTo (targetOf u.pc o) u s with
    | .done s t => .done (s.setReg c ag 31 (u.pc + 4)) t
    | r => r)

/-- A jump to a register's value: NONCANON, then ALIGN (R160). -/
def jumpReg (u : Unfinished) (s : State) : Fin :=
  if canonical u.opa.toNat ∧ u.opa.toNat % 4 ≠ 0 then .trap ⟨cALIGN, u.opa⟩ u else jumpTo u.opa.toNat u s

/-- `JMPI` (R160). -/
def execJmpi (q : BitVec 4) (a : BitVec 5) (s : State) : Host.Outcome State Fault Refusal :=
  .next (s.sIssue (.jmpi q a) { q := q, a := a } fun _ _ u s => jumpReg u s)

/-- `JMPI` with the link: every trap comes before the link write (R160). -/
def execJmpiL (q : BitVec 4) (d a : BitVec 5) (s : State) : Host.Outcome State Fault Refusal :=
  .next (s.sIssue (.jmpiL q d a) { q := q, a := a, dest := d } fun c ag u s =>
    match jumpReg u s with
    | .done s t => .done (s.setReg c ag d (u.pc + 4)) t
    | r => r)

/-- Sets S's predicates. -/
def State.setPreds (s : State) (c : Nat) (p : BitVec 8) : State := s.modCell c fun x => { x with s := { x.s with preds := p } }

/-- `LOOPS` (R161). -/
def execLoops (a b : BitVec 5) (o : BitVec 13) (s : State) : Host.Outcome State Fault Refusal :=
  .next (s.sIssue (.loops a b o) { a := a, b := b, dest := a, dest2 := b, wicket := false } fun c ag u s =>
    let p := (s.cell c).s.preds
    let t := targetOf u.pc o
    if u.opa ≠ 0 then
      jumpTo t u ((s.setReg c ag a (u.opa - 1)).setPreds c (shiftIn p true))
    else if 1 < u.opb then
      jumpTo t u ((s.setReg c ag b (u.opb - 1)).setPreds c (shiftIn p false))
    else
      .done ((s.setReg c ag b 0).setPreds c (shiftIn p false)) none)

/-- `LOOPS` with `cond` = 1: q7 to q0 from `s_a`[7:0] (R162). -/
def execLoopsSet (a : BitVec 5) (s : State) : Host.Outcome State Fault Refusal :=
  .next (s.sIssue (.loopsSet a) { a := a, wicket := false } fun c _ u s => .done (s.setPreds c (field u.opa 0 8)) none)

end Sys2Proof.Machine
end

