-- ==== Sys2Proof/Machine/Waits.lean ====
section
/-! DEFINITION. Dependence counters, tokens, shutters and fences of S and of the wickets (R163 to R168), and the
system registers (R122, R123, R170, R171). -/

namespace Sys2Proof.Machine

/-- The information of a BOUND trap: object kind and number (R306). -/
def boundInfo (kind number : Nat) : DWord := BitVec.ofNat 64 (kind + 4 * number)

/-- An entry of the tile class (R163). -/
def Unfinished.tileClass (u : Unfinished) : Bool :=
  match u.finish with
  | .load _ | .store | .tdef _ => u.own
  | .pass .. | .claim _ => true
  | _ => false

/-- The counts of S's dependence classes: loads, stores, peer stores, tile operations (R163). -/
def State.classCounts (s : State) (c : Nat) (older : List Unfinished) : List Nat :=
  [(older.filter fun u => u.reads && !u.own).length,
   s.storesClass (c, .stream .s) older,
   (older.filter (·.peerStore)).length + s.peerStores c,
   (older.filter (·.tileClass)).length]

/-- `WAITC` (R163). -/
def execWaitc (q b : BitVec 4) (l st : BitVec 5) (cp t : BitVec 4) (s : State) : Host.Outcome State Fault Refusal :=
  .next (s.sIssue (.waitc q b l st cp t) { q := q, super := b = 15, wicket := false } fun c ag u s =>
    let have_ := s.classCounts c (s.olderOf c ag)
    if (have_.zip [l.toNat, st.toNat, cp.toNat, t.toNat]).all fun (h, m) => h ≤ m then .done s none
    else .hold s u ((s.cell c).bound ag b.toNat) (boundInfo 3 4))

/-- The register that a count field names, or 0 (R164). -/
def countReg (n : BitVec 1) (cnt : BitVec 12) : BitVec 5 := if n = 1 then cnt.extractLsb' 0 5 else 0

/-- The count of `TSIG` and `TWAIT` (R164). -/
def countOf (n : BitVec 1) (cnt : BitVec 12) (u : Unfinished) : Nat := if n = 1 then bitsAt u.opa.toNat 0 16 else cnt.toNat

/-- The token and the count that a stream's waiting S instruction or engine head waits for (R36). -/
def Cell.tokenWait (x : Cell) (st : Stream) : Option (Nat × Nat) :=
  match st with
  | .s => match x.s.iss.wait, x.s.iss.unfinished.getLast? with
    | some _, some u => (match u.instr with | .twait _ _ k n cnt => some (k.toNat, countOf n cnt u) | _ => none)
    | _, _ => none
  | st => match x.headInstr st with
    | some (.vtwait _ _ k n) | some (.mtwait _ k n) | some (.ctwait _ k n) => if (x.engine st).waiting then some (k.toNat, n.toNat) else none
    | _ => none

/-- The token on which a stream waits (R36). -/
def Cell.waitsOn (x : Cell) (st : Stream) : Option Nat := (x.tokenWait st).map Prod.fst

/-- A stream before `st` in the order S, V, M, C waits on a token and is served first (R36). -/
def State.tokenTaken (s : State) (c : Nat) (st : Stream) (k : Nat) : Bool :=
  let x := s.cell c
  ([Stream.s, .v, .m, .c].take (streamNumber st)).any fun e =>
    s.mayRun c (.stream e) && (e = .s || (let g := x.engine e; g.started && !g.ended && !g.stopped && !g.quiesced && g.inprog.isEmpty)) &&
      (x.tokenWait e).any fun (j, n) => j = k && n ≤ x.token k

/-- `TSIG` (R165): the addition waits for S's earlier accesses, and does not hold later issue. -/
def execTsig (q : BitVec 4) (k : BitVec 5) (n : BitVec 1) (cnt : BitVec 12) (s : State) : Host.Outcome State Fault Refusal :=
  .next (s.sIssue (.tsig q k n cnt) { q := q, a := countReg n cnt } fun c ag u s =>
    let older := s.olderOf c ag
    if s.released c ag older 3 ∧ !older.any (·.relFence) then
      .done (s.modCell c fun x => x.signal k.toNat (countOf n cnt u)) none
    else .pend s { u with finish := .signal k.toNat (countOf n cnt u) })

/-- `TWAIT` (R166): it subtracts and then acts as an ACQ fence at DIE scope. -/
def execTwait (q b : BitVec 4) (k : BitVec 5) (n : BitVec 1) (cnt : BitVec 12) (s : State) : Host.Outcome State Fault Refusal :=
  .next (s.sIssue (.twait q b k n cnt) { q := q, a := countReg n cnt, super := b = 15, wicket := false } fun c ag u s =>
    let m := countOf n cnt u
    if m ≤ (s.cell c).token k.toNat then
      .done ((s.modCell c fun x => x.consume k.toNat m).modIssue c ag fun i => { i with acquire := true }) none
    else .hold s u ((s.cell c).bound ag b.toNat) (boundInfo 0 k.toNat))

/-- `SHUT` (R167): a pass takes effect once the earlier accesses are complete and performed at CELL scope, a claim
at once, but behind the agent's own earlier pass of the tile and an unfinished REL fence (R168); a wicket has WICKET in
place of S. -/
def execShut (q : BitVec 4) (t : BitVec 7) (code : BitVec 3) (s : State) : Host.Outcome State Fault Refusal :=
  .next (s.sIssue (.shut q t code) { q := q } fun c ag u s =>
    let v := (s.cell c).effShutter ag t.toNat
    let older := s.olderOf c ag
    let held := older.any (·.relFence) || passPending older t.toNat
    let set := s.modCell c fun x => x.setShutter t.toNat code
    if v = agentCode ag then
      if s.released c ag older 1 ∧ !held then .done set none
      else .pend s { u with finish := .pass t.toNat code.toNat }
    else if v = codeFree ∧ code = agentCode ag then
      if held then .pend s { u with finish := .claim t.toNat } else .done set none
    else .trap (shutterInfo t.toNat v) u)

/-- Writes numbered below `n` that die `d`'s view holds and that some die has not applied (R88). -/
def State.undelivered (s : State) (d n : Nat) : Bool :=
  s.mem.pend.any fun w => w.seq < n && (w.src = d || !s.mem.pend.any fun v => v.seq = w.seq && v.dst = d)

/-- `FENCE` (R168, R88). REL does not hold later issue; FULL at PACKAGE scope and wider also waits until every
write in the die's view at the end of its REL part is in all four views. One that has waited on a lost peer store raises
LINKDOWN as it completes (R92). -/
def execFence (q b sc : BitVec 4) (k : BitVec 2) (s : State) : Host.Outcome State Fault Refusal :=
  .next (s.sIssue (.fence q b sc k) { q := q, super := b = 15 } fun c ag u s =>
    let older := s.olderOf c ag
    let scope := sc.toNat
    let bound := (s.cell c).bound ag b.toNat
    let rel := s.released c ag older scope
    let fin : Fin := match u.lost with
      | none => .done s none
      | some port => .trap ⟨cLINKDOWN, BitVec.ofNat 64 port⟩ u
    if scope = 0 then .done s none
    else match k.toNat with
      | 0 => if rel then fin else .pend s { u with finish := .fence scope 0, bound := bound }
      | 1 => if s.acquired c ag older scope then fin else .hold s u bound (boundInfo 3 3)
      | _ =>
        let mark := match u.value with
          | some v => some v
          | none => if rel then some (BitVec.ofNat 64 s.mem.nextSeq) else none
        let u := { u with value := mark }
        match mark with
        | none => .hold s u bound (boundInfo 3 3)
        | some n => if scope ≤ 3 ∨ !s.undelivered (dieOf c) n.toNat then fin else .hold s u bound (boundInfo 3 3))

/-- `MROWP` as `RDSYS` reads it (R224). -/
def MUnit.rowp (m : MUnit) : Nat := m.rowNext.toNat + 2 ^ 30 * bit m.rowValid

/-- The value of a system register (R122). -/
def State.sysRead (s : State) (c : Nat) (ag : Agent) (x : Nat) : DWord :=
  let k := s.cell c
  match x with
  | 0x000 => (s.whoOf c ag).ctx.setWidth 64
  | 0x001 => k.res.prio.setWidth 64
  | 0x002 => k.trap.cause.setWidth 64
  | 0x003 => k.trap.epos
  | 0x004 => k.trap.tvec
  | 0x008 => BitVec.ofNat 64 (k.res.convert.energy.toNat + 2 ^ 63 * bit k.res.convert.esat)
  | 0x009 => k.res.escale.setWidth 64
  | 0x00C => k.res.maxred.setWidth 64
  | 0x010 => s.time
  | 0x011 => (match ag with | .wicket w => (k.wicket w).timef | .stream _ => k.s.timef).setWidth 64
  | 0x012 => s.link.skewbound.setWidth 64
  | 0x018 => BitVec.ofNat 64 k.m.rowp
  | _ => BitVec.ofNat 64 (k.ev.phase.toNat + 16 * k.em.phase.toNat + 256 * k.ec.phase.toNat)

/-- `RDSYS` (R170): `TVEC` is for SUPER mode; a read of `TIME` latches its fraction (R123). -/
def execRdsys (q : BitVec 4) (d : BitVec 5) (x : BitVec 11) (s : State) : Host.Outcome State Fault Refusal :=
  .next (s.sIssue (.rdsys q d x) { q := q, dest := d, super := x = 4 } fun c ag _ s =>
    let v := s.sysRead c ag x.toNat
    let frac : Word := field s.link.time 0 32
    let s := if x = 0x10 then s.modCell c fun k => (match ag with
        | .wicket w => { k with wickets := modAt k.wickets w fun y => { y with timef := frac } }
        | .stream _ => { k with s := { k.s with timef := frac } }) else s
    .done (s.setReg c ag d v) none)

/-- The cell's task belongs to the weir level (R328). -/
def State.weirTask (s : State) (c : Nat) : Bool :=
  match (s.cell c).res.task.bind s.task with
  | some t => t.record.weir
  | none => false

/-- A write of a stream's dither phase: at its next instruction boundary, at once when no instruction of it is in progress
(R171). -/
def Engine.writePhase (g : Engine) (v : BitVec 4) : Engine :=
  if g.nextStep = 0 && g.inprog.isEmpty then { g with phase := v, phaseNext := none } else { g with phaseNext := some v }

/-- The state after a SUPER write of a system register; a read-only one ignores it (R122, R171). -/
def State.sysWrite (s : State) (c x : Nat) (v : DWord) : State :=
  let weir := s.weirTask c
  s.modCell c fun k =>
    match x with
    | 0x001 => if weir then k else { k with res := { k.res with prio := if bitsAt v.toNat 0 6 = 0 then 1 else field v 0 6 } }
    | 0x002 => { k with trap := { k.trap with cause := field v 0 8 } }
    | 0x003 => { k with trap := { k.trap with epos := v } }
    | 0x004 => { k with trap := { k.trap with tvec := v } }
    | 0x008 => { k with res := { k.res with energy := field v 0 48, esat := v.getLsbD 63 } }
    | 0x009 => { k with res := { k.res with escale := field v 0 5 } }
    | 0x019 => { k with ev := k.ev.writePhase (field v 0 4), em := k.em.writePhase (field v 4 4), ec := k.ec.writePhase (field v 8 4) }
    | _ => k

/-- `WRSYS` (R171): no listed register is RW in USER mode, so a write there raises PRIV (R122). -/
def execWrsys (q : BitVec 4) (a : BitVec 5) (x : BitVec 11) (s : State) : Host.Outcome State Fault Refusal :=
  .next (s.sIssue (.wrsys q a x) { q := q, a := a, alone := true, super := true, wicket := false } fun c _ u s =>
    .done (s.sysWrite c x.toNat u.opa) none)

end Sys2Proof.Machine
end

