-- ==== Sys2Proof/Machine/System.lean ====
section
/-! DEFINITION. `TRAP`, `TRET`, `YIELD`, `TEND` (R310 to R314) and `IFENCE` (R347). -/

namespace Sys2Proof.Machine

/-- `TRAP` raises SELF with its field as the information (R311). -/
def execTrap (q : BitVec 4) (e : BitVec 11) (s : State) : Host.Outcome State Fault Refusal :=
  .next (s.sIssue (.trap q e) { q := q, wicket := false } fun _ _ u _ => .trap ⟨cSELF, e.setWidth 64⟩ u)

/-- A frame entry as it is re-injected (R142); a word that is no instruction raises ILLEGAL again. -/
def reinject (e : FrameEntry) : Unfinished :=
  let u : Unfinished := { instr := .tend 0, word := e.word, pc := e.pc, opa := e.opa, opb := e.opb, opd := e.opd, ea := e.ea, replayed := true }
  match decode .s e.word 0 with
  | .instr i => { u with instr := i }
  | .reject _ => { u with trap := some ⟨cILLEGAL, wordInfo e.word 0⟩ }

/-- Drops the commands in progress that `EPOS` names: BOUND stops one that has issued (R114). -/
def Cell.squashIssued (x : Cell) (st : Stream) (e : DWord) : Cell :=
  let hit := fun (k : Command) => eposOf st k.entry.pc k.entry.tag k.entry.inj = e
  let land := (x.engine st).inprog.any fun k => hit k && (match k.instr with | .land .. => true | _ => false)
  let x := x.modEngine st fun g => ({ g with inprog := g.inprog.filter fun k => !hit k } : Engine).settlePhase
  if land then { x with c := { x.c with landOut := none } } else x

/-- Squashes the engine entry that `EPOS` names, with its saved next step (R312). -/
def Cell.squashHead (x : Cell) : Cell :=
  let e := x.trap.epos
  let st := streamOf (bitsAt e.toNat 52 2)
  if st = .s then x else
  match x.head st with
  | none => x.squashIssued st e
  | some h =>
    if eposOf st h.pc h.tag h.inj ≠ e then x.squashIssued st e else
    let g := x.engine st
    let x := if st = .m then { x with m := { x.m with rowNext := 0, rowValid := false } } else x
    let x := x.modEngine st fun g => g.freshHead.settlePhase
    if g.queue.head? = some h then x.modEngine st fun g => { g with queue := g.queue.drop 1 }
    else { x with m := { x.m with inject := none, injectHeld := false } }

/-- The stream of `EPOS` runs again, unless another of its entries has a trap that S is to take; an entry that holds a
fetch fault is fetched again (DEDUCED, notes/assumptions/24). -/
def Cell.rerun (x : Cell) : Cell :=
  let st := streamOf (bitsAt x.trap.epos.toNat 52 2)
  if st = .s then x else
  let x := if st = .m ∧ bitsAt x.trap.epos.toNat 0 1 = 1 then { x with m := { x.m with injectHeld := false } } else x
  x.modEngine st fun g =>
    let g := { g with stopped := x.trap.pending.any fun p => p.stream = st }
    match g.queue with
    | h :: _ => if h.held.any fun t => t.cause ≠ cILLEGAL then g.refetch h else g
    | [] => g

/-- THE RETURN FROM A TRAP (R312): the mode and `INTRAP` are restored, `ESKIP` squashes the engine entry, its
stream runs again, the valid entries are re-injected, and issue goes on at `TF_SPC`. -/
def Cell.returnFromTrap (x : Cell) : Cell :=
  let x := (if x.trap.eskip then x.squashHead else x).rerun
  let entries := ((x.trap.frame.take x.trap.tfN.toNat).filter (·.valid)).map reinject
  { x with
    s := { x.s with super := x.trap.pmode, iss := { x.s.iss with replay := entries, acquire := x.trap.acquire } }
    trap := { x.trap with inTrap := false, eskip := false, acquire := false } }

/-- `TRET` (R312). -/
def execTret (q : BitVec 4) (s : State) : Host.Outcome State Fault Refusal :=
  .next (s.sIssue (.tret q) { q := q, alone := true, super := true, wicket := false, tests := true } fun c _ u s =>
    let x := s.cell c
    if !x.trap.inTrap then .trap ⟨cILLEGAL, wordInfo u.word 0⟩ u
    else .done (s.setCell c x.returnFromTrap) (some x.trap.tfSpc))

/-- A packet with the tag waits in the landing buffer for the context, untouched by any wicket (R313). -/
def Cell.tagWaits (x : Cell) (tag : BitVec 16) : Bool :=
  x.landing.any fun l => match l with
    | some k => k.packet.tag = tag && k.packet.ctx = x.res.ctx && !k.served && !k.held
    | none => false

/-- The body of `YIELD` (R313): 1 into `sd` when it cannot suspend, else the task is stopped and `sd` is written
0 at resumption. -/
def yieldBody (land : Bool) (c : Nat) (ag : Agent) (u : Unfinished) (s : State) : Fin :=
  let x := s.cell c
  if x.res.stop.isSome then .hold s u none 0
  else if x.res.task.isNone || s.slotless c || (land && x.tagWaits (field u.opa 0 16)) then .done (s.setReg c ag u.dest 1) none
  else .hold (s.beginStop c (if land then .yieldLand else .yield) 0 0 (if land then field u.opa 0 16 else 0)) u none 0

/-- `YIELD` (R313). -/
def execYield (q : BitVec 4) (d : BitVec 5) (s : State) : Host.Outcome State Fault Refusal :=
  .next (s.sIssue (.yield q d) { q := q, dest := d, alone := true, wicket := false } (yieldBody false))

/-- `YIELD` for a landing (R313). -/
def execYieldLand (q : BitVec 4) (d a : BitVec 5) (s : State) : Host.Outcome State Fault Refusal :=
  .next (s.sIssue (.yieldLand q d a) { q := q, a := a, dest := d, alone := true, wicket := false } (yieldBody true))

/-- Every started engine stream has executed its end command (R31, R34). -/
def Cell.enginesEnded (x : Cell) : Bool := engines.all fun st => !(x.engine st).started || (x.engine st).ended

/-- `TEND` (R314): it stays unfinished until the engines have ended, and then the task may retire; in a handler
it discards the frame's entries. -/
def execTend (q : BitVec 4) (s : State) : Host.Outcome State Fault Refusal :=
  .next (s.sIssue (.tend q) { q := q, wicket := false } fun c ag u s =>
    let s := s.modCell c fun x => if x.trap.inTrap then { x with trap := { x.trap with tfN := 0, frame := frameOf [] } } else x
    if (s.olderOf c ag).isEmpty ∧ (s.cell c).enginesEnded then
      .done (s.modCell c fun x => { x with s := { x.s with ended := true } }) none
    else .hold s u none 0)

/-- `IFENCE` (R347): the instruction cache is emptied and the kept generation becomes 0. -/
def execIfence (q : BitVec 4) (s : State) : Host.Outcome State Fault Refusal :=
  .next (s.sIssue (.ifence q) { q := q, alone := true } fun c _ _ s =>
    .done (s.modCell c fun x => { x with icache := [], gen := 0 }) none)

end Sys2Proof.Machine
end

