-- ==== Sys2Proof/Machine/Work.lean ====
section
/-! DEFINITION. Work for the dispatcher: ready queues and `QPUT` (R319 to R326, R335), launches (R344 to R346),
`ESTART` (R336), groups and `GCTL` (R348 to R360). -/

namespace Sys2Proof.Machine

/-! ### Block reads -/

/-- Reads bytes by virtual address in parts that lie in one tile or page, each with its checks; a stall while a
shutter keeps a part waiting (R21). -/
def State.readVa (s : State) (w : Who) (since : Nat) (fuel : Nat) (va : Int) (n : Nat) : Acc (State × List Byte) :=
  match fuel with
  | 0 => .ok (s, [])
  | fuel + 1 =>
    if n = 0 then .ok (s, []) else
    let room := 16384 - (va % 16384).toNat
    let k := min n room
    match s.accessCheck w va k 1 { rd := true } with
    | .trap t => .trap t
    | .stall => .stall
    | .ok pa =>
      match s.portRead w.cell w.ag pa k since with
      | none => .stall
      | some (s, d) =>
        match d.trap va.toNat with
        | some t => .trap t
        | none =>
          match (s.chargeBytes w.cell pa k).readVa w since fuel (va + k) (n - k) with
          | .ok (s, bs) => .ok (s, d.bytes ++ bs)
          | r => r

/-- Reads a block at a register's address, aligned to `al` (R169, R335). -/
def State.blockRead (s : State) (c : Nat) (ag : Agent) (u : Unfinished) (ea : Int) (n al : Nat) : Acc (State × List Byte) :=
  let w := s.whoOf c ag
  match addrCheck ea n with
  | some k => .trap (trapAt k (ea % 2 ^ 64).toNat)
  | none => if ea.toNat % al ≠ 0 then .trap (trapAt cALIGN ea.toNat) else s.readVa w u.since 40 ea n

/-- Goes on after a block read: a trap of the instruction, or a wait for the port. -/
def afterRead {α : Type} (w : Who) (r : Acc (State × α)) (u : Unfinished) (s : State) (ea : Int) (f : State → α → Fin) : Fin :=
  match r with
  | .ok (s, a) => f s a
  | .trap t => .trapAfter (s.badAt w false 64 t) t (u.at ea)
  | .stall => .hold s (u.at ea) none 0

/-- `n` bytes of a block from byte `o`, as a number. -/
def bytesAt (bs : List Byte) (o n : Nat) : Nat := leNat ((bs.drop o).take n)

/-! ### Groups -/

/-- The first FREE slot after the slot allocated last, wrapping from the top of the table (R349). -/
def State.freeSlotOf (s : State) : Option Nat :=
  let top := 2 ^ 18 - 1
  let cand := (List.range (min top (s.disp.groups.length + 1))).map fun i => (s.disp.lastSlot + i) % top + 1
  cand.find? fun k => (s.groupAt k).state = gFREE

/-- Whether a group accepts members (R353). -/
def Group.accepts (g : Group) : Bool :=
  g.state = gOPEN || g.state = gDRAINED || (g.level = 0 && g.state = gCLOSING)

/-- A group's counter is at its limit (R351). -/
def Group.full (g : Group) : Bool := g.count = BitVec.allOnes 48

/-- Counts a member in (R352). -/
def State.countIn (s : State) (gid : BitVec 32) : State :=
  match s.group gid with
  | none => if gid = 0 ∨ s.homed gid then s else s.sendGroup gid (.memberAdded gid)
  | some g => s.setGroup (gidSlot gid) { g with count := g.count + 1, state := if g.state = gDRAINED then gOPEN else g.state }

/-- Creates a group in a free slot and counts it into its parent (R349, R352); a parent on another module has counted
it at the join (R357). -/
def State.createGroup (s : State) (g : Group) : Option (BitVec 32 × State) :=
  match s.freeSlotOf with
  | none => none
  | some k =>
    let gid := s.gidOf g.level.toNat k
    let s := { s with disp := { s.disp with lastSlot := k } }
    let s := s.setGroup k g
    some (gid, if s.homed g.parent then s.countIn g.parent else s)

/-- Places a launch as node `n` of a graph and says whether it is held (R357). -/
def State.joinGraph (s : State) (graph gid : BitVec 32) (n : Nat) : State :=
  match s.group graph with
  | none => s
  | some g =>
    let g := { g with nodes := store g.nodes n { launch := gid, held := g.holds n } }
    let s := s.setGroup (gidSlot graph) g
    let k := s.groupAt (gidSlot gid)
    s.setGroup (gidSlot gid) { k with held := g.holds n }

/-- The graph accepts a launch as node `n` for a context (R357). -/
def State.graphAccepts (s : State) (graph : BitVec 32) (ctx : BitVec 16) (n : Nat) : Bool :=
  match s.group graph with
  | none => false
  | some g => g.level = 1 && g.accepts && !g.full && g.ctx = ctx && n < g.node.toNat && (look g.nodes n).isNone

/-- What a form that asks another module goes on with (R335, R348, R353, R357). -/
inductive Asked where
  /-- for a new group 1, 2 when it is held as well, or 2^63 and a status of R360; for a task as `GroupMsg.admitted` -/
  | answer (v : DWord)
  | unreachable (port : Nat)
  | waits (s : State) (u : Unfinished)

/-- The channel of a packet (R405). -/
def Payload.channel (p : Payload) : Nat :=
  match p with
  | .store _ _ _ det => if det then 0 else 1
  | .landing .. => 2
  | _ => 3

/-- A packet must wait for its predecessors of the same cell, destination and channel on another route (R405). -/
def State.routeHeld (s : State) (c dst port : Nat) (chan : Nat) : Bool :=
  s.link.out.any fun p => p.cell = c && p.dst = dst && p.payload.channel = chan && p.port ≠ port

/-- Asks another module with a message of the cell's own form, once, when no earlier packet holds it (R405); the form then waits for
the answer. -/
def State.ask (s : State) (c : Nat) (ag : Agent) (u : Unfinished) (m : Nat) (msg : GroupMsg) : Asked :=
  match u.value with
  | some v => .answer v
  | none =>
    if u.sent then .waits s u else
    match s.route m with
    | none => .unreachable (s.firstTried m)
    | some port =>
      if s.routeHeld c m port 3 then .waits s u else
      let p : OutPacket := { dst := m, port := port, cell := c, agent := ag, ctx := (s.whoOf c ag).ctx, sentAt := s.cycle, payload := .group msg }
      .waits { s with link := { s.link with out := s.link.out ++ [p] } } { u with sent := true }

/-- The number under which a form of cell `c` joins a parent other than a graph. -/
def State.joinKey (s : State) (c : Nat) : Nat := 2 ^ 20 + 256 * s.moduleNumber + c

/-- A new group takes its place under its parent (R357): as node `n` of a graph of this module, or of a parent on another
module, which has counted it. -/
def State.enterParent (s : State) (parent gid : BitVec 32) (n : Nat) (answer : DWord) : State :=
  if parent = 0 then s
  else if s.homed parent then (if (s.groupAt (gidSlot gid)).level = 0 then s.joinGraph parent gid n else s)
  else (s.setGroup (gidSlot gid) { (s.groupAt (gidSlot gid)) with held := answer = 2 }).sendGroup parent (.joined parent gid n)

/-- A group that another module has accepted under a parent is not created after all (R346). -/
def State.leaveParent (s : State) (parent : BitVec 32) (n : Nat) : State :=
  if parent = 0 ∨ s.homed parent then s else s.sendGroup parent (.leave parent n)

/-! ### Ready queues -/

/-- Queue states (R319). -/
def qCREATED : BitVec 3 := 0
def qOPEN : BitVec 3 := 1
def qDRAINING : BitVec 3 := 2
def qCLOSED : BitVec 3 := 3
def qBROKEN : BitVec 3 := 4
def qDESTROYED : BitVec 3 := 5

/-- A ready queue of the dispatcher's copy; one not listed is DESTROYED. -/
def State.queue (s : State) (q : Nat) : RQueue := (look s.disp.queues q).getD { state := qDESTROYED }

/-- Replaces a queue and writes the dispatcher's fields of its table entry (R319). -/
def State.setQueue (s : State) (q : Nat) (x : RQueue) : State :=
  let s := { s with disp := { s.disp with queues := store s.disp.queues q x } }
  s.dwrite (s.disp.qtbl.toNat + 64 * q + 12)
    (leBytes 1 x.state.toNat ++ leBytes 3 0 ++ leBytes 4 x.put.toNat ++ leBytes 4 x.take.toNat ++ leBytes 4 x.ncancel.toNat)

/-- The address of ring slot `p` (R320). -/
def RQueue.slotVa (q : RQueue) (p : Nat) : Nat := (q.base + 16 * (p % 2 ^ q.rlog)) % 2 ^ 64

/-- A ring access has met a fault: the queue becomes BROKEN, with a notice and an event (R322); the notice's cell is open
(notes/assumptions/100). -/
def State.breakQueue (s : State) (q : Nat) (cause : BitVec 8) (va : Nat) : State :=
  let x := s.queue q
  let s := s.dmiss x.ctx va 16 cause
  let s := s.setQueue q { x with state := qBROKEN }
  let (cell, s) := s.takeFree
  let s := s.notice x.ctx cause 3 cell.toNat 0 (BitVec.ofNat 64 q) (BitVec.ofNat 64 va)
  s.event 0x0205 .dispatcher x.ctx va q

/-- Writes ring slot `p` for a record (R320). -/
def State.writeSlot (s : State) (q p rec : Nat) (launch : BitVec 32) : Except (BitVec 8) State :=
  let x := s.queue q
  s.dstore x.ctx (x.slotVa p) (leBytes 8 (rec % 2 ^ 52) ++ leBytes 4 launch.toNat ++ leBytes 4 0)

/-- Base and ceiling priority of a record (R28). -/
def Record.base (r : Record) : Nat := if r.weir then 0 else bitsAt r.basepri.toNat 0 6
def Record.ceiling (r : Record) : Nat := if r.weir then 0 else max (bitsAt r.ceilpri.toNat 0 6) r.base

/-- The checks of a put (R335) in the order of the statuses; `issuer` is none for the host's PUT. A launch of another
module is asked at its home (R353). -/
def State.putStatus (s : State) (q : Nat) (r : Record) (issuer : Option (BitVec 16)) : Nat :=
  let x := s.queue q
  if q = 0 ∨ x.state ≠ qOPEN then 1
  else if (x.put - x.take).toNat = 2 ^ x.rlog then 2
  else if issuer.any fun c => x.ctx ≠ c then 3
  else if r.ctxid ≠ x.ctx ∨ r.skind ≠ 0 ∨ (r.weir != (x.level = 0)) ∨ (!r.weir ∧ bitsAt r.basepri.toNat 0 6 ≠ x.level.toNat) then 5
  else match s.group r.launchid with
    | some g => if g.level = 0 ∧ g.accepts ∧ !g.full then 0 else 4
    | none => if r.launchid ≠ 0 ∧ !s.homed r.launchid then 0 else 4

/-- `n` slots are put into a queue (R325). -/
def State.enqueue (s : State) (q n : Nat) (p : SlotPut) : State :=
  let x := s.queue q
  let new := (List.range n).map fun i => { p with since := s.cycle, seq := s.disp.nextPut + i }
  ({ s with disp := { s.disp with nextPut := s.disp.nextPut + n, entered := true } } : State).setQueue q
    { x with put := x.put + BitVec.ofNat 32 n, puts := x.puts ++ new }

/-- One put at the dispatcher (R325, R335): the status and the state. A launch of another module has counted the task
already, with `far` what it answered. -/
def State.put (s : State) (q rec : Nat) (r : Record) (issuer : Option (BitVec 16)) (far : SlotPut := {}) : Nat × State :=
  let undo := fun (s : State) => if r.launchid = 0 ∨ s.homed r.launchid ∨ far.launch = 0 then s else s.sendGroup r.launchid (.memberGone r.launchid)
  let st := s.putStatus q r issuer
  if st ≠ 0 then (st, undo s) else
  let x := s.queue q
  match s.writeSlot q x.put.toNat rec r.launchid with
  | .error c => (6, undo (s.breakQueue q c (x.slotVa x.put.toNat)))
  | .ok s =>
    let s := s.enqueue q 1 { far with launch := r.launchid, ceil := r.ceiling }
    (0, if s.homed r.launchid then s.countIn r.launchid else s)

/-- What a launch's home answered to a put, from its value and the bytes that hold the header address and copy. -/
def farPutOf (launch : BitVec 32) (v : DWord) (bs : List Byte) : SlotPut :=
  { launch := launch, held := v = 2, kernel := some (bytesAt bs 0 8, BitVec.ofNat 512 (bytesAt bs 8 64)) }

/-- `QPUT` of a record that has been read (R335). -/
def qputRecord (c : Nat) (ag : Agent) (u : Unfinished) (q va : Nat) (bs : List Byte) (s : State) : Fin :=
  let r := recordOf bs
  let issuer := some (s.whoOf c ag).ctx
  let done := fun (s : State) (st : Nat) => Fin.done (s.setReg c ag u.dest (BitVec.ofNat 64 st)) none
  let far := r.launchid ≠ 0 ∧ !s.homed r.launchid
  if !far then (let (st, s) := s.put q va r issuer; done s st)
  else if u.value.isNone ∧ !u.sent ∧ s.putStatus q r issuer ≠ 0 then done s (s.putStatus q r issuer)
  else match s.ask c ag u (gidHome r.launchid) (.enlist r.launchid) with
    | .unreachable _ => done s 4
    | .waits s u => .hold s { u with got := bs } none 0
    | .answer v =>
      if v = 0 then done s (if s.putStatus q r issuer = 0 then 4 else s.putStatus q r issuer)
      else (let (st, s) := s.put q va r issuer (farPutOf r.launchid v (u.got.drop 64)); done s st)

/-- `QPUT` (R335). -/
def execQput (q : BitVec 4) (d a : BitVec 5) (x : BitVec 11) (s : State) : Host.Outcome State Fault Refusal :=
  .next (s.sIssue (.qput q d a x) { q := q, a := a, dest := d } fun c ag u s =>
    let ea := effAddr u 0
    match addrCheck ea 64, (ea.toNat % 64 ≠ 0 : Bool) with
    | some k, _ => .trap (trapAt k (ea % 2 ^ 64).toNat) (u.at ea)
    | none, true => .trap (trapAt cALIGN ea.toNat) (u.at ea)
    | none, false =>
      if !u.got.isEmpty then qputRecord c ag u x.toNat ea.toNat (u.got.take 64) s
      else if !s.released c ag (s.olderOf c ag) 4 then .hold s (u.at ea) none 0
      else afterRead (s.whoOf c ag) (s.blockRead c ag u ea 64 64) u s ea fun s bs => qputRecord c ag (u.at ea) x.toNat ea.toNat bs s)

/-! ### Kernels and launches -/

/-- Fields of a kernel header (R338). -/
def hdrField (h : BitVec 512) (byte bit_ n : Nat) : Nat := descField h byte bit_ n

/-- Bits set in a number below 2^n. -/
def popcount (n x : Nat) : Nat := ((List.range n).filter fun i => x.testBit i).length

/-- 64 KiB units of a task's save frame (R342). -/
def frameUnits (h : BitVec 512) : Nat := (0x19400 + 16384 * popcount 128 (hdrField h 16 0 128) + 65535) / 65536

/-- Entry offsets `SENT`, `VENT`, `MENT`, `CENT` (R338). -/
def entryOffset (h : BitVec 512) (st : Stream) : Nat := hdrField h (40 + 4 * streamNumber st) 0 32

/-- The entry point of a stream's section: 0 when it has none (R345). -/
def entryPoint (h : BitVec 512) (khdr : Nat) (st : Stream) : DWord :=
  if entryOffset h st = 0 then 0 else BitVec.ofNat 64 (khdr + entryOffset h st)

/-- Statuses 5, 6 and 7 of a header (R346), else 0. -/
def headerStatus (h : BitVec 512) (fsize : Nat) : Nat :=
  let f := hdrField h
  if f 4 0 2 ≠ 1 then 5
  else if f 4 2 6 ≠ 0 ∨ f 5 1 7 ≠ 0 ∨ f 6 0 16 ≠ 0 ∨ f 38 0 16 ≠ 0 ∨ f 60 4 4 ≠ 0 ∨ f 61 0 24 ≠ 0 ∨ f 12 0 32 = 0 ∨ f 40 0 32 = 0 ∨
      [40, 44, 48, 52, 56].any (fun o => f o 0 2 ≠ 0) ∨ 8 < f 60 0 4 then 6
  else if fsize < frameUnits h then 7 else 0

/-- The first group of refusal statuses of a launch block and header (R346), else 0. -/
def State.launchStatus1 (s : State) (ctx : BitVec 16) (lb : List Byte) (h : BitVec 512) : Nat :=
  let f := bytesAt lb
  let weir := (f 34 1).testBit 2
  let q := s.queue (f 36 2 % 2048)
  let level := q.state ≠ qDESTROYED && ((weir != (q.level = 0)) || (!weir && f 32 1 % 64 ≠ q.level.toNat))
  if (!weir ∧ f 32 1 % 64 = 0) ∨ level then 4
  else
    let st := headerStatus h (s.context ctx).fsize
    if st ≠ 0 then st
    else if 2 ^ 52 ≤ f 0 8 ∨ 2 ^ 52 ≤ f 8 8 ∨ 2 ^ 52 ≤ f 16 8 ∨ 2 ^ 52 ≤ f 48 8 ∨ 64 ≤ f 32 1 ∨ 64 ≤ f 33 1 ∨ 8 ≤ f 34 1 ∨ f 35 1 ≠ 0 ∨
        2048 ≤ f 36 2 ∨ f 38 2 ≠ 0 ∨ 32 ≤ f 56 1 ∨ f 57 7 ≠ 0 ∨ f 24 4 = 0 ∨ 65536 < f 24 4 ∨ f 28 4 % 64 ≠ 0 ∨ 16 < f 56 1 then 9
    else 0

/-- The second group (R346), tested at the dispatcher. -/
def State.launchStatus2 (s : State) (ctx : BitVec 16) (lb : List Byte) : Nat :=
  let f := bytesAt lb
  let qid := f 36 2 % 2048
  let q := s.queue qid
  let graph := BitVec.ofNat 32 (f 40 4)
  if qid = 0 ∨ q.state ≠ qOPEN then 1
  else if 2 ^ q.rlog - (q.put - q.take).toNat < f 24 4 then 2
  else if q.ctx ≠ ctx then 3
  else if s.freeSlotOf.isNone ∨ (s.homed graph ∧ !s.graphAccepts graph ctx (f 44 4 / 65536)) then 8
  else 0

/-- Record of task `i` of a launch (R345). -/
def launchRecord (lb : List Byte) (h : BitVec 512) (ctx : BitVec 16) (gid : BitVec 32) (i : Nat) : Record :=
  let f := bytesAt lb
  let k := sext52 (f 0 8)
  { spc := entryPoint h k .s, vpc := entryPoint h k .v, mpc := entryPoint h k .m, cpc := entryPoint h k .c
    frame := BitVec.ofNat 64 (sext52 (f 16 8) + i * f 28 4), taskid := BitVec.ofNat 32 i
    nodeid := BitVec.ofNat 32 (f 44 4 + i), basepri := BitVec.ofNat 8 (f 32 1), ceilpri := BitVec.ofNat 8 (f 33 1)
    ctxid := ctx, launchid := gid, flags := BitVec.ofNat 8 (f 34 1) }

/-- Writes the records of a launch from task `i` on; the trap of the first write that meets a fault. -/
def State.writeRecords (s : State) (c : Nat) (ag : Agent) (lb : List Byte) (h : BitVec 512) (gid : BitVec 32) (i n : Nat) :
    State × Option TrapInfo :=
  match n with
  | 0 => (s, none)
  | n + 1 =>
    let w := s.whoOf c ag
    let va := sext52 (bytesAt lb 8 8) + 64 * i
    match s.accessCheck w va 64 64 { wr := true } with
    | .ok pa => ((s.performStore c ag va pa (launchRecord lb h w.ctx gid i).bytes).settle).writeRecords c ag lb h gid (i + 1) n
    | .trap t => (s, some t)
    | .stall => (s, none)

/-- Fills the reserved slots of a launch (R345). -/
def State.fillSlots (s : State) (q first recbase : Nat) (gid : BitVec 32) (i n : Nat) : State :=
  match n with
  | 0 => s
  | n + 1 =>
    match s.writeSlot q (first + i) (recbase + 64 * i) gid with
    | .ok s => s.fillSlots q first recbase gid (i + 1) n
    | .error c => s.breakQueue q c ((s.queue q).slotVa (first + i))

/-- A `LAUNCH` whose records are written goes on once they are performed at PACKAGE scope: it fills its slots and returns
its id, or raises the trap that its record writes met (R345). `bs` holds the launch block, the id and the first slot. -/
def launchFill (c : Nat) (ag : Agent) (u : Unfinished) (ea : Int) (bs : List Byte) (t : Option TrapInfo) (s : State) : Fin :=
  if t.isNone ∧ !s.performedAt (c, ag) 4 then .hold s (u.at ea) none 0 else
  let gid := BitVec.ofNat 32 (bytesAt bs 64 4)
  let s := s.fillSlots (bytesAt bs 36 2) (bytesAt bs 68 4) (sext52 (bytesAt bs 8 8)) gid 0 (bytesAt bs 24 4)
  match t with
  | some t => .trapAfter s t (u.at ea)
  | none => .done (s.setReg c ag u.dest (gid.setWidth 64)) none

/-- Creates the launch of a launch block, reserves its slots and writes its records (R345). -/
def launchCreate (c : Nat) (ag : Agent) (u : Unfinished) (ea : Int) (lb ob : List Byte) (h : BitVec 512) (answer : DWord) (s : State) : Fin :=
  let ctx := (s.whoOf c ag).ctx
  let graph := BitVec.ofNat 32 (bytesAt lb 40 4)
  let node := bytesAt lb 44 4 / 65536
  let ntask := bytesAt lb 24 4
  let qid := bytesAt lb 36 2
  let g : Group :=
    { state := gCLOSING, level := 0, ctx := ctx, parent := graph, count := BitVec.ofNat 48 ntask, bval := BitVec.ofNat 64 (sext52 (bytesAt lb 0 8))
      node := if graph = 0 then 0 else BitVec.ofNat 32 node, header := h, bound := true
      ops := (List.range (bytesAt lb 56 1)).map fun i => BitVec.ofNat 128 (bytesAt ob (16 * i) 16) }
  match s.createGroup g with
  | none => .done (s.setReg c ag u.dest (BitVec.ofNat 64 (2 ^ 63 + 8))) none
  | some (gid, s) =>
    let s := (s.klive g 1).enterParent graph gid node answer
    let first := (s.queue qid).put.toNat
    let (s, t) := (s.enqueue qid ntask { launch := gid, ceil := (launchRecord lb h ctx gid 0).ceiling }).writeRecords c ag lb h gid 0 ntask
    let s := if t.isSome then s.cancelGroup gid else s
    let bs := lb ++ leBytes 4 gid.toNat ++ leBytes 4 first
    launchFill c ag { u with sent := true, value := some 0, got := bs } ea bs t s

/-- The refusals of a `LAUNCH` that its blocks do not decide, and its creation, in one step at the dispatcher (R345, R346).
A graph of another module is asked first, and left again when this module refuses; one without a route accepts nothing
(notes/assumptions/32). -/
def launchEnter (c : Nat) (ag : Agent) (u : Unfinished) (ea : Int) (bs : List Byte) (s : State) : Fin :=
  let lb := bs.take 64
  let h : BitVec 512 := BitVec.ofNat 512 (bytesAt bs 64 64)
  let refuse := fun (s : State) (st : Nat) => Fin.done (s.setReg c ag u.dest (BitVec.ofNat 64 (2 ^ 63 + st))) none
  let graph := BitVec.ofNat 32 (bytesAt lb 40 4)
  let node := bytesAt lb 44 4 / 65536
  let ctx := (s.whoOf c ag).ctx
  let st := s.launchStatus2 ctx lb
  let far := graph ≠ 0 ∧ !s.homed graph
  if !far then (if st ≠ 0 then refuse s st else launchCreate c ag u ea lb (bs.drop 128) h 0 s)
  else if u.value.isNone ∧ !u.sent ∧ st ≠ 0 then refuse s st
  else match s.ask c ag u (gidHome graph) (.join graph 1 ctx node) with
    | .unreachable _ => refuse s 8
    | .waits s u => .hold s { u.at ea with got := bs } none 0
    | .answer v =>
      if v.msb then refuse s (if st = 0 then 8 else st)
      else if st ≠ 0 then refuse (s.leaveParent graph node) st
      else launchCreate c ag u ea lb (bs.drop 128) h v s

/-- `LAUNCH` (R345): the reads and refusals, then creation, records and slots. It begins once S's earlier
accesses are performed at PACKAGE scope, which its release asks for. What it has read stands in its entry while it asks the
home of a graph (128 bytes and more), and then its launch (72 bytes). -/
def launchBody (c : Nat) (ag : Agent) (u : Unfinished) (s : State) : Fin :=
  let ea := effAddr u 0
  let ctx := (s.whoOf c ag).ctx
  if 128 ≤ u.got.length then launchEnter c ag u ea u.got s
  else if !u.got.isEmpty then launchFill c ag u ea u.got none s
  else if !s.performedAt (c, ag) 4 then .hold s (u.at ea) none 0 else
  afterRead (s.whoOf c ag) (s.blockRead c ag u ea 64 64) u s ea fun s lb =>
  afterRead (s.whoOf c ag) (s.blockRead c ag u (sext52 (bytesAt lb 0 8)) 64 1) u s ea fun s hb =>
  afterRead (s.whoOf c ag) (s.blockRead c ag u (sext52 (bytesAt lb 48 8)) (16 * (bytesAt lb 56 1 % 32)) 1) u s ea fun s ob =>
  let st := s.launchStatus1 ctx lb (BitVec.ofNat 512 (leNat hb))
  if st ≠ 0 then .done (s.setReg c ag u.dest (BitVec.ofNat 64 (2 ^ 63 + st))) none
  else launchEnter c ag u ea (lb ++ hb ++ ob) s

/-- `LAUNCH` (R345). -/
def execLaunch (q : BitVec 4) (d a : BitVec 5) (s : State) : Host.Outcome State Fault Refusal :=
  .next (s.sIssue (.launch q d a) { q := q, a := a, dest := d, alone := true, wicket := false } launchBody)

end Sys2Proof.Machine
end

