-- ==== Sys2Proof/Machine/Torus.lean ====
section
/-! DEFINITION. Routes over the torus (R400 to R405), `PSTF` (R412) and `LDONE` (R414). -/

namespace Sys2Proof.Machine

/-- Sends a packet; a channel-0 packet beyond the share of R408 is counted in `DET_OVR`. -/
def State.send (s : State) (p : OutPacket) : State :=
  let det := match p.payload with | .store _ n _ true => some n | _ => none
  let l := s.link
  match det with
  | none => { s with link := { l with out := l.out ++ [p] } }
  | some n =>
    let log := l.detLog.filter fun (t, _) => s.cycle < t + 3000
    let sum := (log.filter fun (_, c, q, _) => c = p.cell && q = p.port).foldl (fun a (_, _, _, k) => a + k) 0
    { s with link := { l with
        out := l.out ++ [p], detLog := log ++ [(s.cycle, p.cell, p.port, n)]
        detOvr := if l.detrate.toNat < sum + n then l.detOvr + 1 else l.detOvr } }

/-- Bytes of a dense array from `BASE`, of plane 0 for a planed tensor (R412). -/
def Desc.extent (d : Desc) : Nat := ((d.lastPos + 1) * (planeWidths d.fmt).1 + 7) / 8

/-- The launch of the cell's task, or 0. -/
def State.launchOf (s : State) (c : Nat) : BitVec 32 :=
  match (s.cell c).res.task.bind s.task with
  | some t => t.record.launchid
  | none => 0

/-- A `PSTF` issues: its launch counts it, unless a trap or a stop has put it back after it was counted (R351). -/
def State.countStore (s : State) (c : Nat) (u : Unfinished) : State :=
  if u.replayed && (s.cell c).s.owed ≠ 0 then s.modCell c fun x => { x with s := { x.s with owed := x.s.owed - 1 } }
  else s.countIn (s.launchOf c)

/-- `PSTF` leaves for its port (R351, R412). -/
def State.sendStore (s : State) (c dst port : Nat) (va n : Nat) (v : DWord) (det : Bool) : State :=
  let launch := s.launchOf c
  let s := s.modCell c fun x => x.charge (x.weights.linkB.toNat * n)
  s.send { dst := dst, port := port, cell := c, agent := .stream .s, ctx := (s.cell c).res.ctx, launch := launch, sentAt := s.cycle
           payload := .store va n (BitVec.ofNat 64 (v.toNat % 2 ^ (8 * n))) det }

/-- `PSTF` (R412). -/
def execPstf (q : BitVec 4) (d a b : BitVec 5) (e : BitVec 1) (z : BitVec 2) (s : State) : Host.Outcome State Fault Refusal :=
  .next (s.sIssue (.pstf q d a b e z) { q := q, a := a, b := b, d := d, wicket := false } fun c ag u s =>
    let t := descOf ((s.cell c).tensors.getD (bitsAt u.opb.toNat 0 8) 0)
    let m := bitsAt u.opb.toNat 8 12
    let n := 2 ^ z.toNat
    let off := u.opa.toNat
    let va := (t.base + off) % 2 ^ 64
    if bitsAt u.opb.toNat 20 44 ≠ 0 ∨ !t.may 8 ∨ t.blk ≠ 0 then .trap ⟨cFORMAT, 0⟩ u
    else if t.extent < off + n then .trap (trapAt cRANGE off) u
    else if va % n ≠ 0 then .trap (trapAt cALIGN va) u
    else match (if s.inTorus m then s.route m else none) with
      | none => .trap ⟨cLINKDOWN, BitVec.ofNat 64 (s.firstTried m)⟩ u
      | some port =>
        let full : Bool := (s.group (s.launchOf c)).any Group.full && !(u.replayed && (s.cell c).s.owed ≠ 0)
        if 256 ≤ s.peerStores c + ((s.olderOf c ag).filter (·.peerStore)).length ∨ full then .stall
        else if ((s.olderOf c ag).any fun v => v.relFence || v.peerStore) ∨
            s.routeHeld c m port (if e = 1 then 0 else 1) then
          .pend (s.countStore c u) { u with finish := .peerStore, pa := m, size := n, ea := BitVec.ofNat 64 va }
        else .done ((s.countStore c u).sendStore c m port va n u.opd (e = 1)) none)

/-- The slot of the current packet of S or of a wicket (R411, R414). -/
def Cell.packetOf (x : Cell) (ag : Agent) : Option Nat :=
  match ag with
  | .wicket w => (x.wicket w).packet
  | .stream _ => x.s.packet

/-- `LDONE` END (R414). -/
def execLdoneEnd (q : BitVec 4) (s : State) : Host.Outcome State Fault Refusal :=
  .next (s.sIssue (.ldoneEnd q) { q := q, tests := true } fun c ag u s =>
    match (s.cell c).packetOf ag with
    | none => .trap ⟨cILLEGAL, wordInfo u.word 0⟩ u
    | some k =>
      if !(s.olderOf c ag).isEmpty ∨ !s.performedDie (c, ag) then .hold s u none 0
      else .done (s.modCell c fun x =>
        let x := x.freeSlot (some k)
        match ag with
        | .wicket w => { x with wickets := modAt x.wickets w fun y => { y with running := false, packet := none, alone := false } }
        | .stream _ => { x with s := { x.s with packet := none } }) none)

/-- `LDONE` RD (R414). -/
def execLdoneRd (q : BitVec 4) (d a : BitVec 5) (s : State) : Host.Outcome State Fault Refusal :=
  .next (s.sIssue (.ldoneRd q d a) { q := q, a := a, dest := d, tests := true } fun c ag u s =>
    match (s.cell c).packetOf ag with
    | none => .trap ⟨cILLEGAL, wordInfo u.word 0⟩ u
    | some k =>
      match (s.cell c).landing.getD k none with
      | none => .trap ⟨cILLEGAL, wordInfo u.word 0⟩ u
      | some l =>
        let off := u.opa.toNat
        if off % 8 ≠ 0 then .trap (trapAt cALIGN off) u
        else if (l.packet.payload.length + 7) / 8 * 8 < off + 8 then .trap (trapAt cRANGE off) u
        else .done (s.setReg c ag d (BitVec.ofNat 64 (leNat ((l.packet.payload.drop off).take 8)))) none)

end Sys2Proof.Machine
end

