-- ==== Sys2Proof/Machine/GroupInstr.lean ====
section
/-! DEFINITION. `GCTL` (R360), `BARR` (R370 to R374) and `WAITT` (R375). -/

namespace Sys2Proof.Machine

/-- A refusal status in `sd` (R360). -/
def refused (st : Nat) : DWord := BitVec.ofNat 64 (2 ^ 63 + st)

/-- Closes an OPEN or DRAINED group (R352, R354): the result and the state. -/
def State.closeGroup (s : State) (gid : BitVec 32) (ctx : Option (BitVec 16)) (bnd : BitVec 2) (bval : DWord) : DWord × State :=
  match s.group gid with
  | none => (refused 1, s)
  | some g =>
    if ctx.any (· ≠ g.ctx) then (refused 3, s)
    else if g.level ≠ 2 ∧ bnd ≠ 0 then (refused 1, s)
    else if g.state = gOPEN ∨ g.state = gDRAINED then
      let g' := if g.level = 2 then { g with bnd := bnd, bval := bval, met := false } else g
      let s := s.setGroup (gidSlot gid) { g' with state := gCLOSING }
      let s := if g.level = 1 then s.unhold gid else s
      (0, if g.state = gDRAINED then s.countOut 5 gid true else s.recheck gid)
    else (refused 2, s)

/-- Cancels a group (R352). -/
def State.cancelOp (s : State) (gid : BitVec 32) (ctx : Option (BitVec 16)) : DWord × State :=
  match s.group gid with
  | none => (refused 1, s)
  | some g =>
    if ctx.any (· ≠ g.ctx) then (refused 3, s)
    else if g.terminal then (refused 2, s)
    else (0, s.cancelGroup gid)

/-- Frees a terminal group without parent once its state has been returned (R350). -/
def State.freeSeen (s : State) (gid : BitVec 32) : State :=
  match s.group gid with
  | some g => if g.terminal ∧ g.parent = 0 then s.setGroup (gidSlot gid) { g with state := gFREE } else s
  | none => s

/-- Queries a group: the state word, or with `p` the parent id (R360). -/
def State.queryGroup (s : State) (gid : BitVec 32) (ctx : Option (BitVec 16)) (p : Bool) : DWord × State :=
  match s.group gid with
  | none => (refused 1, s)
  | some g =>
    if ctx.any (· ≠ g.ctx) then (refused 3, s)
    else if p then (g.parent.setWidth 64, s) else (g.word, s.freeSeen gid)

/-- The id of a group on another module; id 0 names no group (R348). -/
def State.elsewhere (s : State) (gid : BitVec 32) : Bool := gid ≠ 0 && gidHome gid ≠ s.moduleNumber

/-- The request of a form to a group on another module, and its answer: LINKDOWN without a route (R360). -/
def remoteForm (gid : BitVec 32) (msg : GroupMsg) (c : Nat) (ag : Agent) (u : Unfinished) (s : State) (bound : Option Nat := none) : Fin :=
  match u.value with
  | some v => .done (s.setReg c ag u.dest v) none
  | none =>
    if u.sent then .hold s u bound (boundInfo 3 0)
    else match s.route (gidHome gid) with
      | none => .trap ⟨cLINKDOWN, BitVec.ofNat 64 (s.firstTried (gidHome gid))⟩ u
      | some port =>
        if s.routeHeld c (gidHome gid) port 3 then .hold s u bound (boundInfo 3 0) else
        .hold (s.send { dst := gidHome gid, port := port, cell := c, agent := ag, ctx := (s.whoOf c ag).ctx, sentAt := s.cycle, payload := .group msg })
          { u with sent := true } bound (boundInfo 3 0)

/-- The edges of an edge list (R356). -/
def edgesOf (bs : List Byte) (n : Nat) : List (Nat × Nat) := (List.range n).map fun i => (bytesAt bs (4 * i) 2, bytesAt bs (4 * i + 2) 2)

/-- Whether a parent accepts a group of a lower level, as a status (R352, R353): 0 when it does. -/
def State.parentStatus (s : State) (parent : BitVec 32) (level : Nat) (ctx : BitVec 16) : Nat :=
  if parent = 0 then 0 else
  match s.group parent with
  | none => 1
  | some g =>
    if g.level.toNat ≠ level then 1
    else if g.ctx ≠ ctx then 3
    else if !g.accepts then 2
    else if g.full then 4 else 0

/-- The status with which a parent takes a new group under the number `n` (R353, R357); a node that a graph does not accept
gives status 2 (DEDUCED, notes/assumptions/23). -/
def State.joinStatus (s : State) (parent : BitVec 32) (level : Nat) (ctx : BitVec 16) (n : Nat) : Nat :=
  let st := s.parentStatus parent level ctx
  if st ≠ 0 then st else if parent ≠ 0 ∧ level = 1 ∧ !s.graphAccepts parent ctx n then 2 else 0

/-- Opens a group under its parent as number `n`, or refuses (R349, R353, R357, R360). A parent on another module is asked,
and left again when this module has no slot. `bs` is what the form has read, kept while it asks. -/
def openUnder (g : Group) (n : Nat) (bs : List Byte) (c : Nat) (ag : Agent) (u : Unfinished) (s : State) : Fin :=
  let refuse := fun (s : State) (st : Nat) => Fin.done (s.setReg c ag u.dest (refused st)) none
  let create := fun (answer : DWord) (s : State) => match s.createGroup g with
    | none => refuse (s.leaveParent g.parent n) 4
    | some (gid, s) => Fin.done ((s.enterParent g.parent gid n answer).setReg c ag u.dest (gid.setWidth 64)) none
  if g.parent = 0 ∨ s.homed g.parent then
    let st := s.joinStatus g.parent (g.level.toNat + 1) g.ctx n
    if st ≠ 0 then refuse s st else create 0 s
  else match s.ask c ag u (gidHome g.parent) (.join g.parent (g.level.toNat + 1) g.ctx n) with
    | .unreachable port => .trap ⟨cLINKDOWN, BitVec.ofNat 64 port⟩ u
    | .waits s u => .hold s { u with got := bs } none 0
    | .answer v => if v.msb then .done (s.setReg c ag u.dest v) none else create v s

/-- A graph block that OPEN refuses (R356). -/
def badGraph (gb : List Byte) : Bool :=
  bytesAt gb 20 12 ≠ 0 || bytesAt gb 4 4 = 0 || decide (65536 < bytesAt gb 4 4) || decide (65536 < bytesAt gb 16 4)

/-- Opens a graph from its block and edges (R356). -/
def openGraph (gb eb : List Byte) (c : Nat) (ag : Agent) (u : Unfinished) (s : State) : Fin :=
  let nnode := bytesAt gb 4 4
  let par := BitVec.ofNat 32 (bytesAt gb 0 4)
  let edges := edgesOf eb (eb.length / 4)
  let ctx := (s.whoOf c ag).ctx
  let st := if s.homed par then s.parentStatus par 2 ctx else 0
  if st ≠ 0 then .done (s.setReg c ag u.dest (refused st)) none
  else if badGraph gb ∨ edges.any (fun (a, b) => b ≤ a || nnode ≤ b) then .done (s.setReg c ag u.dest (refused 5)) none
  else openUnder { state := gOPEN, level := 1, ctx := ctx, parent := par, node := BitVec.ofNat 32 nnode
                   nedge := BitVec.ofNat 32 (bytesAt gb 16 4), garg := BitVec.ofNat 64 (sext52 (bytesAt gb 8 8)), edges := edges }
    (s.joinKey c) (gb ++ eb) c ag u s

/-- The forms of `GCTL` OPEN (R356, R357, R360). -/
def openBody (level : Nat) (c : Nat) (ag : Agent) (u : Unfinished) (s : State) : Fin :=
  let ctx := (s.whoOf c ag).ctx
  let arg : BitVec 32 := field u.opa 0 32
  match level with
  | 0 =>
    let n := bitsAt u.opd.toNat 32 16
    openUnder { state := gOPEN, level := 0, ctx := ctx, parent := arg, node := if arg = 0 then 0 else BitVec.ofNat 32 n } n [] c ag u s
  | 1 =>
    let ea := effAddr u 0
    if !u.got.isEmpty then openGraph (u.got.take 32) (u.got.drop 32) c ag u s else
    afterRead (s.whoOf c ag) (s.blockRead c ag u ea 32 32) u s ea fun s gb =>
    afterRead (s.whoOf c ag) (s.blockRead c ag u (sext52 (bytesAt gb 8 8)) (if badGraph gb then 0 else 4 * bytesAt gb 16 4) 1) u s ea
      fun s eb => openGraph gb eb c ag u s
  | 2 => openUnder { state := gOPEN, level := 2, ctx := ctx, parent := arg } (s.joinKey c) [] c ag u s
  | _ =>
    let p := u.opa.toNat
    let bad := 2 ^ 25 ≤ p || [0, 8, 16].any fun o => bitsAt p (o + 4) 4 < bitsAt p o 4
    if bad then .done (s.setReg c ag u.dest (refused 5)) none
    else openUnder { state := gOPEN, level := 3, ctx := ctx, garg := u.opa } 0 [] c ag u s

/-- `GCTL` OPEN (R360). -/
def execGctlOpen (q : BitVec 4) (d a : BitVec 5) (l : BitVec 2) (s : State) : Host.Outcome State Fault Refusal :=
  .next (s.sIssue (.gctlOpen q d a l) { q := q, a := a, d := d, dest := d, alone := true, wicket := false } (openBody l.toNat))

/-- Ends a form with its result in `sd`. -/
def giveResult (r : DWord × State) (c : Nat) (ag : Agent) (u : Unfinished) : Fin := .done (r.2.setReg c ag u.dest r.1) none

/-- `GCTL` CLOSE (R352, R360). -/
def execGctlClose (q : BitVec 4) (d a : BitVec 5) (k : BitVec 2) (s : State) : Host.Outcome State Fault Refusal :=
  .next (s.sIssue (.gctlClose q d a k) { q := q, a := a, d := d, dest := d, alone := true, wicket := false } fun c ag u s =>
    let gid : BitVec 32 := field u.opa 0 32
    let ctx := (s.whoOf c ag).ctx
    if s.elsewhere gid then remoteForm gid (.close gid ctx k u.opd) c ag u s
    else giveResult (s.closeGroup gid (some ctx) k u.opd) c ag u)

/-- `GCTL` WAIT (R360): it stalls until the group is terminal. -/
def execGctlWait (q : BitVec 4) (d a : BitVec 5) (b : BitVec 4) (s : State) : Host.Outcome State Fault Refusal :=
  .next (s.sIssue (.gctlWait q d a b) { q := q, a := a, dest := d, alone := true, super := b = 15, wicket := false } fun c ag u s =>
    let gid : BitVec 32 := field u.opa 0 32
    let ctx := (s.whoOf c ag).ctx
    let bound := (s.cell c).bound ag b.toNat
    if s.elsewhere gid then remoteForm gid (.wait gid ctx) c ag u s bound
    else match u.value, s.group gid with
      | some v, g => giveResult (v, if g.any (·.word = v) then s.freeSeen gid else s) c ag u
      | none, none => giveResult (refused 1, s) c ag u
      | none, some g =>
        if g.ctx ≠ ctx then giveResult (refused 3, s) c ag u
        else if g.terminal then giveResult (g.word, s.freeSeen gid) c ag u
        else .hold s u bound (boundInfo 3 0))

/-- `GCTL` CANCEL (R352, R360). -/
def execGctlCancel (q : BitVec 4) (d a : BitVec 5) (s : State) : Host.Outcome State Fault Refusal :=
  .next (s.sIssue (.gctlCancel q d a) { q := q, a := a, dest := d, alone := true } fun c ag u s =>
    let gid : BitVec 32 := field u.opa 0 32
    let ctx := (s.whoOf c ag).ctx
    if s.elsewhere gid then remoteForm gid (.cancel gid ctx) c ag u s
    else giveResult (s.cancelOp gid (some ctx)) c ag u)

/-- `GCTL` QUERY (R360); id 0 names the issuing task's launch. -/
def execGctlQuery (q : BitVec 4) (d a : BitVec 5) (p : BitVec 1) (s : State) : Host.Outcome State Fault Refusal :=
  .next (s.sIssue (.gctlQuery q d a p) { q := q, a := a, dest := d, alone := true } fun c ag u s =>
    let gid : BitVec 32 := if field u.opa 0 32 = (0 : BitVec 32) then s.launchOf c else field u.opa 0 32
    let ctx := (s.whoOf c ag).ctx
    if s.elsewhere gid then remoteForm gid (.query gid ctx (p = 1)) c ag u s
    else giveResult (s.queryGroup gid (some ctx) (p = 1)) c ag u)

/-! ### Barriers -/

/-- A barrier's number in the barrier unit (R362). -/
def barrierKey (ctx : BitVec 16) (n : Nat) : Nat := ctx.toNat * 256 + n

/-- A barrier (R361). -/
def State.barrier (s : State) (k : Nat) : Barrier := (look s.disp.barriers k).getD {}

/-- The 32 bytes of a barrier entry (R364). -/
def Barrier.bytes (b : Barrier) : List Byte :=
  leBytes 2 (b.state.toNat + 4 * bit b.auto + 8 * bit b.err) ++ leBytes 2 b.epoch.toNat ++ leBytes 2 b.parts.toNat ++
    leBytes 2 b.arrv.toNat ++ leBytes 8 b.expect.toNat ++ leBytes 8 b.pend.toNat ++ leBytes 8 b.rtime.toNat

/-- Replaces a barrier; the table is written at a release (R362). -/
def State.setBarrier (s : State) (k : Nat) (b : Barrier) (released : Bool) : State :=
  let s := { s with disp := { s.disp with barriers := store s.disp.barriers k b } }
  if released then s.dwrite (s.disp.btbl.toNat + 32 * k) b.bytes else s

/-- An arrival of `n` bytes at a barrier (R367), with whether it releases. -/
def Barrier.arrive (b : Barrier) (n : DWord) (now : DWord) : Barrier × Bool :=
  if b.state = 0 ∨ b.state = 3 then ({ b with err := true }, false) else
  let b := if b.pend < n then { b with pend := 0, err := true } else { b with pend := b.pend - n }
  let b := if b.parts = 0 then b else if b.arrv = b.parts then { b with err := true } else { b with arrv := b.arrv + 1 }
  if b.pend = 0 ∧ (b.parts = 0 ∨ b.arrv = b.parts) then
    let b := { b with epoch := b.epoch + 1, rtime := now }
    (if b.auto then { b with arrv := 0, pend := b.expect, state := 1 } else { b with state := 3 }, true)
  else ({ b with state := 2 }, false)

/-- Completes the closed phases whose counter is 0 and whose boundary is met (R354). -/
def State.recheckPhases (s : State) : State :=
  (s.disp.groups.filter fun (_, g) => g.level = 2 && g.state = gCLOSING).foldl (fun s (k, _) => s.recheck (s.gidOf 2 k)) s

/-- A barrier's release meets the boundary of the closed phases that name it (R354). -/
def State.meetPhases (s : State) (ctx : BitVec 16) (barrier : Nat) : State :=
  { s with disp := { s.disp with groups := s.disp.groups.map fun (k, (g : Group)) =>
    (k, if g.level = 2 ∧ g.state = gCLOSING ∧ g.bnd = 2 ∧ g.ctx = ctx ∧ bitsAt g.bval.toNat 0 8 = barrier then { g with met := true } else g) } }

/-- Applies an arrival that has reached the barrier unit (R366, R367); a release may meet a phase's boundary (R368). -/
def State.applyArrival (s : State) (a : Arrival) : State :=
  let k := barrierKey a.ctx a.barrier
  let (b, r) := (s.barrier k).arrive a.bytes s.time
  let s := s.setBarrier k b r
  if r then (s.meetPhases a.ctx a.barrier).recheckPhases else s

/-- Applies every arrival on its way, in order (R366). -/
def State.drainArrivals (s : State) : State :=
  let l := s.disp.arrivals
  l.foldl State.applyArrival { s with disp := { s.disp with arrivals := [] } }

/-- An arm (R368): the result of R371 and the barrier. -/
def Barrier.arm (b : Barrier) (p : BitVec 16) (e : DWord) (auto : Bool) : DWord × Barrier :=
  if b.state = 1 ∨ b.state = 2 then (refused 1, b)
  else if p = 0 ∧ e = 0 then (refused 2, b)
  else ((b.epoch + 1).setWidth 64, { b with state := 1, parts := p, expect := e, pend := e, arrv := 0, err := false, auto := auto })

/-- `BARR` ARM (R371): arrivals sent before it are applied first (R366). -/
def execBarrArm (q : BitVec 4) (d a : BitVec 5) (ua : BitVec 1) (n : BitVec 8) (s : State) : Host.Outcome State Fault Refusal :=
  .next (s.sIssue (.barrArm q d a ua n) { q := q, a := a, d := d, dest := d, alone := true, wicket := false } fun c ag u s =>
    let s := s.drainArrivals
    let k := barrierKey (s.whoOf c ag).ctx n.toNat
    let (r, b) := (s.barrier k).arm (field u.opd 0 16) u.opa (ua = 1)
    giveResult (r, s.setBarrier k b false) c ag u)

/-- `BARR` ARRIVE (R372): it releases S's earlier accesses, then sends one arrival. -/
def execBarrArrive (q : BitVec 4) (a : BitVec 5) (n : BitVec 8) (s : State) : Host.Outcome State Fault Refusal :=
  .next (s.sIssue (.barrArrive q a n) { q := q, a := a } fun c ag u s =>
    if s.released c ag (s.olderOf c ag) 4 then
      .done (s.sendArrival c ag (s.whoOf c ag).ctx n.toNat u.opa) none
    else .pend s { u with finish := .arrive n.toNat u.opa.toNat })

/-- `BARR` WAIT (R373). -/
def execBarrWait (q : BitVec 4) (d a : BitVec 5) (b : BitVec 4) (s : State) : Host.Outcome State Fault Refusal :=
  .next (s.sIssue (.barrWait q d a b) { q := q, a := a, dest := d, super := b = 15, wicket := false } fun c ag u s =>
    let k := s.barrier (barrierKey (s.whoOf c ag).ctx (bitsAt u.opa.toNat 0 8))
    if (k.epoch - (field u.opa 16 16 : BitVec 16)).toNat < 2 ^ 15 then
      giveResult (BitVec.ofNat 64 (k.epoch.toNat + 65536 * k.state.toNat + 2 ^ 18 * bit k.err), s) c ag u
    else .hold s u ((s.cell c).bound ag b.toNat) (boundInfo 3 1))

/-- `WAITT` (R375). -/
def execWaitt (q : BitVec 4) (d a : BitVec 5) (b : BitVec 4) (s : State) : Host.Outcome State Fault Refusal :=
  .next (s.sIssue (.waitt q d a b) { q := q, a := a, dest := d, super := b = 15, wicket := false } fun c ag u s =>
    if u.opa ≤ s.time then giveResult (s.time, s) c ag u
    else .hold s u ((s.cell c).bound ag b.toNat) (boundInfo 3 2))

end Sys2Proof.Machine
end

