-- ==== Sys2Proof/Machine/Page.lean ====
section
/-! DEFINITION. `MIGR` and `INVPG` (R397, R398), the invalidation of translations (R382, R384), and the
migration engine's state changes (R386 to R393). -/

namespace Sys2Proof.Machine

/-- A range of virtual addresses: base and size. -/
abbrev VRange := Nat × Nat

/-- All addresses of a context. -/
def allAddrs : VRange := (0, 2 ^ 64)

/-- The range of an invalidation kind (R398). -/
def invRange (kind va : Nat) : VRange :=
  match kind with
  | 0 => (va / 65536 * 65536, 65536)
  | 1 => (va / 2 ^ 21 * 2 ^ 21, 2 ^ 21)
  | _ => allAddrs

/-- A cached translation of the context that an invalidation covers. -/
def TlbEntry.covered (e : TlbEntry) (ctx : BitVec 16) (r : VRange) : Bool :=
  e.ctx = ctx && overlaps e.va (pageSize e.large) r.1 r.2

/-- The cells of a scope around cell `c` (R77): STREAM acts as CELL, HOST and wider as PACKAGE (R398). -/
def cellsIn (scope c : Nat) : List Nat :=
  (List.range Config.cells).filter fun k =>
    if scope ≤ 1 then k = c else if scope = 2 then quadOf k = quadOf c else if scope = 3 then dieOf k = dieOf c else true

/-- Drops an invalidated register pair's entries (R383). -/
def dropPair (ctx : BitVec 16) (r : VRange) (p : Option TlbEntry × Option TlbEntry) : Option TlbEntry × Option TlbEntry :=
  (p.1.filter fun e => !e.covered ctx r, p.2.filter fun e => !e.covered ctx r)

/-- Discards the context's cached translations in a range, in the cells of a scope and their quads (R398). -/
def State.invalidate (s : State) (cells : List Nat) (ctx : BitVec 16) (r : VRange) : State :=
  let s := cells.foldl (fun (s : State) c => s.modCell c fun x => { x with
    tlb := x.tlb.filter fun e => !e.covered ctx r
    pageRegs := x.pageRegs.map (dropPair ctx r) }) s
  ((cells.map quadOf).eraseDups).foldl (fun (s : State) q => s.modQuad q fun y => { y with tlb := y.tlb.filter fun e => !e.covered ctx r }) s

/-- A task of a context that waits, or will wait once it is saved, for a page in a range (R385). -/
def State.awaitsPage (s : State) (ctx : BitVec 16) (r : VRange) (t : Task) : Bool :=
  t.record.ctxid = ctx &&
  (if t.state = .suspFault then t.record.scause = cNOTPRESENT && overlaps t.page 65536 r.1 r.2
   else t.cell.any fun c => (s.cell c).res.stop.any fun p => p.reason = .fault && overlaps p.page 65536 r.1 r.2)

/-- Wakes the tasks of a context suspended on NOTPRESENT in a range (R385); one whose save is not complete wakes
when it is. -/
def State.wakePages (s : State) (ctx : BitVec 16) (r : VRange) : State :=
  (s.disp.tasks.filter fun (_, t) => s.awaitsPage ctx r t).foldl
    (fun s (n, t) => if t.state = .suspFault then s.makeReady n else s.setTask n { t with woken := true }) s

/-- Stores a PTE by its physical address, as the migration engine does. -/
def State.storePte (s : State) (at_ : Nat) (e : DWord) : State := s.dwrite at_ (leBytes 8 e.toNat)

/-- The PTE at a physical address. -/
def State.readPte (s : State) (at_ : Nat) : DWord := BitVec.ofNat 64 (s.readPa 0 at_ 8).nat

/-- `SLU` of a PTE. -/
def sluBit : DWord := 0x100

/-- An entry of the sluice begins its abort: copying stops, the PTE's `SLU` becomes 0 and the translation is invalidated
(R393). -/
def State.abortMigration (s : State) (k reason : Nat) : State :=
  match s.page.sluice[k]? with
  | none => s
  | some e =>
    if e.state ≠ .sluice then s else
    let s := s.storePte e.pte (s.readPte e.pte &&& ~~~sluBit)
    ({ s with page := { s.page with sluice := s.page.sluice.set k { e with state := .aborting, reason := reason } } } : State).invalidate
      (List.range Config.cells) e.ctx (e.va, 65536)

/-- Aborts the migrations of pinned pages that an invalidation covers (R393, reason 2). -/
def State.abortPinned (s : State) (ctx : BitVec 16) (r : VRange) : State :=
  (List.range s.page.sluice.length).foldl (fun (s : State) k =>
    match s.page.sluice[k]? with
    | none => s
    | some e =>
      if e.ctx = ctx ∧ overlaps e.va 65536 r.1 r.2 ∧ leafPIN (s.readPte e.pte) ∧ leafSLU (s.readPte e.pte) then s.abortMigration k 2 else s) s

/-- An access that waits at a cell window, translated in the context and range for an agent of the cells (R106); one of the
dispatcher, which sits on no cell, counts for every scope. -/
def WindowAccess.uses (a : WindowAccess) (cells : List Nat) (ctx : BitVec 16) (r : VRange) : Bool :=
  (cells.contains a.agent.1 || decide (Config.cells ≤ a.agent.1)) && a.via.any fun o => o.ctx = ctx && overlaps o.va a.size r.1 r.2

/-- An unfinished access of an agent of the cells that was translated in the context and range (R106). -/
def State.usesRange (s : State) (cells : List Nat) (ctx : BitVec 16) (r : VRange) : Bool :=
  (s.cells.any fun x => (x.winWaits ++ x.winRegs).any fun a => a.uses cells ctx r) ||
  cells.any fun c =>
    let x := s.cell c
    (x.res.ctx = ctx && x.s.iss.unfinished.any fun u => u.memory && overlaps u.ea.toNat u.size r.1 r.2) ||
    x.wickets.any fun k => k.ctx = ctx && k.iss.unfinished.any fun u => u.memory && overlaps u.ea.toNat u.size r.1 r.2

/-- `INVPG` (R398). -/
def execInvpg (q : BitVec 4) (a : BitVec 5) (k : BitVec 2) (sc : BitVec 4) (s : State) : Host.Outcome State Fault Refusal :=
  .next (s.sIssue (.invpg q a k sc) { q := q, a := a, alone := true, super := true, wicket := false } fun c ag u s =>
    let va := u.opa.toNat
    match (if k = 2 then none else addrCheck va 1) with
    | some e => .trap (trapAt e va) u
    | none =>
      let ctx := (s.whoOf c ag).ctx
      let r := invRange k.toNat va
      let cells := cellsIn sc.toNat c
      let s := s.invalidate cells ctx r
      let mark := match u.value with
        | some v => v
        | none => BitVec.ofNat 64 s.mem.nextSeq
      let u := { u with value := some mark }
      if s.usesRange cells ctx r ∨ (4 ≤ sc.toNat ∧ s.mem.pend.any fun w => w.seq < mark.toNat) then .hold s u none 0
      else .done ((s.abortPinned ctx r).wakePages ctx r) none)

/-- The sluice entry of a page of a context, with its place in the table. -/
def State.sluiceOf (s : State) (ctx : BitVec 16) (page : Nat) : Option (Nat × Sluice) :=
  (List.range s.page.sluice.length).findSome? fun k => match s.page.sluice[k]? with
    | some e => if e.ctx = ctx ∧ e.va = page then some (k, e) else none
    | none => none

/-- The status of a `MIGR` START (R397), with the leaf when it may start. -/
def State.migrStatus (s : State) (c : Nat) (ctx : BitVec 16) (blk : List Byte) : Nat × Option (DWord × Nat) :=
  let f := bytesAt blk
  let mva := sext52 (f 0 8)
  let dpa := f 8 8
  if 2 ^ 52 ≤ f 0 8 ∨ 2 ^ 50 ≤ dpa ∨ f 16 8 ≠ 0 ∨ mva % 65536 ≠ 0 ∨ dpa % 65536 ≠ 0 then (6, none) else
  match s.walkFrom (dieOf c) ctx mva with
  | .leaf e false at_ =>
    if leafTier e = 3 then (1, none)
    else if leafPIN e then (2, none)
    else if leafSLU e ∨ (s.sluiceAt (leafFrame e)).isSome then (3, none)
    else if absent dpa ∨ touchesHole dpa 65536 ∨ (place dpa).tier = some 3 ∨ dpa = leafFrame e ∨ s.page.sluice.any (fun k => k.dst = dpa && k.ctx ≠ ctx) then (5, none)
    else if 64 ≤ s.page.sluice.length then (4, none)
    else (0, some (e, at_))
  | _ => (1, none)

/-- `MIGR` START (R397, R387): `CWORD` becomes 0, the entry starts, the PTE's `SLU` is set. -/
def execMigrStart (q : BitVec 4) (d a : BitVec 5) (s : State) : Host.Outcome State Fault Refusal :=
  .next (s.sIssue (.migrStart q d a) { q := q, a := a, dest := d, alone := true, super := true, wicket := false } fun c ag u s =>
    let ea := effAddr u 0
    let ctx := (s.whoOf c ag).ctx
    match s.blockCheck (s.whoOf c ag) ea 32 with
    | .trap t => .trap t (u.at ea)
    | .stall => .stall
    | .ok pa =>
      afterRead (s.whoOf c ag) (s.blockRead c ag u ea 32 32) u s ea fun s blk =>
      match s.migrStatus c ctx blk with
      | (0, some (e, at_)) =>
        let s := s.dwrite (pa + 24) (leBytes 8 0)
        let entry : Sluice := { ctx := ctx, va := sext52 (bytesAt blk 0 8), pte := at_, src := leafFrame e, dst := bytesAt blk 8 8
                                f := 0, state := .sluice, cword := pa + 24 }
        let s := { s with page := { s.page with sluice := s.page.sluice ++ [entry] } }
        giveResult (0, s.storePte at_ (e ||| sluBit)) c ag u
      | (st, _) => giveResult (BitVec.ofNat 64 st, s) c ag u)

/-- `MIGR` CANCEL (R397). -/
def execMigrCancel (q : BitVec 4) (d a : BitVec 5) (s : State) : Host.Outcome State Fault Refusal :=
  .next (s.sIssue (.migrCancel q d a) { q := q, a := a, dest := d, alone := true, super := true, wicket := false } fun c ag u s =>
    let ctx := (s.whoOf c ag).ctx
    match s.sluiceOf ctx (u.opa.toNat / 65536 * 65536) with
    | none => giveResult (7, s) c ag u
    | some (k, e) => if e.state = .sluice then giveResult (0, s.abortMigration k 3) c ag u else giveResult (8, s) c ag u)

/-- The number of a migration's state in the result of QUERY (R397). -/
def sluiceCode (x : SluiceState) : Nat :=
  match x with
  | .sluice => 1
  | .switching => 2
  | .aborting => 3

/-- `MIGR` QUERY (R397). -/
def execMigrQuery (q : BitVec 4) (d a : BitVec 5) (s : State) : Host.Outcome State Fault Refusal :=
  .next (s.sIssue (.migrQuery q d a) { q := q, a := a, dest := d, alone := true, super := true, wicket := false } fun c ag u s =>
    let ctx := (s.whoOf c ag).ctx
    let v := match s.sluiceOf ctx (u.opa.toNat / 65536 * 65536) with
      | some (_, e) => e.f + 512 * sluiceCode e.state + 2 ^ 11 * ((place e.src).tier.getD 0) + 2 ^ 13 * ((place e.dst).tier.getD 0)
      | none => match s.walkFrom (dieOf c) ctx u.opa.toNat with
        | .leaf e _ _ => 2 ^ 11 * leafTier e
        | _ => 2 ^ 15
    giveResult (BitVec.ofNat 64 v, s) c ag u)

end Sys2Proof.Machine
end

