-- ==== Sys2Proof/Machine/Finish.lean ====
section
/-! DEFINITION. How an unfinished S or wicket instruction finishes (R84, R140, R141, R165 to R169, R351, R372). -/

namespace Sys2Proof.Machine

/-- Finishes entry `k` of an agent; when it was the wait that holds issue, the wait ends. -/
def State.finishAt (s : State) (c : Nat) (ag : Agent) (k : Nat) : State :=
  let last := k + 1 = ((s.cell c).issue ag).unfinished.length
  (s.modIssue c ag fun i => if last then { i with wait := none } else i).finish c ag k

/-- The data of [`pa`, `pa` + `n`) returns for a load or `TDEF` at `va`: the entry traps on bad data, else `f` takes the
bytes. -/
def State.returnData (s : State) (c : Nat) (ag : Agent) (k : Nat) (older : List Unfinished) (u : Unfinished) (va pa n : Nat)
    (f : State → List Byte → State) : State :=
  if blockedBy older u || claimPending older u then s else
  match s.portRead c ag pa n u.since with
  | none => s.bar (c, ag) pa
  | some (s, d) =>
    let s := s.chargeBytes c pa n
    match d.trap va with
    | some t => (s.markTrap c ag k t).badRead (c, ag) false (s.served pa) n
    | none => f s d.bytes

/-- A queued `PSTF`, which its launch counts already (R351), leaves when no earlier REL fence or peer store is unfinished; without a route it raises
LINKDOWN (R405, R412). -/
def State.finishStore (s : State) (c : Nat) (ag : Agent) (k : Nat) (older : List Unfinished) (u : Unfinished) : State :=
  let det : Bool := match u.instr with | .pstf _ _ _ _ e _ => e = 1 | _ => false
  let waits := older.any fun v => v.relFence || v.peerStore
  match (if s.inTorus u.pa then s.route u.pa else none) with
  | none => s.markTrap c ag k ⟨cLINKDOWN, BitVec.ofNat 64 (s.firstTried u.pa)⟩
  | some port =>
    if waits || s.routeHeld c u.pa port (if det then 0 else 1) || 256 ≤ s.peerStores c then s
    else (s.sendStore c u.pa port u.ea.toNat u.size u.opd det).finishAt c ag k

/-- Finishes entry `k` of an agent as far as it may now; one that must still wait stays as it is. -/
def State.finishEntry (s : State) (c : Nat) (ag : Agent) (k : Nat) : State :=
  let l := ((s.cell c).issue ag).unfinished
  match l[k]? with
  | none => s
  | some u =>
    let older := l.take k
    let held := older.any (·.relFence)
    if u.trap.isSome then s else
    match u.finish with
    | .again => s
    | .load sz => s.returnData c ag k older u u.ea.toNat u.pa u.size fun s bs =>
        (s.setReg c ag u.dest (loadValue sz (leNat bs))).finishAt c ag k
    | .tdef entry =>
      let o := u.got.length
      s.returnData c ag k older u (u.ea.toNat + o) (u.pa + o) 8 fun s bs =>
        let got := u.got ++ bs
        if got.length < 64 then s.modIssue c ag fun i => { i with unfinished := modAt i.unfinished k fun v => { v with got := got } } else
        let d : BitVec 512 := BitVec.ofNat 512 (leNat got)
        if descField d 16 52 12 = 0 then
          (s.modCell c fun x => { x with tensors := x.tensors.set entry 0 }).finishAt c ag k
        else if tdefCheck d ≠ 0 then s.markTrap c ag k ⟨cFORMAT, BitVec.ofNat 64 (tdefCheck d)⟩
        else (s.modCell c fun x => { x with tensors := x.tensors.set entry d }).finishAt c ag k
    | .store =>
      if (older.any fun v => v.memory || v.relFence) || claimPending older u then s
      else (s.performStore c ag u.ea.toNat u.pa (leBytes u.size u.opd.toNat) u.pc).finishAt c ag k
    | .atomic _ =>
      let (o, scope, op) := atomicParts u.instr
      match u.value with
      | some v => if o.getLsbD 0 && !s.acquired c ag older scope then s else (s.setReg c ag u.dest v).finishAt c ag k
      | none =>
        if u.sent || !s.atomicReady c ag older u o scope then s
        else
          let (s, u) := s.sendAtomic c ag u op
          s.modIssue c ag fun i => { i with unfinished := i.unfinished.set k u }
    | .signal token n =>
      if s.released c ag older 3 && !held then (s.modCell c fun x => x.signal token n).finishAt c ag k else s
    | .pass tile code =>
      if s.released c ag older 1 && !held && !passPending older tile then
        (s.modCell c fun x => x.setShutter tile (BitVec.ofNat 3 code)).finishAt c ag k
      else s
    | .claim tile =>
      if held || passPending older tile then s
      else if (s.cell c).shutter tile = codeFree then (s.modCell c fun x => x.setShutter tile (agentCode ag)).finishAt c ag k
      else s.markTrap c ag k (shutterInfo tile ((s.cell c).shutter tile))
    | .fence scope _ =>
      if !s.released c ag older scope then s
      else match u.lost with
        | none => s.finishAt c ag k
        | some port => s.markTrap c ag k ⟨cLINKDOWN, BitVec.ofNat 64 port⟩
    | .peerStore => s.finishStore c ag k older u
    | .arrive barrier bytes =>
      if s.released c ag older 4 && !held then
        (s.sendArrival c ag (s.whoOf c ag).ctx barrier (BitVec.ofNat 64 bytes)).finishAt c ag k
      else s

end Sys2Proof.Machine
end

