-- ==== Sys2Proof/Machine/Engine.lean ====
section
/-! DEFINITION. The engine streams V, M and C: instruction fetch and the unrolling of counted loops (R109, R199,
R254, R333), the issue of the head entry (R110, R112, R114, R178, R230, R259), engine traps (R307), `ESTART` and
`ETRUNC` (R336, R337). -/

namespace Sys2Proof.Machine

/-! ### Fetch -/

/-- A word fetched at `pc` for cell `c`, from the instruction cache of 64 KiB, whose oldest word makes room (R12,
notes/assumptions/9), or through translation with execute
permission (R107, R380, R382); it waits while a shutter closes the scratchpad it lies in, at most the limit of
R21 from `since`. -/
def State.fetchWord (s : State) (c : Nat) (pc : DWord) (w : Who) (since : Option Nat) : Acc (State × Word) :=
  match look' (s.cell c).icache (w.ctx, pc) with
  | some v => .ok (s, v)
  | none =>
    match addrCheck pc.toNat 4 with
    | some k => .trap (trapAt k pc.toNat)
    | none =>
      if pc.toNat % 4 ≠ 0 then .trap (trapAt cALIGN pc.toNat) else
      match s.lookup { w with ag := .stream .s } pc.toNat with
      | .notPresent => .trap (trapAt cNOTPRESENT pc.toNat)
      | .bad u _ => .trap (trapAt (if u then cUNCORR else cPOISON) pc.toNat)
      | .leaf e large _ =>
        let pa := leafPa e large pc.toNat
        if !permitted e pa w.super { ex := true } then .trap (trapAt cPERM pc.toNat)
        else if !s.portOpen (c, w.ag) pa && (since.getD s.cycle) + portLimit > s.cycle then .stall
        else
          let d := if s.portOpen (c, w.ag) pa then s.readPa (dieOf c) pa 4 else ⟨[], some (0, false)⟩
          match d.trap pc.toNat with
          | some t => .trap t
          | none =>
            let v : Word := BitVec.ofNat 32 d.nat
            .ok ((s.chargeBytes c pa 4).modCell c fun x => { x with icache := (((w.ctx, pc), v) :: x.icache).take 16384 }, v)
where
  /-- The cached word of a key. -/
  look' (l : List ((BitVec 16 × DWord) × Word)) (k : BitVec 16 × DWord) : Option Word :=
    match l with
    | [] => none
    | (j, v) :: r => if j = k then some v else look' r k

/-- An end command of an engine stream (R206, R257, R284). -/
def isEnd (i : Instr) : Bool :=
  match i with
  | .vend _ | .mend _ | .cend _ => true
  | _ => false

/-- A queued entry behind which fetch places nothing: an unresolved `BRU`, an end command, a held fault (R198, R333). -/
def Entry.stopsFetch (st : Stream) (e : Entry) : Bool :=
  e.held.isSome || (match decode st e.word e.ext with
    | .instr (.bru ..) => true
    | .instr i => isEnd i
    | .reject _ => false)

/-- Fetch may place an entry (R333): an issued entry of the stream keeps its slot until it completes. -/
def Engine.mayFetch (g : Engine) (st : Stream) : Bool :=
  g.started && !g.ended && g.fetching && !g.quiesced && (g.queue.filter fun e => !e.inj).length + (g.inprog.filter fun k => !k.entry.inj).length < Config.queueDepth &&
    !g.queue.any (·.stopsFetch st)

/-- The instructions of a loop's body, with their program counters, as far as they can be read; extension words
are passed over. -/
def State.bodyOf (s : State) (c : Nat) (st : Stream) (w : Who) (fuel : Nat) (pc last : DWord) : List (DWord × Instr) :=
  match fuel with
  | 0 => []
  | fuel + 1 =>
    if last ≤ pc then [] else
    match s.fetchWord c pc w none with
    | .ok (s, v) =>
      let two := hasExtension st v
      let e := if two then (match s.fetchWord c (pc + 4) w none with | .ok (_, e) => e | _ => 0) else 0
      let r := s.bodyOf c st w fuel (pc + (if two then 8 else 4)) last
      (match decode st v e with
       | .instr i => (pc, i) :: r
       | .reject _ => r)
    | _ => s.bodyOf c st w fuel (pc + 4) last

/-- A loop instruction at `pc`: first program counter, trip count, register stepped (R199, R253, R283). A body that would
begin below address 0 begins before the stream's entry, and is given `pc` itself as its first, which no loop has (R254). -/
def loopOf (pc : DWord) (i : Instr) : Option (DWord × Nat × Option (Nat × Word)) :=
  let counted := fun (l : BitVec 6) (n : BitVec 8) (x : BitVec 3) (sc : BitVec 4) =>
    (if pc.toNat < 4 * l.toNat then pc else pc - BitVec.ofNat 64 (4 * l.toNat), (if n = 0 then 256 else n.toNat),
     some (x.toNat, if sc = 15 then (0 : Word) else BitVec.ofNat 32 (2 ^ sc.toNat)))
  match i with
  | .loopv n e o => some (pc + BitVec.ofInt 64 (4 * o.toInt), (if n = 0 then 512 else n.toNat) + e.toNat, none)
  | .mloop l n x sc => some (counted l n x sc)
  | .cloop l n x sc => some (counted l n x sc)
  | _ => none

/-- A loop that fetch does not unroll: its instruction raises ILLEGAL at the head (R199, R254). -/
def State.badLoop (s : State) (c : Nat) (st : Stream) (w : Who) (pc first : DWord) : Bool :=
  let g := (s.cell c).engine st
  let body := s.bodyOf c st w 8192 first pc
  if st = .v then
    body.any fun (p, i) => match i with
      | .loopv .. => true
      | .bru _ o => pc < p + BitVec.ofNat 64 (4 * o.toNat)
      | _ => false
  else
    first = pc || g.exts.contains first || decide (first.toNat < g.entry.toNat) ||
      body.any fun (_, i) => isEnd i || (loopOf 0 i).isSome

/-- The index registers with `i`n moved on by `k` steps. -/
def stepped (idx : List Word) (sp : Option (Nat × Word)) (k : Nat) : List Word :=
  match sp with
  | some (n, d) => idx.set n (idx.getD n 0 + BitVec.ofNat 32 k * d)
  | none => idx

/-- Places a loop instruction that has been fetched at `pc`: the next pass begins, or the loop ends (R199, R254).
`LOOPV` enters the queue in every pass, `MLOOP` and `CLOOP` once, after the last. -/
def Engine.placeLoop (g : Engine) (st : Stream) (en : Entry) (pc first : DWord) (trip : Nat) (sp : Option (Nat × Word)) : Engine :=
  let l : LoopState := match g.loops.getLast? with
    | some l => if l.last = pc ∧ l.unrolling then l else { first := first, last := pc, trip := trip, step := sp, idx := g.idx }
    | none => { first := first, last := pc, trip := trip, step := sp, idx := g.idx }
  let old := g.loops.filter fun k => k.last ≠ pc
  let here := { en with tag := l.pass - 1 }
  if l.pass < l.trip then
    { g with
      queue := if st = .v then g.queue ++ [here] else g.queue
      loops := old ++ [{ l with pass := l.pass + 1 }], fpc := l.first, idx := stepped l.idx sp l.pass }
  else
    { g with
      queue := g.queue ++ [here]
      loops := old ++ [{ l with unrolling := false }], fpc := pc + 4, idx := stepped l.idx sp l.pass }

/-- The tag of an entry fetched at `pc` (R199, R254). -/
def Engine.tagAt (g : Engine) (pc : DWord) : Nat :=
  match g.loops.getLast? with
  | some l => if l.unrolling ∧ l.first ≤ pc ∧ pc ≤ l.last then l.pass - 1 else 0
  | none => 0

/-- Places the next entry of an engine stream of cell `c` (R109, R231, R333). -/
def State.placeEntry (s : State) (c : Nat) (st : Stream) : State :=
  let g := (s.cell c).engine st
  if st = .s || !g.mayFetch st then s else
  let w := s.whoOf c (.stream st)
  let pc := g.fpc
  let base : Entry := { pc := pc, word := 0, tag := g.tagAt pc, idx := g.idx }
  let hold := fun (t : TrapInfo) => (s.badAt { w with ag := .stream .s } true 4 t).modCell c fun x => x.modEngine st fun g =>
    { g with queue := g.queue ++ [{ base with held := some t }], fetchSince := none }
  let wait := s.modCell c fun x => x.modEngine st fun g => { g with fetchSince := some (g.fetchSince.getD s.cycle) }
  match s.fetchWord c pc w g.fetchSince with
  | .stall => wait
  | .trap t => hold t
  | .ok (s, v) =>
    let two := hasExtension st v
    match (if two then s.fetchWord c (pc + 4) w g.fetchSince else .ok (s, 0)) with
    | .stall => wait
    | .trap t => hold t
    | .ok (s, ext) =>
      let en := { base with word := v, ext := ext }
      let next := pc + (if two then 8 else 4)
      let place := fun (en : Entry) (g : Engine) =>
        { g with queue := g.queue ++ [en], fpc := next, fetchSince := none, exts := if two then (pc + 4) :: g.exts else g.exts }
      match decode st v ext with
      | .reject _ => s.modCell c fun x => x.modEngine st (place en)
      | .instr i =>
        match loopOf pc i with
        | none => s.modCell c fun x => x.modEngine st (place en)
        | some (first, trip, sp) =>
          let known := g.loops.any fun l => l.last = pc && l.unrolling
          if !known && s.badLoop c st w pc first then
            s.modCell c fun x => x.modEngine st (place { en with held := some ⟨cILLEGAL, wordInfo v 0⟩ })
          else s.modCell c fun x => x.modEngine st fun g => { (g.placeLoop st en pc first trip sp) with fetchSince := none }

/-- FETCHES ONE ENTRY of an engine stream of cell `c` (R333); into an empty queue it comes as the head (R114). -/
def State.engineFetch (s : State) (c : Nat) (st : Stream) : State :=
  let t := s.placeEntry c st
  if ((s.cell c).engine st).queue.isEmpty && !((t.cell c).engine st).queue.isEmpty then
    t.modCell c fun x => x.modEngine st fun g => { g with headSince := some s.cycle }
  else t

/-! ### Issue of the head entry -/

/-- The head entry of the stream is the one in the injection slot (R38). -/
def Cell.fromSlot (x : Cell) (st : Stream) : Bool := st = Stream.m && x.m.inject.isSome && !x.m.rowValid && x.em.nextStep = 0

/-- The head entry of a stream may issue: the stream runs; the command in the injection slot does not ask for that, but
that no trap has stopped it and that the image is not being stopped (R38, R307). -/
def Cell.headRuns (x : Cell) (st : Stream) : Bool :=
  let g := x.engine st
  !g.quiesced && (if x.fromSlot st then !x.m.injectHeld else g.started && !g.ended && !g.stopped)

/-- An engine trap (R307): the stream stops at the entry and S is to take the trap; NOTPRESENT suspends the task
instead (R225, R385). A suspension that waits for M to retire an accumulator turns into the fault's (R301). -/
def State.engineTrap (s : State) (c : Nat) (st : Stream) (h : Entry) (t : TrapInfo) : State :=
  if t.cause = cNOTPRESENT then
    (s.modCell c fun x => x.modEngine st fun g => { g with quiesced := true }).absorb c t.info
  else
    let s := if h.held.isSome then s else s.badAt (s.whoOf c (.stream st)) false 1 t
    s.modCell c fun x =>
    let x := x.modEngine st fun g => { g with stopped := true }
    let x := if x.fromSlot st && h.inj then { x with m := { x.m with injectHeld := true } } else x
    { x with trap := { x.trap with pending := x.trap.pending ++ [⟨st, t, eposOf st h.pc h.tag h.inj⟩] } }

/-- How an entry's try to issue ends. -/
inductive EFin where
  /-- finished and out of the queue -/
  | done (s : State)
  /-- issued, with the number of steps performed: in progress until its completion -/
  | issued (s : State) (steps : Nat)
  /-- at the head, with the steps below `next` performed -/
  | part (s : State) (next : Nat)
  | wait (s : State)
  /-- stopped before it issues, or at a step -/
  | trap (s : State) (t : TrapInfo) (next : Option Nat)

/-- The same end with its state changed. -/
def EFin.map (r : EFin) (f : State → State) : EFin :=
  match r with
  | .done s => .done (f s)
  | .issued s n => .issued (f s) n
  | .part s n => .part (f s) n
  | .wait s => .wait (f s)
  | .trap s t n => .trap (f s) t n

/-- A trap that a false predicate does not keep away (R112). -/
def EFin.tested (r : EFin) : Bool :=
  match r with
  | .trap _ t _ => t.cause = cILLEGAL || t.cause = cPRIV
  | _ => false

/-- The end of a try of an entry of state `s` some of whose registers hold an uncorrectable error: UNCORR, unless the entry
waits or its own trap comes first (R131, R425). -/
def EFin.uncorr (r : EFin) (s : State) : EFin :=
  match r with
  | .trap s' t n => .trap s' (uncorrFirst t) n
  | .wait s' => .wait s'
  | _ => .trap s ⟨cUNCORR, 0⟩ none

/-- The cycle from which the head entry's bound counts (R114): its first cycle at the head of the queue. An injected command
counts from the cycle in which it leaves its slot (R119, notes/assumptions/102). -/
def Cell.reachedAt (x : Cell) (st : Stream) : Option Nat :=
  if x.fromSlot st then none else (x.engine st).headSince

/-- Takes the head entry out of the queue or the injection slot. -/
def Cell.leaveHead (x : Cell) (st : Stream) (now : Nat) : Cell :=
  if x.fromSlot st then { x with m := { x.m with inject := none } }
  else x.modEngine st fun g =>
    let q := g.queue.drop 1
    { g.freshHead with queue := q
                       headSince := if q.isEmpty then none else some now }

/-- Keeps a begun command at the head of the queue with its next step and the tensor table that it has read (R128); an
injected one leaves its slot in cycle `now`. -/
def Cell.keepHead (x : Cell) (st : Stream) (h : Entry) (next now : Nat) : Cell :=
  if x.fromSlot st then
    let x := x.modEngine st fun g => { g with queue := h :: g.queue, nextStep := next, headSince := some now, table := some x.tensors, headPhase := some g.phaseNow }
    { x with m := { x.m with inject := none } }
  else x.modEngine st fun g => { g with nextStep := next, table := some (g.table.getD x.tensors), headPhase := some g.phaseNow }

/-- The reduction count of M runs from the first step of a command that no open tile precedes (R227, R228). -/
def Cell.beginCount (x : Cell) (st : Stream) (now : Nat) : Cell :=
  if st = .m && x.m.openTiles = 0 && x.em.inprog.isEmpty && x.em.nextStep = 0 then { x with m := { x.m with retiredAt := now } } else x

/-- The head entry waits: its bound runs from its first cycle at the head. -/
def Cell.waitHead (x : Cell) (st : Stream) (now : Nat) : Cell :=
  x.modEngine st fun g => { g with headSince := if x.fromSlot st then g.headSince else some (g.headSince.getD now), waiting := true }

/-- Ends the try of the head entry `h`. -/
def State.eConclude (s : State) (c : Nat) (st : Stream) (i : Instr) (h : Entry) (r : EFin) : State :=
  match r with
  | .wait s => (s.modCell c fun x => x.waitHead st s.cycle).stall
  | .done s => s.modCell c fun x => x.leaveHead st s.cycle
  | .issued s n => s.modCell c fun x =>
      let fresh : Bool := st = Stream.m && x.m.openTiles = 0 && (x.engine st).inprog.isEmpty && (x.engine st).nextStep = 0
      let since := (x.reachedAt st).getD s.cycle
      let table := (x.engine st).table.getD x.tensors
      let rounds := (x.engine st).rounds
      let x := x.leaveHead st s.cycle
      let x := x.modEngine st fun k => { k with inprog := k.inprog ++ [{ instr := i, entry := h, since := since, next := n, table := table, rounds := rounds }] }
      if st = Stream.m then { x with m := { x.m with rowValid := false, retiredAt := if fresh then s.cycle else x.m.retiredAt } } else x
  | .part s n => (s.modCell c fun x => ((x.beginCount st s.cycle).keepHead st h n s.cycle).waitHead st s.cycle).stall
  | .trap s t next =>
    let s := match next with
      | none => s
      | some n => s.modCell c fun x =>
        let x := (x.beginCount st s.cycle).keepHead st h n s.cycle
        if st = Stream.m then { x with m := { x.m with rowNext := BitVec.ofNat 24 n, rowValid := true } } else x
    (s.modCell c fun x => x.modEngine st fun g => { g with headSince := none, waiting := false, wantsOwn := false, table := none }).engineTrap c st h t

/-- What an engine entry needs at issue: predicate and source registers of V, and whether its bound is 15. -/
structure EForm where
  q : BitVec 4 := 0
  srcs : List (BitVec 6) := []
  unbounded : Bool := false
  /-- its own operation tests for ILLEGAL or PRIV (R112) -/
  tests : Bool := false
  deriving DecidableEq, Repr

/-- A command's operation on the tensor table that the command read when it began (R128). -/
def State.onTable (s : State) (c : Nat) (table : Option (List (BitVec 512))) (f : State → EFin) : EFin :=
  match table with
  | none => f s
  | some l =>
    let now := (s.cell c).tensors
    (f (s.modCell c fun x => { x with tensors := l })).map fun s => s.modCell c fun x => { x with tensors := now }

/-- A V register of cell `c` holds an uncorrectable error (R425). -/
def State.vregUncorr (s : State) (c : Nat) (rs : List (BitVec 6)) : Bool :=
  !s.mem.uncorr.isEmpty && rs.any fun r => s.mem.uncorr.contains (.vectorReg c r.toNat)

/-- THE ISSUE of the engine instruction `i` at the head of stream `st` of the focus's cell: a held fault, the
tests of R110, R112 and R114, then the instruction's own operation, in the order of R131. -/
def State.eIssue (s : State) (st : Stream) (i : Instr) (f : EForm) (body : Nat → Entry → State → EFin) : State :=
  let c := s.focus.1
  let x := s.cell c
  match x.head st with
  | none => s.stall
  | some h =>
    if !x.headRuns st then s.stall else
    let go := s.eConclude c st i h
    let run := fun (s : State) => s.onTable c (x.engine st).table (body c h)
    match h.held with
    | some t => go (.trap s t none)
    | none =>
      if !i.wellFormed then go (.trap s ⟨cILLEGAL, wordInfo h.word 0⟩ none)
      else if f.unbounded && !x.s.super then go (.trap s ⟨cPRIV, wordInfo h.word 0⟩ none)
      else if st = .v && !predHolds x.v.preds f.q && !(f.tests && (run s).tested) then
        go (.done (s.modCell c fun x => x.charge x.weights.vector.toNat))
      else if s.vregUncorr c f.srcs then go ((run s).uncorr s)
      else go (run s)

/-- A word at the head that decodes to no instruction raises ILLEGAL (R110). -/
def State.eReject (s : State) (c : Nat) (st : Stream) : State :=
  match (s.cell c).head st with
  | none => s.stall
  | some h =>
    if !(s.cell c).headRuns st then s.stall
    else s.eConclude c st (.mend 0) h (.trap s ((h.held).getD ⟨cILLEGAL, wordInfo h.word 0⟩) none)

/-- Runs steps `k` on of a command, `fuel` at most; `total` steps make it complete. -/
def runSteps (fuel k total : Nat) (step : Nat → State → Acc State) (s : State) : EFin :=
  if total ≤ k then .issued s total else
  match fuel with
  | 0 => .part s k
  | fuel + 1 =>
    match step k s with
    | .ok s => runSteps fuel (k + 1) total step s
    | .trap t => .trap s t (some k)
    | .stall => if k = 0 then .wait s else .part s k

/-- The steps of a command from its next step on; one step when the debugger steps the stream (R433). -/
def State.runCommand (s : State) (c : Nat) (st : Stream) (total : Nat) (step : Nat → State → Acc State) : EFin :=
  let k := ((s.cell c).engine st).nextStep
  runSteps (if (s.cell c).dbg.stepping.isSome then 1 else total - k) k total step s

/-! ### `ESTART` and `ETRUNC` -/

/-- The streams a mask selects (R336). -/
def selected (m : BitVec 3) : List Stream := engines.filter fun st => m.getLsbD (streamNumber st - 1)

/-- Starts a stream at a program counter with its index registers (R336). -/
def Cell.startEngine (x : Cell) (st : Stream) (pc : DWord) (idx : List Word) : Cell :=
  x.modEngine st fun g =>
    { started := true, fetching := true, fpc := pc, entry := pc, idx := idx, phase := g.phase, inprog := g.inprog }

/-- The header address and header of the kernel of cell `c`'s task (R340). -/
def State.kernelOf (s : State) (c : Nat) : Nat × BitVec 512 :=
  match (s.cell c).res.task.bind s.task with
  | some t => s.taskKernel t
  | none => (0, 0)

/-- Start of a selected stream from the header copy: entry offset 0 is no section (R339). -/
def State.headerStart (s : State) (c : Nat) (st : Stream) : Option (DWord × List Word) :=
  let (base, h) := s.kernelOf c
  let off := bitsAt h.toNat (8 * 40 + 32 * streamNumber st) 32
  if off = 0 then none else some (BitVec.ofNat 64 (base + off), List.replicate 8 0)

/-- Start of a selected stream from the start block (R336). -/
def blockStart (bs : List Byte) : Option (DWord × List Word) :=
  let pc := bytesAt bs 0 8
  if bytesAt bs 40 24 ≠ 0 ∨ !canonical pc ∨ pc % 4 ≠ 0 then none
  else some (BitVec.ofNat 64 pc, (List.range 8).map fun k => BitVec.ofNat 32 (bytesAt bs (8 + 4 * k) 4))

/-- The starts of the selected streams read from the block at `ea`, 64 bytes for each, or `none` when one is not valid. -/
def State.readStarts (s : State) (w : Who) (since : Nat) (ea : Nat) (sel : List Stream) : Acc (State × Option (List (DWord × List Word))) :=
  match sel with
  | [] => .ok (s, some [])
  | st :: r =>
    match s.readVa w since 40 (ea + 64 * (streamNumber st - 1) : Nat) 64 with
    | .trap t => .trap t
    | .stall => .stall
    | .ok (s, bs) =>
      match s.readStarts w since ea r with
      | .ok (s, l) => .ok (s, match blockStart bs, l with | some a, some l => some (a :: l) | _, _ => none)
      | x => x

/-- `ESTART` (R336). It waits until S's earlier accesses are complete and performed at DIE scope, so that every
entry of a started stream issues after them (DESIGN CHOICE, notes/assumptions/25). -/
def execEstart (q : BitVec 4) (a : BitVec 5) (m : BitVec 3) (s : State) : Host.Outcome State Fault Refusal :=
  .next (s.sIssue (.estart q a m) { q := q, a := a, wicket := false, tests := true } fun c ag u s =>
    let sel := selected m
    let x := s.cell c
    let start := fun (s : State) (l : List (DWord × List Word)) =>
      s.modCell c fun x => (sel.zip l).foldl (fun x (st, pc, idx) => x.startEngine st pc idx) x
    if sel.any fun st => (x.engine st).started && !(x.engine st).ended then .trap ⟨cILLEGAL, wordInfo u.word 0⟩ u
    else if !s.released c ag (s.olderOf c ag) 3 then .hold s u none 0
    else if u.opa = 0 then
      match sel.mapM (s.headerStart c) with
      | none => .trap ⟨cFORMAT, 0⟩ u
      | some l => .done (start s l) none
    else
      let ea := effAddr u 0
      match addrCheck ea 64 with
      | some k => .trap (trapAt k (ea % 2 ^ 64).toNat) (u.at ea)
      | none =>
        if ea.toNat % 64 ≠ 0 then .trap (trapAt cALIGN ea.toNat) (u.at ea) else
        afterRead (s.whoOf c ag) (s.readStarts (s.whoOf c ag) u.since ea.toNat sel) u s ea fun s l =>
          match l with
          | none => .trap ⟨cFORMAT, 0⟩ (u.at ea)
          | some l => .done (start s l) none)

/-- The entry was fetched from a loop's body or is its instruction. -/
def LoopState.has (l : LoopState) (e : Entry) : Bool := !e.inj && l.first ≤ e.pc && e.pc ≤ l.last

/-- The current loop of a stream (R337): the oldest with an unissued entry, or the one that fetch unrolls; `begun` when the
head has issued. -/
def Engine.currentLoop (g : Engine) (begun : Bool) : Option LoopState :=
  g.loops.find? fun l => l.unrolling || (g.queue.drop (bit begun)).any l.has

/-- Shortens a loop to `n` passes (R39, R334): its entries with a tag at or above `n` are squashed, entries beyond
the loop are discarded, and fetch goes on after the passes that remain. A head that has issued (`begun`) completes. -/
def Engine.truncate (g : Engine) (l : LoopState) (n : Nat) (begun : Bool) : Engine :=
  let head := if begun then g.queue.take 1 else []
  let rest := g.queue.drop head.length
  let before := rest.takeWhile fun e => !l.has e
  let kept := (rest.filter l.has).filter fun e => decide (e.tag < n)
  let queue := head ++ before ++ kept
  let stays : Bool := queue.head? = g.queue.head?
  let g := { g with queue := queue, headSince := if stays then g.headSince else none, waiting := g.waiting && stays, wantsOwn := g.wantsOwn && stays }
  if l.unrolling ∧ l.pass ≤ n then { g with loops := [{ l with trip := n }] }
  else { g with loops := [{ l with trip := n, unrolling := false }], fpc := l.last + 4, idx := stepped l.idx l.step n, fetchSince := none }

/-- The command at the head of a stream has issued: it has done steps, sent its lines, or stopped under R225. -/
def Cell.headBegun (x : Cell) (st : Stream) : Bool :=
  (x.engine st).nextStep ≠ 0 || (x.engine st).progress ≠ (0, 0) || (st = .m && x.m.rowValid)

/-- The effect of `ETRUNC` on a stream: the trip count that stands, and the cell (R337). -/
def Cell.etrunc (x : Cell) (st : Stream) (n : Nat) : Nat × Cell :=
  let g := x.engine st
  if !g.started || g.ended then (65535, x) else
  match g.currentLoop (x.headBegun st) with
  | none => (65535, x)
  | some l =>
    if l.trip ≤ n then (l.trip, x) else
    (n, x.modEngine st fun g => g.truncate l n (x.headBegun st))

/-- The body of `ETRUNC` (R337). -/
def etruncBody (e : BitVec 2) (n : Nat) (c : Nat) (ag : Agent) (u : Unfinished) (s : State) : Fin :=
  let (r, x) := (s.cell c).etrunc (streamOf e.toNat) n
  .done ((s.setCell c x).setReg c ag u.dest (BitVec.ofNat 64 r)) none

/-- `ETRUNC` with a count (R337). -/
def execEtruncImm (q : BitVec 4) (d : BitVec 5) (n : BitVec 8) (e : BitVec 2) (s : State) : Host.Outcome State Fault Refusal :=
  .next (s.sIssue (.etruncImm q d n e) { q := q, dest := d, wicket := false } (etruncBody e n.toNat))

/-- `ETRUNC` with a register's low 16 bits (R337). -/
def execEtruncReg (q : BitVec 4) (d a : BitVec 5) (e : BitVec 2) (s : State) : Host.Outcome State Fault Refusal :=
  .next (s.sIssue (.etruncReg q d a e) { q := q, a := a, dest := d, wicket := false } fun c ag u s =>
    etruncBody e (bitsAt u.opa.toNat 0 16) c ag u s)

end Sys2Proof.Machine
end

