-- ==== Sys2Proof/Machine/Vector.lean ====
section
/-! DEFINITION. The V stream's arithmetic, compares, selects, lane moves and conversions (R172 to R190). -/

namespace Sys2Proof.Machine

/-! ### Lanes and elements -/

/-- Element `e` of width `w` bits (R172). -/
def elem (l : Line) (w e : Nat) : Nat := bitsAt l.toNat (w * e) w

/-- The line of `n` elements of width `w` that `f` gives. -/
def lineOf (w n : Nat) (f : Nat → Nat) : Line :=
  BitVec.ofNat 2048 ((List.range n).foldr (fun e acc => f e % 2 ^ w + 2 ^ w * acc) 0)

/-- Lane `j`. -/
def lane (l : Line) (j : Nat) : Nat := elem l 32 j

/-- The top mask (R175). -/
def VUnit.top (v : VUnit) : BitVec 64 := v.masks.headD (BitVec.allOnes 64)

/-- The lanes of `new` where the mask is 1, else those of `old` (R176). -/
def merge (t : BitVec 64) (old new : Line) : Line := lineOf 32 64 fun j => if t.getLsbD j then lane new j else lane old j

/-- A vector register. -/
def VUnit.reg (v : VUnit) (r : BitVec 6) : Line := v.regs.getD r.toNat 0

/-- Writes a vector register. -/
def VUnit.setReg (v : VUnit) (r : BitVec 6) (l : Line) : VUnit := { v with regs := v.regs.set r.toNat l }

/-- An element type of R172: width, float format, signedness of compares, and the range when it saturates. -/
structure Ty where
  w : Nat
  fmt : Option Nat := none
  signed : Bool := true
  range : Option (Int × Int) := none
  deriving DecidableEq, Repr

/-- The element types by code (R172, R173). -/
def tyOf (t : Nat) : Ty :=
  match t with
  | 0 => { w := 32, fmt := some 0 }
  | 1 => { w := 32 }
  | 2 => { w := 32, range := some (-2147483648, 2147483647) }
  | 3 => { w := 32, signed := false, range := some (0, 4294967295) }
  | 4 => { w := 16, fmt := some 1 }
  | 5 => { w := 16, fmt := some 2 }
  | 6 => { w := 16 }
  | 7 => { w := 16, range := some (-32768, 32767) }
  | 8 => { w := 8 }
  | 9 => { w := 8, range := some (-128, 127) }
  | _ => { w := 8, signed := false, range := some (0, 255) }

/-- The integer an element holds (R173). -/
def Ty.int (y : Ty) (x : Nat) : Int := if y.signed then sextNat y.w x else x

/-- An exact integer result reduced to the element (R173). -/
def Ty.reduce (y : Ty) (x : Int) : Nat :=
  match y.range with
  | some (lo, hi) => intCode y.w (clampInt lo hi x)
  | none => intCode y.w x

/-- An element operation: on floats by exact values with one rounding, on integers by exact values (R173). -/
def Ty.op (y : Ty) (ff : Num → Num → Num → Num) (fi : Int → Int → Int → Int) (a b d : Nat) : Nat :=
  match y.fmt with
  | some f => rne f (ff (fmtValue f a) (fmtValue f b) (fmtValue f d))
  | none => y.reduce (fi (y.int a) (y.int b) (y.int d))

/-! ### The shape of V instructions -/

/-- A V instruction that finishes at once as a change of the vector unit (R178); it is charged as issued (R315). -/
def State.vDone (s : State) (c : Nat) (f : VUnit → VUnit) : EFin :=
  .done (s.modCell c fun x => { x with v := f x.v }.charge x.weights.vector.toNat)

/-- Marks a register's error as overwritten once every lane has been written (R425). -/
def State.vClear (s : State) (c : Nat) (d : BitVec 6) : State :=
  if (s.cell c).v.top = BitVec.allOnes 64 then s.overwrite (.vectorReg c d.toNat) else s

/-- A V instruction that writes the lanes of `vd` where the top mask is 1 (R176). -/
def State.vWrite (s : State) (i : Instr) (f : EForm) (d : BitVec 6) (val : VUnit → Line) : State :=
  s.eIssue .v i f fun c _ s => (s.vClear c d).vDone c fun v => v.setReg d (merge v.top (v.reg d) (val v))

/-- `VADD` and its fellows: an element operation on `va`, `vb` and the old `vd` (R179). -/
def elementwise (t : Nat) (ff : Num → Num → Num → Num) (fi : Int → Int → Int → Int) (a b d : Line) : Line :=
  let y := tyOf t
  lineOf y.w (2048 / y.w) fun e => y.op ff fi (elem a y.w e) (elem b y.w e) (elem d y.w e)

/-! ### Arithmetic -/

/-- `VADD` (R179). -/
def execVadd (q : BitVec 4) (d a b : BitVec 6) (t : BitVec 4) (s : State) : Host.Outcome State Fault Refusal :=
  .next (s.vWrite (.vadd q d a b t) { q := q, srcs := [a, b] } d fun v =>
    elementwise t.toNat (fun x y _ => x.add y) (fun x y _ => x + y) (v.reg a) (v.reg b) (v.reg d))

/-- `VSUB` (R179). -/
def execVsub (q : BitVec 4) (d a b : BitVec 6) (t : BitVec 4) (s : State) : Host.Outcome State Fault Refusal :=
  .next (s.vWrite (.vsub q d a b t) { q := q, srcs := [a, b] } d fun v =>
    elementwise t.toNat (fun x y _ => x.add y.neg) (fun x y _ => x - y) (v.reg a) (v.reg b) (v.reg d))

/-- `VMUL` (R179). -/
def execVmul (q : BitVec 4) (d a b : BitVec 6) (t : BitVec 4) (s : State) : Host.Outcome State Fault Refusal :=
  .next (s.vWrite (.vmul q d a b t) { q := q, srcs := [a, b] } d fun v =>
    elementwise t.toNat (fun x y _ => x.mul y) (fun x y _ => x * y) (v.reg a) (v.reg b) (v.reg d))

/-- `VFMA`: exact, one rounding or one reduction (R179). -/
def execVfma (q : BitVec 4) (d a b : BitVec 6) (t : BitVec 4) (s : State) : Host.Outcome State Fault Refusal :=
  .next (s.vWrite (.vfma q d a b t) { q := q, srcs := [a, b, d] } d fun v =>
    elementwise t.toNat (fun x y z => (x.mul y).add z) (fun x y z => x * y + z) (v.reg a) (v.reg b) (v.reg d))

/-- `VMIN` (R179). -/
def execVmin (q : BitVec 4) (d a b : BitVec 6) (t : BitVec 4) (s : State) : Host.Outcome State Fault Refusal :=
  .next (s.vWrite (.vmin q d a b t) { q := q, srcs := [a, b] } d fun v =>
    elementwise t.toNat (fun x y _ => x.min y) (fun x y _ => min x y) (v.reg a) (v.reg b) (v.reg d))

/-- `VMAX` (R179). -/
def execVmax (q : BitVec 4) (d a b : BitVec 6) (t : BitVec 4) (s : State) : Host.Outcome State Fault Refusal :=
  .next (s.vWrite (.vmax q d a b t) { q := q, srcs := [a, b] } d fun v =>
    elementwise t.toNat (fun x y _ => x.max y) (fun x y _ => max x y) (v.reg a) (v.reg b) (v.reg d))

/-- A correctly rounded function of each float element (R180). -/
def floatwise (t : Nat) (f : Nat → Num → Nat) (a : Line) : Line :=
  let y := tyOf t
  let k := y.fmt.getD 0
  lineOf y.w (2048 / y.w) fun e => f k (fmtValue k (elem a y.w e))

/-- `VRCP` (R180). -/
def execVrcp (q : BitVec 4) (d a : BitVec 6) (t : BitVec 4) (s : State) : Host.Outcome State Fault Refusal :=
  .next (s.vWrite (.vrcp q d a t) { q := q, srcs := [a] } d fun v => floatwise t.toNat recip (v.reg a))

/-- `VEXP` (R180). -/
def execVexp (q : BitVec 4) (d a : BitVec 6) (t : BitVec 4) (s : State) : Host.Outcome State Fault Refusal :=
  .next (s.vWrite (.vexp q d a t) { q := q, srcs := [a] } d fun v => floatwise t.toNat exp2 (v.reg a))

/-! ### Compare, select and logic -/

/-- The conditions of R181 on float values. -/
def condFloat (c : Nat) (a b : Num) : Bool :=
  match c with
  | 0 => a.eqv b
  | 1 => !a.eqv b
  | 2 => a.lt b
  | 3 => a.lt b || a.eqv b
  | _ => a.isNan || b.isNan

/-- The conditions of R181 on integer elements. -/
def Ty.cond (y : Ty) (c a b : Nat) : Bool :=
  match c with
  | 0 => a = b
  | 1 => a ≠ b
  | 2 => y.int a < y.int b
  | 3 => y.int a ≤ y.int b
  | 4 => a < b
  | _ => a ≤ b

/-- A condition on two elements (R181). -/
def Ty.holds (y : Ty) (c a b : Nat) : Bool :=
  match y.fmt with
  | some f => condFloat c (fmtValue f a) (fmtValue f b)
  | none => y.cond c a b

/-- `VCMP` (R182). -/
def execVcmp (d a b : BitVec 6) (t : BitVec 4) (c : BitVec 3) (s : State) : Host.Outcome State Fault Refusal :=
  .next (s.vWrite (.vcmp d a b t c) { srcs := [a, b] } d fun v =>
    let y := tyOf t.toNat
    lineOf y.w (2048 / y.w) fun e =>
      if y.holds c.toNat (elem (v.reg a) y.w e) (elem (v.reg b) y.w e) then 2 ^ y.w - 1 else 0)

/-- `VSEL`: every lane is written (R183). -/
def execVsel (q : BitVec 4) (d a b : BitVec 6) (s : State) : Host.Outcome State Fault Refusal :=
  .next (s.eIssue .v (.vsel q d a b) { q := q, srcs := [a, b] } fun c _ s =>
    (s.overwrite (.vectorReg c d.toNat)).vDone c fun v => v.setReg d (merge v.top (v.reg b) (v.reg a)))

/-- The operations of `VBIT` (R184). -/
def vbitOp (o : Nat) (a b : Line) : Line :=
  match o with
  | 0 => a &&& b
  | 1 => a ||| b
  | 2 => a ^^^ b
  | 3 => a &&& ~~~b
  | 4 => ~~~a
  | _ => a

/-- `VBIT` (R184). -/
def execVbit (q : BitVec 4) (d a b : BitVec 6) (o : BitVec 4) (s : State) : Host.Outcome State Fault Refusal :=
  .next (s.vWrite (.vbit q d a b o) { q := q, srcs := if o.toNat < 4 then [a, b] else [a] } d fun v =>
    vbitOp o.toNat (v.reg a) (v.reg b))

/-- A shift of a `w`-bit element (R185). -/
def shiftElem (k w x n : Nat) : Nat :=
  match k with
  | 0 => x * 2 ^ n % 2 ^ w
  | 1 => x / 2 ^ n
  | 2 => intCode w (sextNat w x / (2 ^ n : Nat))
  | _ => (x * 2 ^ n + x / 2 ^ (w - n)) % 2 ^ w

/-- `VSHF` (R185). -/
def execVshf (q : BitVec 4) (d a b : BitVec 6) (k w : BitVec 2) (s : State) : Host.Outcome State Fault Refusal :=
  .next (s.vWrite (.vshf q d a b k w) { q := q, srcs := [a, b] } d fun v =>
    let n := 32 / 2 ^ w.toNat
    lineOf n (2048 / n) fun e => shiftElem k.toNat n (elem (v.reg a) n e) (elem (v.reg b) n e % n))

/-! ### Conversion and lanes -/

/-- The register code of a value in a conversion's destination slot: INT4 sign-extended to 8 bits (R186). -/
def slotCode (f code : Nat) : Nat := if f = 7 then intCode 8 (sextNat 4 code) else code

/-- The converted register and whether an element was written (R186). -/
def convertLine (t : BitVec 64) (fs fd rm part : Nat) (sat : Bool) (ph : BitVec 4) (a old : Line) : Line × Bool :=
  let ws := cvtWidth (BitVec.ofNat 4 fs)
  let wd := cvtWidth (BitVec.ofNat 4 fd)
  let n := 2048 / max ws wd
  let first := if wd < ws then part * n else 0
  let isIn := fun (k : Nat) => first ≤ k && k < first + n && t.getLsbD (k * wd / 32)
  (lineOf wd (2048 / wd) fun k =>
    if isIn k then
      let e := k - first
      let src := if ws < wd then part * n + e else e
      slotCode fd (fmtCode fd (Rnd.at rm sat k ph) (fmtValue fs (elem a ws src)))
    else elem old wd k,
   (List.range (2048 / wd)).any isIn)

/-- `VCVT` (R186). The parts of `vd` that it keeps are not read: an error in `vd` raises nothing (DESIGN CHOICE,
notes/assumptions/113). -/
def execVcvt (d a : BitVec 6) (p : BitVec 2) (sf : BitVec 1) (r : BitVec 3) (e f : BitVec 4) (s : State) : Host.Outcome State Fault Refusal :=
  .next (s.eIssue .v (.vcvt d a p sf r e f) { srcs := [a] } fun c _ s =>
    let x := s.cell c
    let (l, some_) := convertLine x.v.top f.toNat e.toNat r.toNat p.toNat (sf = 1) x.ev.phase (x.v.reg a) (x.v.reg d)
    let s := if r = 4 ∧ some_ then s.modCell c fun x => { x with ev := { x.ev with phase := phaseStep x.ev.phase } } else s
    let s := if cvtWidth f ≤ cvtWidth e then s.vClear c d else s
    s.vDone c fun v => v.setReg d l)

/-- The pairwise tree of `VRED`: adjacent values combine at each of `fuel` levels (R187). -/
def reduceTree {α : Type} (fuel : Nat) (f : α → α → α) (l : List α) : List α :=
  match fuel with
  | 0 => l
  | fuel + 1 => reduceTree fuel f (pairs l)
where
  /-- One level. -/
  pairs (l : List α) : List α :=
    match l with
    | a :: b :: r => f a b :: pairs r
    | r => r

/-- The result of `VRED` for a float type: `rne_fp32` at each addition (R187). -/
def redFloat (f o : Nat) (t : BitVec 64) (w : Nat) (a : Line) : Nat :=
  let id : Num := match o with | 0 => .fin true 0 0 | 1 => .inf false | _ => .inf true
  let xs := (List.range (2048 / w)).map fun e => if t.getLsbD (e * w / 32) then fmtValue f (elem a w e) else id
  let op := fun (x y : Num) => match o with
    | 0 => fmtValue 0 (rne 0 (x.add y))
    | 1 => x.min y
    | _ => x.max y
  rne 0 ((reduceTree 8 op xs).headD .nan)

/-- The result of `VRED` for an integer type (R187). Elements of `.i16` and `.i8` are extended with their sign (DEDUCED from
R173, notes/assumptions/112). -/
def redInt (y : Ty) (o : Nat) (t : BitVec 64) (a : Line) : Nat :=
  let lo : Int := if y.signed then -(2 ^ (y.w - 1) : Nat) else 0
  let hi : Int := if y.signed then (2 ^ (y.w - 1) : Nat) - 1 else (2 ^ y.w : Nat) - 1
  let id : Int := match o with | 0 => 0 | 1 => hi | _ => lo
  let xs := (List.range (2048 / y.w)).map fun e => if t.getLsbD (e * y.w / 32) then y.int (elem a y.w e) else id
  let op := fun (x z : Int) => match o with | 0 => x + z | 1 => min x z | _ => max x z
  let r := (reduceTree 8 op xs).headD 0
  let r := match o, y.range with
    | 0, some _ => if y.signed then satInt32 r else clampInt 0 4294967295 r
    | _, _ => r
  intCode 32 r

/-- The result of `VRED` for a bit operation on the lane patterns (R187). -/
def redBits (o : Nat) (t : BitVec 64) (a : Line) : Nat :=
  let id : Word := if o = 3 then BitVec.allOnes 32 else 0
  let xs := (List.range 64).map fun j => if t.getLsbD j then BitVec.ofNat 32 (lane a j) else id
  let op := fun (x z : Word) => match o with | 3 => x &&& z | 4 => x ||| z | _ => x ^^^ z
  ((reduceTree 8 op xs).headD 0).toNat

/-- `VRED`: every lane of the destination is written (R187). -/
def execVred (d a : BitVec 6) (o : BitVec 3) (t : BitVec 4) (s : State) : Host.Outcome State Fault Refusal :=
  .next (s.eIssue .v (.vred d a o t) { srcs := [a] } fun c _ s =>
    (s.overwrite (.vectorReg c d.toNat)).vDone c fun v =>
      let y := tyOf t.toNat
      let r := if 3 ≤ o.toNat then redBits o.toNat v.top (v.reg a)
        else match y.fmt with
          | some f => redFloat f o.toNat v.top y.w (v.reg a)
          | none => redInt y o.toNat v.top (v.reg a)
      v.setReg d (BitVec.ofNat 2048 r))

/-- `VPERM` (R188). -/
def execVperm (q : BitVec 4) (d a b : BitVec 6) (s : State) : Host.Outcome State Fault Refusal :=
  .next (s.vWrite (.vperm q d a b) { q := q, srcs := [a, b] } d fun v =>
    lineOf 32 64 fun j => lane (v.reg a) (lane (v.reg b) j % 64))

/-- `VBCAST` (R189). -/
def execVbcast (d a : BitVec 6) (e : BitVec 8) (w : BitVec 2) (s : State) : Host.Outcome State Fault Refusal :=
  .next (s.vWrite (.vbcast d a e w) { srcs := [a] } d fun v =>
    let n := 32 / 2 ^ w.toNat
    lineOf n (2048 / n) fun _ => elem (v.reg a) n e.toNat)

/-- `VLI` (R190). -/
def execVli (q : BitVec 4) (d : BitVec 6) (i : BitVec 16) (s : State) : Host.Outcome State Fault Refusal :=
  .next (s.vWrite (.vli q d i) { q := q } d fun _ => lineOf 32 64 fun _ => i.toNat * 2 ^ 16)

/-- `VIDX` (R190). -/
def execVidx (q : BitVec 4) (d : BitVec 6) (a t : BitVec 8) (s : State) : Host.Outcome State Fault Refusal :=
  .next (s.vWrite (.vidx q d a t) { q := q } d fun _ => lineOf 32 64 fun j => intCode 32 (a.toInt + j * t.toInt))

end Sys2Proof.Machine
end

