-- ==== Sys2Proof/Machine/VectorFlow.lean ====
section
/-! DEFINITION. The V stream's scratchpad accesses and stream registers (R191 to R194), masks and flow (R195 to
R200), quantisation and planes (R201 to R203), tokens, shutters and its end (R204 to R206). -/

namespace Sys2Proof.Machine

/-! ### Scratchpad -/

/-- The first of some scratchpad bytes (offset in the cell's scratchpad, length) that holds an uncorrectable error, or poison. -/
def State.firstBad (s : State) (c : Nat) (spans : List (Nat × Nat)) (uncorr : Bool) : Option Nat :=
  spans.findSome? fun (o, n) => ((List.range n).find? fun i => match s.badIn (padPa c (o + i)) 1 with
    | some (_, u) => u == uncorr
    | none => false).map (o + ·)

/-- The trap of reading scratchpad lines: UNCORR for an error anywhere in the `lines`, whatever lanes are active, before POISON
for one of the bytes read (R131, R178). -/
def State.padBad (s : State) (c : Nat) (lines bytes : List (Nat × Nat)) : Option TrapInfo :=
  if s.mem.poison.isEmpty && s.mem.uncorr.isEmpty then none else
  match s.firstBad c lines true with
  | some o => some ⟨cUNCORR, BitVec.ofNat 64 (padPa c o)⟩
  | none => (s.firstBad c bytes false).map fun o => ⟨cPOISON, BitVec.ofNat 64 (padPa c o)⟩

/-- The state once a trap has been raised by bad scratchpad bytes: an on-chip error becomes poison (R425). -/
def State.padDetect (s : State) (c : Nat) (spans : List (Nat × Nat)) : State :=
  if s.mem.uncorr.isEmpty then s else spans.foldl (fun s (o, n) => s.detect (padPa c o) n) s

/-- Writes a cell's own scratchpad bytes by offset; granules written whole lose their marks (R423). -/
def State.padPut (s : State) (c : Nat) (l : List (Nat × Byte)) : State :=
  let s := s.modCell c fun x => { x with pad := l.foldl (fun m (o, b) => m.write o b) x.pad }
  if s.mem.poison.isEmpty && s.mem.uncorr.isEmpty then s else
  let os := l.map Prod.fst
  let whole := ((os.map fun o => o / 32 * 32).eraseDups).filter fun g => (List.range 32).all fun i => os.contains (g + i)
  { s with mem := whole.foldl (fun m g => m.unmark (padPa c g) 32) s.mem }

/-- Where lane `j` lies in a line for a placement: first bit of the lane, offset in the line, bytes (R191). -/
def placement (f j : Nat) : Nat × Nat × Nat :=
  match f with
  | 0 => (0, 4 * j, 4)
  | 1 => (16, 2 * j, 2)
  | 2 => (16, 128 + 2 * j, 2)
  | 3 => (0, 2 * j, 2)
  | _ => (0, 128 + 2 * j, 2)

/-- The scratchpad spans of the lanes with T = 1. -/
def laneSpans (t : BitVec 64) (base f : Nat) : List (Nat × Nat) :=
  ((List.range 64).filter fun j => t.getLsbD j).map fun j => (base + (placement f j).2.1, (placement f j).2.2)

/-- A register with a line loaded into it (R191). -/
def loadLine (t : BitVec 64) (f : Nat) (old : Line) (bs : List Byte) : Line :=
  lineOf 32 64 fun j =>
    if !t.getLsbD j then lane old j else
    let (lo, o, n) := placement f j
    let v := bytesAt bs o n
    if n = 4 then v else if lo = 16 then lane old j % 65536 + 65536 * v else lane old j / 65536 * 65536 + v

/-- The bytes a line store writes (R191). -/
def storeLine (t : BitVec 64) (base f : Nat) (l : Line) : List (Nat × Byte) :=
  ((List.range 64).filter fun j => t.getLsbD j).flatMap fun j =>
    let (lo, o, n) := placement f j
    (List.range n).map fun i => (base + o + i, BitVec.ofNat 8 (bitsAt (lane l j) (lo + 8 * i) 8))

/-- A line load from scratchpad offset `base`, then a change of the vector unit. -/
def State.vLoad (s : State) (c : Nat) (d : BitVec 6) (f base : Nat) (also_ : VUnit → VUnit) : EFin :=
  let v := (s.cell c).v
  match s.padBad c [(base, 256)] (laneSpans v.top base f) with
  | some t => .trap (s.padDetect c [(base, 256)]) t none
  | none =>
    let l := loadLine v.top f (v.reg d) ((s.cell c).pad.readN base 256)
    ((if f = 0 then s.vClear c d else s)).vDone c fun v => also_ (v.setReg d l)

/-- The tile's shutter shows V (R98). -/
def Cell.tileV (x : Cell) (t : Nat) : Bool := x.shutter t = 1

/-- `VLD` (R191, R192). A half form keeps part of `vd` and counts as a read of it (R425, DESIGN CHOICE,
notes/assumptions/113). -/
def execVld (q : BitVec 4) (d : BitVec 6) (t : BitVec 7) (l : BitVec 6) (f : BitVec 3) (s : State) : Host.Outcome State Fault Refusal :=
  .next (s.eIssue .v (.vld q d t l f) { q := q, srcs := if f = 0 then [] else [d] } fun c _ s =>
    if !(s.cell c).tileV t.toNat then .wait s
    else s.vLoad c d f.toNat (t.toNat * 16384 + l.toNat * 256) id)

/-- `VST` (R191, R192). -/
def execVst (q : BitVec 4) (d : BitVec 6) (t : BitVec 7) (l : BitVec 6) (f : BitVec 3) (s : State) : Host.Outcome State Fault Refusal :=
  .next (s.eIssue .v (.vst q d t l f) { q := q, srcs := [d] } fun c _ s =>
    let x := s.cell c
    if !x.tileV t.toNat then .wait s
    else (s.padPut c (storeLine x.v.top (t.toNat * 16384 + l.toNat * 256) f.toNat (x.v.reg d))).vDone c id)

/-! ### Stream registers -/

/-- An affine stream register. -/
def VUnit.stream (v : VUnit) (n : BitVec 3) : Affine := v.affine.getD n.toNat {}

/-- Replaces an affine stream register. -/
def VUnit.setStream (v : VUnit) (n : BitVec 3) (a : Affine) : VUnit := { v with affine := v.affine.set n.toNat a }

/-- One pop (R194). -/
def Affine.pop (a : Affine) : Affine :=
  if a.pops + 1 = a.count then { a with pos := a.start, pops := 0 }
  else { a with pos := ((a.pos + a.stride) % 8192).toNat, pops := a.pops + 1 }

/-- `VSBIND` (R193). -/
def execVsbind (q : BitVec 4) (d : BitVec 6) (n : BitVec 3) (t : BitVec 7) (l : BitVec 6) (s : State) : Host.Outcome State Fault Refusal :=
  .next (s.eIssue .v (.vsbind q d n t l) { q := q, srcs := [d], tests := true } fun c h s =>
    let x := s.cell c
    let p := lane (x.v.reg d) 0
    let b := bitsAt p 18 4
    if b = 15 ∧ !x.s.super then .trap s ⟨cPRIV, wordInfo h.word 0⟩ none
    else if bitsAt p 22 10 ≠ 0 then .trap s ⟨cFORMAT, 0⟩ none
    else
      let l0 := t.toNat * 64 + l.toNat
      let cnt := bitsAt p 0 12
      s.vDone c fun v => v.setStream n
        { bound := true, start := l0, count := if cnt = 0 then 4096 else cnt, stride := sextNat 6 (bitsAt p 12 6)
          limit := BitVec.ofNat 4 b, pos := l0, pops := 0 })

/-- A pop of a stream register at its line's offset: the wait for the tile's shutter, then `f` (R194). -/
def State.popLine (s : State) (c : Nat) (n : BitVec 3) (k : BitVec 1) (f : Nat → (VUnit → VUnit) → EFin) : EFin :=
  let a := (s.cell c).v.stream n
  if !a.bound then .trap s ⟨cFORMAT, 0⟩ none
  else if !(s.cell c).tileV (a.pos / 64) then .wait s
  else f (a.pos * 256) fun v => if k = 1 then v else v.setStream n a.pop

/-- `VSLD` (R194). -/
def execVsld (q : BitVec 4) (d : BitVec 6) (n : BitVec 3) (k : BitVec 1) (s : State) : Host.Outcome State Fault Refusal :=
  .next (s.eIssue .v (.vsld q d n k) { q := q } fun c _ s =>
    s.popLine c n k fun base pop => s.vLoad c d 0 base pop)

/-- `VSST` (R194). -/
def execVsst (q : BitVec 4) (d : BitVec 6) (n : BitVec 3) (k : BitVec 1) (s : State) : Host.Outcome State Fault Refusal :=
  .next (s.eIssue .v (.vsst q d n k) { q := q, srcs := [d] } fun c _ s =>
    s.popLine c n k fun base pop =>
      let v := (s.cell c).v
      (s.padPut c (storeLine v.top base 0 (v.reg d))).vDone c pop)

/-! ### Mask stack and flow -/

/-- `VMPUSH` (R195): the lanes are compared as INT32 or FP32. -/
def execVmpush (a b : BitVec 6) (q : BitVec 4) (f : BitVec 1) (cd : BitVec 3) (s : State) : Host.Outcome State Fault Refusal :=
  .next (s.eIssue .v (.vmpush a b q f cd) { q := q, srcs := [a, b], tests := true } fun c h s =>
    let v := (s.cell c).v
    if v.masks.length = 16 then .trap s ⟨cILLEGAL, wordInfo h.word 1⟩ none else
    let y := tyOf (if f = 1 then 0 else 2)
    let m : BitVec 64 := BitVec.ofNat 64 ((List.range 64).foldr (fun j acc =>
      bit (y.holds cd.toNat (lane (v.reg a) j) (lane (v.reg b) j)) + 2 * acc) 0)
    s.vDone c fun v => { v with masks := (m &&& v.top) :: v.masks })

/-- `VMINV` (R196). -/
def execVminv (q : BitVec 4) (s : State) : Host.Outcome State Fault Refusal :=
  .next (s.eIssue .v (.vminv q) { q := q, tests := true } fun c h s =>
    match (s.cell c).v.masks with
    | [] => .trap s ⟨cILLEGAL, wordInfo h.word 2⟩ none
    | m :: r => s.vDone c fun v => { v with masks := (r.headD (BitVec.allOnes 64) &&& ~~~m) :: r })

/-- `VMPOP` (R197). -/
def execVmpop (q n : BitVec 4) (s : State) : Host.Outcome State Fault Refusal :=
  .next (s.eIssue .v (.vmpop q n) { q := q, tests := true } fun c h s =>
    if (s.cell c).v.masks.length < n.toNat + 1 then .trap s ⟨cILLEGAL, wordInfo h.word 2⟩ none
    else s.vDone c fun v => { v with masks := v.masks.drop (n.toNat + 1) })

/-- `BRU` (R198): fetch has stopped behind it and resumes at the target or after it. -/
def execBru (k : BitVec 1) (o : BitVec 13) (s : State) : Host.Outcome State Fault Refusal :=
  .next (s.eIssue .v (.bru k o) {} fun c h s =>
    let t := (s.cell c).v.top
    let taken := if k = 0 then t = 0 else t = BitVec.allOnes 64
    let next := if taken then h.pc + BitVec.ofNat 64 (4 * o.toNat) else h.pc + 4
    (s.modCell c fun x => { x with ev := { x.ev with fpc := next } }).vDone c id)

/-- `LOOPV` (R199): the entry of pass p shifts V's predicates, with 1 coming in while p < N. -/
def execLoopv (n : BitVec 9) (e : BitVec 3) (o : BitVec 13) (s : State) : Host.Outcome State Fault Refusal :=
  .next (s.eIssue .v (.loopv n e o) {} fun c h s =>
    let passes := if n = 0 then 512 else n.toNat
    s.vDone c fun v => { v with preds := shiftIn v.preds (decide (h.tag + 1 < passes)) })

/-- `LOOPV` with `K` = 1 sets V's predicates (R200). -/
def execLoopvSet (e : BitVec 8) (s : State) : Host.Outcome State Fault Refusal :=
  .next (s.eIssue .v (.loopvSet e) {} fun c _ s => s.vDone c fun v => { v with preds := e })

/-! ### Quantisation and planes -/

/-- The format code of `VQNT`'s output range (R201). -/
def qntFmt (r : BitVec 2) : Nat := match r with | 0 => 5 | 1 => 6 | 2 => 7 | _ => 8

/-- `VQNT` (R201). -/
def execVqnt (d a : BitVec 6) (r : BitVec 2) (l : BitVec 4) (t : BitVec 7) (s : State) : Host.Outcome State Fault Refusal :=
  .next (s.eIssue .v (.vqnt d a r l t) { srcs := [d, a] } fun c _ s =>
    let x := s.cell c
    if !x.tileV t.toNat then .wait s else
    let base := t.toNat * 16384 + l.toNat * 1024
    let recs := (List.range 64).map fun j => (BitVec.ofNat 128 (leNat (x.pad.readN (base + 16 * j) 16)) : BitVec 128)
    if recs.any fun k => !quantOk k then .trap s ⟨cFORMAT, 0⟩ none else
    match s.padBad c [(base, 1024)] [(base, 1024)] with
    | some e => .trap (s.padDetect c [(base, 1024)]) e none
    | none =>
      s.vDone c fun v => v.setReg d (merge v.top (v.reg d) (lineOf 32 64 fun j =>
        intCode 32 (quantise (qntFmt r) (s32 (lane (v.reg a) j)) (s32 (lane (v.reg d) j)) (recs.getD j 0)))))

/-- One weight of `VPUPD`: the new weight and the new momentum (R202). -/
def updateWeight (mom : Bool) (eta beta w g m : Nat) : Nat × Nat :=
  let v := fmtValue 0
  let m2 := if mom then rne 0 (((v beta).mul (v m)).add (v g)) else g
  (rne 0 ((v w).add ((v eta).mul (v m2)).neg), m2)

/-- `VPUPD`: the step on 64 weights, the pushed change mask and the count (R202). -/
def State.vUpdate (s : State) (c : Nat) (h : Entry) (d a p g : BitVec 6) (mom : Bool) : EFin :=
  let v := (s.cell c).v
  if v.masks.length = 16 then .trap s ⟨cILLEGAL, wordInfo h.word 0⟩ none else
  let t := v.top
  let eta := lane (v.reg p) 0
  let beta := lane (v.reg p) 1
  let res := (List.range 64).map fun j => updateWeight mom eta beta (lane (v.reg d) j) (lane (v.reg a) j) (lane (v.reg g) j)
  let w2 := lineOf 32 64 fun j => (res.getD j (0, 0)).1
  let m2 := lineOf 32 64 fun j => (res.getD j (0, 0)).2
  let changed := fun (j : Nat) => t.getLsbD j && decide ((res.getD j (0, 0)).1 / 65536 ≠ lane (v.reg d) j / 65536)
  let mask : BitVec 64 := BitVec.ofNat 64 ((List.range 64).foldr (fun j acc => bit (changed j) + 2 * acc) 0)
  let count := ((List.range 64).filter changed).length
  s.vDone c fun v =>
    let v := if mom then v.setReg g (merge t (v.reg g) m2) else v
    let v := v.setReg d (merge t (v.reg d) w2)
    let v := v.setReg p (setField (v.reg p) 64 (BitVec.ofNat 32 count))
    { v with masks := mask :: v.masks }

/-- `VPUPD` .sgd (R202). -/
def execVpupdSgd (d a p : BitVec 6) (s : State) : Host.Outcome State Fault Refusal :=
  .next (s.eIssue .v (.vpupdSgd d a p) { srcs := [d, a, p] } fun c h s => s.vUpdate c h d a p 0 false)

/-- `VPUPD` .mom (R202). -/
def execVpupdMom (d a p g : BitVec 6) (s : State) : Host.Outcome State Fault Refusal :=
  .next (s.eIssue .v (.vpupdMom d a p g) { srcs := [d, a, p, g] } fun c h s => s.vUpdate c h d a p g true)

/-- The region of a pack kind: bits of an element, elements, first bit of part `p` (R203). -/
def packRegion (k p : Nat) : Nat × Nat × Nat :=
  match k with
  | 0 => (1, 64, 64 * p)
  | 1 | 2 => (8, 128, 1024 * p)
  | 3 => (1, 128, 128 * p)
  | 4 | 5 | 7 => (4, 256, 1024 * p)
  | 6 => (1, 256, 256 * p)
  | _ => (6, 256, 0)

/-- What `VPACK` writes for element `e` of `va` (R203); kinds 0 to 6 are encoders (R69). -/
def packElem (k : Nat) (a : Line) (e : Nat) : Nat :=
  match k with
  | 0 => bit (guardBit 12 (elem a 32 e))
  | 1 => canonPlaned 11 (elem a 16 e) / 256
  | 2 => canonPlaned 11 (elem a 16 e) % 256
  | 3 => bit (guardBit 11 (elem a 16 e))
  | 4 => elem a 8 e / 16
  | 5 => elem a 8 e % 16
  | 6 => bit (guardBit 13 (elem a 8 e))
  | 7 => elem a 8 e % 16
  | _ => elem a 8 e % 64

/-- `n` elements of `w` bits from `f` replace the bits of a register from `lo` on. -/
def putRegion (l : Line) (w n lo : Nat) (f : Nat → Nat) : Line :=
  let v := (List.range n).foldr (fun e acc => f e % 2 ^ w + 2 ^ w * acc) 0
  let x := l.toNat
  BitVec.ofNat 2048 (x % 2 ^ lo + v * 2 ^ lo + x / 2 ^ (lo + w * n) * 2 ^ (lo + w * n))

/-- `VPACK` (R203): exactly its region is written, and the rest of `vd` counts as read (DESIGN CHOICE, notes/assumptions/113). -/
def execVpack (d a : BitVec 6) (p : BitVec 5) (k : BitVec 4) (s : State) : Host.Outcome State Fault Refusal :=
  .next (s.eIssue .v (.vpack d a p k) { srcs := [a, d] } fun c _ s =>
    s.vDone c fun v =>
      let (w, n, lo) := packRegion k.toNat p.toNat
      v.setReg d (putRegion (v.reg d) w n lo (packElem k.toNat (v.reg a))))

/-- The register that `VUNPK` leaves: `g` gives region element `e` of `va`, `old` is `vd` (R203). -/
def unpackLine (k : Nat) (sat : Bool) (old : Line) (g : Nat → Nat) : Line :=
  match k with
  | 0 => lineOf 32 64 fun e => planeRN 12 (lane old e / 65536) (g e = 1) sat * 65536
  | 1 => lineOf 16 128 fun e => elem old 16 e % 256 + 256 * g e
  | 2 => lineOf 16 128 fun e => elem old 16 e / 256 * 256 + g e
  | 3 => lineOf 16 128 fun e => planeRN 11 (elem old 16 e / 256) (g e = 1) sat * 256
  | 4 => lineOf 8 256 fun e => elem old 8 e % 16 + 16 * g e
  | 5 => lineOf 8 256 fun e => elem old 8 e / 16 * 16 + g e
  | 6 => lineOf 8 256 fun e => planeRN 13 (elem old 8 e / 16) (g e = 1) sat * 16
  | 7 => lineOf 8 256 fun e => intCode 8 (sextNat 4 (g e))
  | _ => lineOf 8 256 g

/-- `VUNPK` (R203). The kinds that keep bits of `vd` count as reads of it (DESIGN CHOICE, notes/assumptions/113). -/
def execVunpk (d a : BitVec 6) (sf : BitVec 1) (p : BitVec 5) (k : BitVec 4) (s : State) : Host.Outcome State Fault Refusal :=
  .next (s.eIssue .v (.vunpk d a sf p k) { srcs := if k.toNat < 7 then [a, d] else [a] } fun c _ s =>
    (if k.toNat < 7 then s else s.overwrite (.vectorReg c d.toNat)).vDone c fun v =>
      let (w, _, lo) := packRegion k.toNat p.toNat
      v.setReg d (unpackLine k.toNat (sf = 1) (v.reg d) fun e => bitsAt (v.reg a).toNat (lo + w * e) w))

/-! ### Coupling and end -/

/-- `VTSIG` (R204): V's earlier entries have made their writes when it issues. -/
def execVtsig (q : BitVec 4) (k : BitVec 5) (n : BitVec 12) (s : State) : Host.Outcome State Fault Refusal :=
  .next (s.eIssue .v (.vtsig q k n) { q := q } fun c _ s =>
    (s.modCell c fun x => x.signal k.toNat n.toNat).vDone c id)

/-- `VTWAIT` (R36, R204). -/
def execVtwait (q b : BitVec 4) (k : BitVec 5) (n : BitVec 12) (s : State) : Host.Outcome State Fault Refusal :=
  .next (s.eIssue .v (.vtwait q b k n) { q := q, unbounded := b = 15 } fun c _ s =>
    if (s.cell c).token k.toNat < n.toNat || s.tokenTaken c .v k.toNat then .wait s
    else (s.modCell c fun x => x.consume k.toNat n.toNat).vDone c id)

/-- The shutter of tile `t` after an engine's pass of `code`, or `none` while it waits (R99, R205, R256). A pass that has found
the tile with another owner waits for the stream's own code. -/
def Cell.enginePass (x : Cell) (st : Stream) (t : Nat) (code : BitVec 3) : Option Cell :=
  let own := agentCode (.stream st)
  if x.shutter t = own ∨ (x.shutter t = codeFree ∧ code = own ∧ !(x.engine st).wantsOwn) then some (x.setShutter t code) else none

/-- A pass waits until the tile's shutter shows the stream's own code (R205, R256). -/
def State.passWaits (s : State) (c : Nat) (st : Stream) : EFin :=
  .wait (s.modCell c fun x => x.modEngine st fun g => { g with wantsOwn := true })

/-- `VSHUT` (R205). -/
def execVshut (q b : BitVec 4) (t : BitVec 7) (code : BitVec 3) (s : State) : Host.Outcome State Fault Refusal :=
  .next (s.eIssue .v (.vshut q b t code) { q := q, unbounded := b = 15 } fun c _ s =>
    match (s.cell c).enginePass .v t.toNat code with
    | none => s.passWaits c .v
    | some x => (s.setCell c x).vDone c id)

/-- `VEND` (R206): the stream ends, and words after it are never issued. -/
def execVend (q : BitVec 4) (s : State) : Host.Outcome State Fault Refusal :=
  .next (s.eIssue .v (.vend q) { q := q } fun c _ s =>
    (s.modCell c fun x => { x with ev := { x.ev with ended := true, fetching := false } }).vDone c id)

end Sys2Proof.Machine
end

