-- ==== Sys2Proof/Machine/Rows.lean ====
section
/-! DEFINITION. Rows of elements as M and C commands read and write them, in memory by descriptor or in the cell's
scratchpad by tile (R48, R59, R67 to R72, R86, R87, R126, R236, R263), with the checks of R131, R288 and R380. -/

namespace Sys2Proof.Machine

/-! ### Spans of memory -/

/-- Bytes of memory that a step accesses; `tol` when tolerant pages may hold them (R288). -/
structure Span where
  va : Nat
  n : Nat
  wr : Bool := false
  tol : Bool := false
  deriving DecidableEq, Repr

/-- [`va`, `va` + `n`) cut at multiples of `unit`. -/
def chunks (unit va n : Nat) : List (Nat × Nat) :=
  if n = 0 then [] else
  (List.range ((va + n - 1) / unit - va / unit + 1)).map fun i =>
    let lo := max va ((va / unit + i) * unit)
    (lo, min (va + n) ((va / unit + i + 1) * unit) - lo)

/-- The trap that ranks first (R131). -/
def pickTrap (l : List TrapInfo) : Option TrapInfo :=
  l.foldl (fun a t => match a with
    | none => some t
    | some b => if causeRank t.cause < causeRank b.cause then some t else some b) none

/-- A scratchpad that an engine reaches through the address map is open to it: its own by its own shutter code,
another cell's under R21. -/
def State.engineOpen (s : State) (w : Who) (pa : Nat) : Bool :=
  match place pa with
  | .window c off => if c = w.cell ∧ off < 0x200000 then (s.cell c).shutter (off / 16384) = agentCode w.ag else s.portOpen (w.cell, w.ag) pa && s.regSettled pa
  | _ => true

/-- Register regions take aligned 4 or 8 bytes, or from a copy engine aligned lines (R20). -/
def regionAligned (w : Who) (pa n : Nat) : Bool :=
  windowAlign pa n false || (w.ag = .stream .c && n % 256 = 0 && windowAlign pa 256 true)

/-- The conditions a part of a span meets, and whether a shutter closes it (R380). -/
def State.chunkCheck (s : State) (w : Who) (sp : Span) (lo n : Nat) : List TrapInfo × Bool :=
  match s.lookup w lo with
  | .notPresent => ([trapAt cNOTPRESENT lo], false)
  | .bad u _ => ([trapAt (if u then cUNCORR else cPOISON) lo], false)
  | .leaf e large _ =>
    let pa := leafPa e large lo
    let perm := permitted e pa w.super { rd := !sp.wr, wr := sp.wr } && (!leafTOL e || sp.tol)
    ((if regionAligned w pa n then [] else [trapAt cALIGN lo]) ++ (if perm then [] else [trapAt cPERM lo]), !s.engineOpen w pa)

/-- The checks of every span of a step, before any is accessed (R380, R381). -/
def State.spansCheck (s : State) (w : Who) (l : List Span) : Acc Unit :=
  let one := fun (sp : Span) =>
    if sp.n = 0 then ([], false) else
    match addrCheck sp.va sp.n with
    | some c => ([trapAt c (if canonical sp.va then 2 ^ 51 else sp.va)], false)
    | none => (chunks 16384 sp.va sp.n).foldl (fun (a, b) (lo, n) =>
        let (t, z) := s.chunkCheck w sp lo n
        (a ++ t, b || z)) ([], false)
  let r := l.map one
  match pickTrap (r.flatMap Prod.fst) with
  | some t => .trap t
  | none => if r.any Prod.snd then .stall else .ok ()

/-- The physical address of a checked access. -/
def State.paOf (s : State) (w : Who) (va : Nat) : Nat :=
  match s.lookup w va with
  | .leaf e large _ => leafPa e large va
  | _ => 0

/-- Bytes read, and the offsets of those that are bad, with whether the error is on chip. -/
structure Got where
  bytes : List Byte
  bad : List (Nat × Bool) := []
  deriving DecidableEq, Repr

/-- The bad bytes of physical [`pa`, `pa` + `n`) as offsets from `o`. -/
def State.badBytes (s : State) (o pa n : Nat) (all : Bool) : List (Nat × Bool) :=
  (List.range n).filterMap fun i => match s.badIn (pa + i) 1 with
    | some (_, u) => some (o + i, u)
    | none => if all then some (o + i, false) else none

/-- Reads a checked span. -/
def State.spanRead (s : State) (w : Who) (sp : Span) : State × Got :=
  (chunks 16384 sp.va sp.n).foldl (fun (s, g) (lo, n) =>
    let pa := s.paOf w lo
    let d := s.readPa (dieOf w.cell) pa n
    let bad := match d.bad with
      | none => []
      | some _ => s.badBytes (lo - sp.va) (s.served pa) n (s.badIn (s.served pa) n).isNone
    let s := if absent (s.served pa) then s.holeAccess w.cell (s.served pa) else s
    (s.chargeBytes w.cell pa n, { bytes := g.bytes ++ d.bytes, bad := g.bad ++ bad })) (s, { bytes := [] })

/-- The trap of consuming the bytes of a span at `va`: an on-chip error before poison (R131, R424, R425). -/
def Got.trap (g : Got) (va : Nat) : Option TrapInfo :=
  match g.bad.find? (·.2) with
  | some (o, _) => some (trapAt cUNCORR (va + o))
  | none => g.bad.head?.map fun (o, _) => trapAt cPOISON (va + o)

/-- An on-chip error in a span that has been read becomes poison (R425). -/
def State.spanDetect (s : State) (w : Who) (sp : Span) : State :=
  if s.mem.uncorr.isEmpty then s
  else (chunks 16384 sp.va sp.n).foldl (fun s (lo, n) => s.detect (s.served (s.paOf w lo)) n) s

/-- The parts that write `n` bits of value `v` from bit `b` of byte `va` on (R87), each with the offsets of its bytes that
become poisoned, of those that `bad` lists. A part lies in one 256-byte line. -/
def State.bitParts (s : State) (w : Who) (va b n v : Nat) (bad : List Nat) : List (Part × List Nat) :=
  if n = 0 then [] else
  let len := (b + n + 7) / 8
  let bytes := leBytes len (v % 2 ^ n * 2 ^ b)
  let mask := if b = 0 ∧ n % 8 = 0 then [] else leBytes len ((2 ^ n - 1) * 2 ^ b)
  (chunks 256 va len).map fun (lo, k) =>
    let o := lo - va
    ({ addr := s.paOf w lo, bytes := (bytes.drop o).take k, mask := (mask.drop o).take k },
     bad.filterMap fun i => if o ≤ i ∧ i < o + k then some (i - o) else none)

/-- Poisons bytes of a part, given by their offsets (R423). -/
def State.poisonPart (s : State) (p : Part) (bad : List Nat) : State :=
  if bad.isEmpty then s else
  { s with mem := s.mem.mark (bad.map fun o => s.served (p.addr + o) / granule (s.served (p.addr + o)) * granule (s.served (p.addr + o))) }

/-- Writes the bits from bit `b` of byte `va` on: `n` bits of value `v` (R87); `bad` lists offsets of bytes that become
poisoned (R423). -/
def State.putBits (s : State) (w : Who) (va b n v : Nat) (bad : List Nat) : State :=
  (s.bitParts w va b n v bad).foldl (fun s (p, l) =>
    (((s.chargeBytes w.cell p.addr p.bytes.length).writePa (dieOf w.cell) (w.cell, w.ag) p.addr p.bytes false p.mask).poisonPart p l)) s

/-! ### Rows -/

/-- What a row read asks for: `n` elements from linear position `lin` of a tensor, under R70, with the scales of
dimension-0 indices from `i0` of row `row`; or elements of `w` bits from a bit of the cell's scratchpad. -/
inductive Req where
  | tensor (d : Desc) (lin n pn : Nat) (rn sat : Bool) (row i0 : Nat) (scales : Bool)
  | tile (bit0 w n : Nat)
  /-- the scales alone of `n` elements, for an output (R60) -/
  | scales (d : Desc) (row i0 n : Nat)
  deriving DecidableEq, Repr

/-- A row as read: element codes, their scale codes when scaled, which elements hold bad bytes, the traps of
consuming them, and the source bytes read (R262). -/
structure Row where
  codes : List Nat
  scales : List Nat := []
  bad : List Bool := []
  traps : List TrapInfo := []
  bytes : Nat := 0
  deriving DecidableEq, Repr

/-- The format delivered by a read of `pn` planes (R70). -/
def Desc.delivered (d : Desc) (pn : Nat) : Nat := if isPlaned d.fmt then (if pn = 1 then narrowFmt d.fmt else fullFmt d.fmt) else d.fmt

/-- The bytes that hold `n` elements of `w` bits from position `lin` of an array. -/
def bitSpan (base w lin n : Nat) (wr tol : Bool) : Span :=
  { va := base + w * lin / 8, n := (w * lin + w * n + 7) / 8 - w * lin / 8, wr := wr, tol := tol }

/-- The scale bytes of a row's elements (R59). -/
def Desc.scaleSpan (d : Desc) (row i0 n : Nat) : Span :=
  { va := d.sbase + row * ((d.dim 0 + 31) / 32) + i0 / 32, n := (i0 + n - 1) / 32 - i0 / 32 + 1 }

/-- Plane 1 is part of a full read of a planed tensor. -/
def Desc.readsPlane1 (d : Desc) (pn : Nat) : Bool := isPlaned d.fmt && pn ≠ 1

/-- The spans of a tensor row: plane 0, plane 1, guard bits, scales. -/
def Desc.spans (d : Desc) (lin n pn : Nat) (rn : Bool) (row i0 : Nat) (scales wr : Bool) : List Span :=
  let (w0, w1) := planeWidths d.fmt
  [bitSpan d.base w0 lin n wr false] ++
  (if if wr then isPlaned d.fmt && d.planes = 2 else d.readsPlane1 pn then [bitSpan d.p1base w1 lin n wr d.tol] else []) ++
  (if isPlaned d.fmt && d.grd && (wr || (pn = 1 && rn)) then [bitSpan d.gbase 1 lin n wr false] else []) ++
  (if scales && d.sblk ≠ 0 then [d.scaleSpan row i0 n] else [])

/-- The spans of a request. -/
def Req.spans (r : Req) : List Span :=
  match r with
  | .tensor d lin n pn rn _ row i0 sc => if n = 0 then [] else d.spans lin n pn rn row i0 sc false
  | .tile .. => []
  | .scales d row i0 n => if n = 0 ∨ d.sblk = 0 then [] else [d.scaleSpan row i0 n]

/-- Element `e` of `w` bits that begin at bit `b` of the bytes. -/
def bitsOf (v b w e : Nat) : Nat := bitsAt v (b + w * e) w

/-- Which of `n` elements of `w` bits from bit `b` have a bad byte. -/
def badElems (bad : List (Nat × Bool)) (b w n : Nat) : List Bool :=
  (List.range n).map fun e => bad.any fun (o, _) => (b + w * e) / 8 ≤ o && o ≤ (b + w * e + w - 1) / 8

/-- Two lists of flags joined. -/
def orFlags (a b : List Bool) : List Bool := if b.isEmpty then a else if a.isEmpty then b else List.zipWith (· || ·) a b

/-- Reads a checked request (R48, R67, R70, R126). -/
def State.readReq (s : State) (w : Who) (r : Req) : State × Row :=
  match r with
  | .tile bit0 wd n =>
    let o := bit0 / 8
    let len := (bit0 + wd * n + 7) / 8 - o
    let v := leNat ((s.cell w.cell).pad.readN o len)
    let bad := if s.mem.poison.isEmpty && s.mem.uncorr.isEmpty then [] else s.badBytes 0 (padPa w.cell o) len false
    let g : Got := { bytes := [], bad := bad }
    (s, { codes := (List.range n).map (bitsOf v (bit0 % 8) wd)
          bad := if bad.isEmpty then [] else badElems bad (bit0 % 8) wd n
          traps := (g.trap (padPa w.cell o)).toList, bytes := len })
  | .scales d row i0 n =>
    if n = 0 ∨ d.sblk = 0 then (s, { codes := [] }) else
    let sp := d.scaleSpan row i0 n
    let (s, g) := s.spanRead w sp
    let vs := leNat g.bytes
    (s, { codes := [], scales := (List.range n).map fun e => bitsAt vs (8 * ((i0 + e) / 32 - i0 / 32)) 8, traps := (g.trap sp.va).toList })
  | .tensor d lin n pn rn sat row i0 sc =>
    if n = 0 then (s, { codes := [] }) else
    let (w0, w1) := planeWidths d.fmt
    let spans := d.spans lin n pn rn row i0 sc false
    let (s, gs) := spans.foldl (fun (s, l) sp => let (s, g) := s.spanRead w sp; (s, l ++ [g])) (s, [])
    let val := fun (k : Nat) => leNat (gs.getD k { bytes := [] }).bytes
    let v0 := val 0
    let full := d.readsPlane1 pn
    let v1 := if full then val 1 else 0
    let useG := isPlaned d.fmt && d.grd && pn = 1 && rn
    let vg := if useG then val 1 else 0
    let scaled := sc && d.sblk ≠ 0
    let vs := if scaled then val (spans.length - 1) else 0
    let code := fun (e : Nat) =>
      let c0 := bitsOf v0 (w0 * lin % 8) w0 e
      if full then c0 * 2 ^ w1 + bitsOf v1 (w1 * lin % 8) w1 e
      else if useG then planeRN d.fmt c0 (bitsOf vg (lin % 8) 1 e = 1) sat else c0
    let badOf := fun (k b wd : Nat) =>
      let l := (gs.getD k { bytes := [] }).bad
      if l.isEmpty then [] else badElems l b wd n
    let bad := orFlags (badOf 0 (w0 * lin % 8) w0) (if full then badOf 1 (w1 * lin % 8) w1 else if useG then badOf 1 (lin % 8) 1 else [])
    (s, { codes := (List.range n).map code
          scales := if scaled then (List.range n).map fun e => bitsAt vs (8 * ((i0 + e) / 32 - i0 / 32)) 8 else []
          bad := bad
          traps := (spans.zip gs).filterMap fun (sp, g) => g.trap sp.va
          bytes := (spans.map Span.n).foldl (· + ·) 0 })

/-- On-chip errors among what a propagating read has read become poison (R425). -/
def State.reqDetect (s : State) (w : Who) (r : Req) : State :=
  if s.mem.uncorr.isEmpty then s else
  match r with
  | .tile bit0 wd n => s.detect (padPa w.cell (bit0 / 8)) ((bit0 + wd * n + 7) / 8 - bit0 / 8)
  | r => r.spans.foldl (fun s sp => s.spanDetect w sp) s

/-- READS THE ROWS OF ONE STEP: every check first, then the data; with `consume`, bad data raises its trap (R131,
R424). -/
def State.readRows (s : State) (w : Who) (rs : List Req) (consume : Bool) : Acc (State × List Row) :=
  match s.spansCheck w (rs.flatMap Req.spans) with
  | .trap t => .trap t
  | .stall => .stall
  | .ok _ =>
    let (s, rows) := rs.foldl (fun (s, l) r => let (s, x) := s.readReq w r; (s, l ++ [x])) (s, [])
    match (if consume then pickTrap (rows.flatMap Row.traps) else none) with
    | some t => .trap t
    | none => .ok (if consume then s else rs.foldl (fun s r => s.reqDetect w r) s, rows)

/-- A row to be written: where, its codes in the full format of the place, and which elements are poisoned. -/
inductive Put where
  | tensor (d : Desc) (lin : Nat) (codes : List Nat) (bad : List Bool)
  | tile (bit0 w : Nat) (codes : List Nat) (bad : List Bool)
  deriving DecidableEq, Repr

/-- The spans of a row to be written. -/
def Put.spans (p : Put) : List Span :=
  match p with
  | .tensor d lin codes _ => if codes.isEmpty then [] else d.spans lin codes.length 0 false 0 0 false true
  | .tile .. => []

/-- Elements of `w` bits joined, element 0 lowest. -/
def joinBits (w : Nat) (l : List Nat) : Nat := l.foldr (fun c acc => c % 2 ^ w + 2 ^ w * acc) 0

/-- The byte offsets of the poisoned elements. -/
def badOffsets (b w : Nat) (bad : List Bool) : List Nat :=
  if bad.any id then
    ((List.range bad.length).flatMap fun e => if bad.getD e false then
      (List.range ((b + w * e + w - 1) / 8 - (b + w * e) / 8 + 1)).map fun i => (b + w * e) / 8 + i else []).eraseDups
  else []

/-- What a planed write of elements of one plane block from position `lin` on writes, as an encoder does (R69): plane 0,
plane 1, guard bits (R72). -/
def State.blockParts (s : State) (w : Who) (d : Desc) (lin : Nat) (codes : List Nat) (bad : List Bool) : List (Part × List Nat) :=
  let (w0, w1) := planeWidths d.fmt
  let cs := codes.map (canonPlaned d.fmt)
  let part := fun (base wd : Nat) (l : List Nat) =>
    s.bitParts w (base + wd * lin / 8) (wd * lin % 8) (wd * l.length) (joinBits wd l) (badOffsets (wd * lin % 8) wd bad)
  part d.base w0 (cs.map (· / 2 ^ w1)) ++ (if d.planes = 2 then part d.p1base w1 (cs.map (· % 2 ^ w1)) else []) ++
    (if d.grd then part d.gbase 1 (codes.map fun c => bit (guardBit d.fmt c)) else [])

/-- Writes a checked row; the planes and guard bits of each plane block of a planed tensor are committed together (R72, R101).
Every such write is an encoder's (R69, notes/assumptions/70). -/
def State.putRow (s : State) (w : Who) (p : Put) : State :=
  match p with
  | .tile bit0 wd codes bad =>
    let len := (bit0 % 8 + wd * codes.length + 7) / 8
    let o := bit0 / 8
    let pad := (s.cell w.cell).pad
    let b := bit0 % 8
    let n := wd * codes.length
    let tail := (b + n) % 8
    let whole := (pad.read o).toNat % 2 ^ b + joinBits wd codes * 2 ^ b +
      (if tail = 0 then 0 else (pad.read (o + len - 1)).toNat / 2 ^ tail * 2 ^ (8 * (len - 1) + tail))
    let s := s.padPut w.cell (((List.range len).map (o + ·)).zip (leBytes len whole))
    let offs := badOffsets b wd bad
    if offs.isEmpty then s else { s with mem := s.mem.mark (offs.map fun i => padPa w.cell ((o + i) / 32 * 32)) }
  | .tensor d lin codes bad =>
    if isPlaned d.fmt then
      (chunks 256 lin codes.length).foldl (fun s (q, k) =>
        let ps := s.blockParts w d q ((codes.drop (q - lin)).take k) ((bad.drop (q - lin)).take k)
        (ps.foldl (fun s (p, _) => s.chargeBytes w.cell p.addr p.bytes.length) s).commitPlanes (dieOf w.cell) (w.cell, w.ag) ps) s
    else
      let wd := (planeWidths d.fmt).1
      s.putBits w (d.base + wd * lin / 8) (wd * lin % 8) (wd * codes.length) (joinBits wd codes) (badOffsets (wd * lin % 8) wd bad)

/-- The bytes of a row to be written: whether in the scratchpad, first, how many. -/
def Put.ranges (p : Put) : List (Bool × Nat × Nat) :=
  match p with
  | .tile bit0 w codes _ => [(true, bit0 / 8, (bit0 % 8 + w * codes.length + 7) / 8)]
  | .tensor .. => p.spans.map fun sp => (false, sp.va, sp.n)

/-- How many bytes ranges cover together, given in ascending order. -/
def unionBytes (l : List (Nat × Nat)) : Nat :=
  (l.foldl (fun (t, e) (a, n) => (t + (a + n - max a e), max e (a + n))) (0, 0)).1

/-- The bytes of destination arrays that the rows of one step write, each once (R262). -/
def putBytes (ps : List Put) : Nat :=
  let l := (ps.flatMap Put.ranges).mergeSort fun a b => a.2.1 ≤ b.2.1
  unionBytes ((l.filter (·.1)).map Prod.snd) + unionBytes ((l.filter (!·.1)).map Prod.snd)

/-- WRITES THE ROWS OF ONE STEP: every check first. -/
def State.putRows (s : State) (w : Who) (ps : List Put) : Acc State :=
  match s.spansCheck w (ps.flatMap Put.spans) with
  | .trap t => .trap t
  | .stall => .stall
  | .ok _ => .ok (ps.foldl (fun s p => s.putRow w p) s)

/-! ### Operands and element values -/

/-- The tile an operand field names, or the tensor (R118). -/
def operandTile (x : BitVec 9) : Option Nat := if x.extractLsb' 7 2 = 2 then some (bitsAt x.toNat 0 7) else none

/-- The descriptor of a tensor operand (R118, R128). -/
def Cell.descAt (x : Cell) (o : BitVec 9) : Desc := descOf (x.tensors.getD (bitsAt o.toNat 0 8) 0)

/-- The captured value of an origin field (R232). -/
def origin (h : Entry) (o : BitVec 4) : Nat := if o.msb then (h.idx.getD (bitsAt o.toNat 0 3) 0).toNat else 0

/-- The tiles of a command whose shutters do not show its stream (R98). -/
def Cell.closedTile (x : Cell) (st : Stream) (os : List (BitVec 9)) : Option Nat :=
  (os.filterMap operandTile).find? fun t => x.shutter t ≠ agentCode (.stream st)

/-- An element with its block scale (R60). -/
abbrev Elem := Nat × Option Nat

/-- Element `e` of a row. -/
def Row.elem (r : Row) (e : Nat) : Elem := (r.codes.getD e 0, r.scales[e]?)

/-- The exact value of an element under its scale; a scale of `0xFF` makes it NaN (R60). -/
def elemValue (f : Nat) (x : Elem) : Num :=
  match x.2 with
  | none => fmtValue f x.1
  | some e => if e = 255 then .nan else (fmtValue f x.1).scale ((e : Int) - 127)

/-- The code of a value divided by its block's output scale (R60). -/
def scaledCode (f : Nat) (r : Rnd) (x : Num) (scale : Option Nat) : Nat :=
  match scale with
  | none => fmtCode f r x
  | some e => if e = 255 then fmtCode f r .nan else fmtCode f r (x.scale (127 - (e : Int)))

/-- A zero code (R208). -/
def zeroCode (f c : Nat) : Bool :=
  match floatFmt f with
  | some ff => c % 2 ^ (ff.eb + ff.mb) = 0
  | none => c = 0

/-- Runs of adjacent positions in an ascending list: first and length. -/
def runsOf (l : List Nat) : List (Nat × Nat) :=
  l.foldr (fun p r => match r with
    | (q, n) :: t => if p + 1 = q then (p, n + 1) :: t else (p, 1) :: r
    | [] => [(p, 1)]) []

/-! ### Operands that overlap -/

/-- Bytes that an operand covers, as ranges of physical addresses, so that two names of one byte are the same byte
(notes/assumptions/97). -/
abbrev Cover := List (Nat × Nat)

/-- Some range of the list shares a byte with [`a`, `a` + `n`). -/
def Cover.touches (l : Cover) (a n : Nat) : Bool := l.any fun (b, k) => overlaps a n b k

/-- Two covers share a byte. -/
def Cover.meets (a b : Cover) : Bool := a.any fun (x, n) => b.touches x n

/-- The bytes of an array that have a place, with their offsets in it. -/
def State.placed (s : State) (w : Who) (va n : Nat) : List (Nat × Nat × Nat) :=
  (chunks 16384 va n).filterMap fun (lo, k) =>
    match s.lookup w lo with
    | .leaf e large _ => some (lo - va, leafPa e large lo, k)
    | _ => none

/-- The bytes that arrays cover. -/
def State.coverVa (s : State) (w : Who) (l : List (Nat × Nat)) : Cover :=
  l.flatMap fun (va, n) => (s.placed w va n).map Prod.snd

/-- Bytes of the cell's scratchpad as a cover. -/
def padCover (c o n : Nat) : Cover := [(padPa c o, n)]

/-- The bytes that several reads cover. -/
def State.coverOf (s : State) (w : Who) (l : List Req) : Cover :=
  l.flatMap fun r => match r with
    | .tile bit0 wd n => padCover w.cell (bit0 / 8) ((bit0 + wd * n + 7) / 8 - bit0 / 8)
    | r => s.coverVa w (r.spans.map fun sp => (sp.va, sp.n))

/-- Which elements of a row to be written share a byte with the source (R259). -/
def State.hits (s : State) (w : Who) (v : Cover) (p : Put) : List Bool :=
  match p with
  | .tile bit0 wd codes _ => (List.range codes.length).map fun e =>
      v.meets (padCover w.cell ((bit0 + wd * e) / 8) ((bit0 + wd * e + wd - 1) / 8 - (bit0 + wd * e) / 8 + 1))
  | .tensor d lin codes _ => (List.range codes.length).map fun e =>
      v.meets (s.coverVa w ((d.spans (lin + e) 1 0 false 0 0 false true).map fun sp => (sp.va, sp.n)))

/-- The elements `q` to `q` + `k` − 1 of a row to be written. -/
def Put.slice (p : Put) (q k : Nat) : Put :=
  match p with
  | .tile bit0 w codes bad => .tile (bit0 + w * q) w ((codes.drop q).take k) ((bad.drop q).take k)
  | .tensor d lin codes bad => .tensor d (lin + q) ((codes.drop q).take k) ((bad.drop q).take k)

/-- The elements of a row whose flag is `want`, as rows of adjacent elements. -/
def Put.pick (p : Put) (flags : List Bool) (want : Bool) : List Put :=
  (runsOf ((List.range flags.length).filter fun e => flags.getD e false == want)).map fun (q, k) => p.slice q k

/-- The row with a free value in every element. -/
def Put.freed (p : Put) (s : State) : State × Put :=
  let free := fun (l : List Nat) => l.foldl (fun ((s, r) : State × List Nat) _ => let (x, s) := s.takeFree; (s, r ++ [x.toNat])) (s, [])
  match p with
  | .tile bit0 w codes _ => let (s, l) := free codes; (s, .tile bit0 w l [])
  | .tensor d lin codes _ => let (s, l) := free codes; (s, .tensor d lin l [])

/-- Writes free values to the elements of checked rows that share a byte with the source (R259). -/
def State.putFree (s : State) (w : Who) (v : Cover) (ps : List Put) : State :=
  (ps.flatMap fun p => p.pick (s.hits w v p) true).foldl (fun s p => let (s, p) := p.freed s; s.putRow w p) s

end Sys2Proof.Machine
end

