-- ==== Sys2Proof/Machine/Matrix.lean ====
section
/-! DEFINITION. The M stream's dense commands, drains and control commands (R230 to R241, R247 to R257). -/

namespace Sys2Proof.Machine

/-! ### Accumulators and operands -/

/-- Row `a` of accumulator tile `c` (R19, R207). -/
def MUnit.row (m : MUnit) (c a : Nat) : Line := m.acc.getD (64 * c + a) 0

/-- Replaces rows 0 to 63 of tile `c`. -/
def MUnit.setRows (m : MUnit) (c : Nat) (f : Nat → Line) : MUnit :=
  { m with acc := (List.range 256).map fun r => if r / 64 = c then f (r % 64) else m.acc.getD r 0 }

/-- The operand group of an element format (R234): 0 float, 1 integer, 2 L6. -/
def groupOf (f : Nat) : Option Nat := if 1 ≤ f ∧ f ≤ 4 then some 0 else if 5 ≤ f ∧ f ≤ 7 then some 1 else if f = 9 then some 2 else none

/-- The format of a tile operand code of `MMA` (R239). -/
def tileFmt (t : BitVec 3) (u : BitVec 1) : Nat :=
  match t.toNat with
  | 0 => 1
  | 1 => 2
  | 2 => 3
  | 3 => 4
  | 4 => if u = 1 then 6 else 5
  | 5 => 7
  | _ => 9

/-- A matrix operand as a command reads it: tile or descriptor, format, plane count and RN (R234, R235). -/
structure MOp where
  tile : Option Nat
  d : Desc
  fmt : Nat
  pn : Nat
  rn : Bool
  deriving DecidableEq, Repr

/-- The operand a field names, with its lead and RN bits (R235); `f` is the format of a tile. -/
def Cell.mOperand (x : Cell) (o : BitVec 9) (f : Nat) (lead rn : BitVec 1) : MOp :=
  let d := x.descAt o
  let pn := if lead = 1 then 1 else 2
  match operandTile o with
  | some t => { tile := some t, d := d, fmt := f, pn := pn, rn := false }
  | none => { tile := none, d := d, fmt := d.delivered pn, pn := pn, rn := lead = 1 && rn = 1 }

/-- The checks of R234, R235 and R237 on an operand for a use (R125) and block format; `MRSUM` asks for no rank (R248). -/
def MOp.ok (o : MOp) (use blk : Nat) (anyRank : Bool := false) : Bool :=
  (groupOf o.fmt).isSome &&
  (match o.tile with
   | some _ => o.pn = 2
   | none => o.d.may use && o.d.blk = blk && (anyRank || o.d.rank = 2) &&
      (if isPlaned o.d.fmt then (o.pn = 1 || o.d.planes = 2) && (!o.rn || o.d.grd) else o.pn = 2))

/-- The row starts of a tensor operand with a dimension-0 origin are 32-byte aligned in each plane read (R86, R237). -/
def MOp.aligned (o : MOp) (i0 : Nat) : Bool :=
  let (w0, w1) := planeWidths o.d.fmt
  o.tile.isSome || (i0 * w0 % 256 = 0 && (!o.d.readsPlane1 o.pn || i0 * w1 % 256 = 0))

/-- Elements from (`i0`, `i1`) of an operand: at most `n` of them that lie inside (R237). -/
def MOp.req (o : MOp) (i0 i1 n : Nat) : Req :=
  let k := if i1 < o.d.dim 1 then min n (o.d.dim 0 - i0) else 0
  .tensor o.d (i0 + i1 * o.d.pitch 1) k o.pn o.rn false i1 i0 true

/-- The value of an integer element's code. -/
def elemInt (f c : Nat) : Int := match fmtValue f c with | .fin n m _ => (if n then -(m : Int) else m) | _ => 0

/-- A product × 2^`e` as it enters a sum of integers: exact, or rounded half to even (R63). -/
def scaledProduct (p e : Int) : Int := if 0 ≤ e then p * (2 ^ e.toNat : Nat) else roundShift p (-e).toNat

/-- One accumulation step on an element: the operand pairs and the prior code (R61 to R63). -/
def accStep (grp fa fb : Nat) (sat : Bool) (prior : Nat) (ps : List (Elem × Elem)) : Nat :=
  let sigma := fun (a b : Elem) => ((a.2.getD 127 : Nat) : Int) + (b.2.getD 127 : Nat) - 254
  let badScale := fun (a : Elem) => a.2 = some 255
  match grp with
  | 0 => floatStep prior (ps.map fun (a, b) => (elemValue fa a).mul (elemValue fb b))
  | 1 => intStep prior (ps.map fun (a, b) =>
      if badScale a || badScale b then 0 else scaledProduct (elemInt fa a.1 * elemInt fb b.1) (sigma a b)) sat
  | _ =>
    l6Step prior (ps.map fun (a, b) =>
      if badScale a || badScale b || a.1 = 32 || b.1 = 32 then none else some (l6Product a.1 b.1 (sigma a b))) sat

/-! ### Issue conditions -/

/-- The accumulator tiles a command writes (R230). -/
def tilesWritten (i : Instr) : List Nat :=
  match i with
  | .mzero _ m => (List.range 4).filter fun n => m.getLsbD n
  | .mma _ c _ _ _ | .mmaExt _ c _ _ _ _ | .mspb _ c _ _ _ | .mspbExt _ c _ _ _ _ | .mscr _ c _ _ _ | .mscrExt _ c _ _ _ _
  | .mscn _ c _ _ _ | .mscnExt _ c _ _ _ _ => [c.toNat]
  | _ => []

/-- The accumulator tiles a command reads or writes; a drain of `CORR` names none (R251). -/
def tilesTouched (i : Instr) : List Nat :=
  match i with
  | .mdrainExt _ c _ x => if x.cr = 1 then [] else [c.toNat]
  | .mdrain _ c _ | .mdrainQ _ c _ _ _ => [c.toNat]
  | i => tilesWritten i

/-- A dense product. -/
def isMma (i : Instr) : Bool :=
  match i with
  | .mma .. | .mmaExt .. => true
  | _ => false

/-- The group of a dense product's operands. -/
def Cell.mmaGroup (x : Cell) (i : Instr) : Option Nat :=
  match i with
  | .mma _ _ a _ _ => groupOf (x.mOperand a 1 0 0).fmt
  | .mmaExt _ _ a _ _ q => groupOf (x.mOperand a (tileFmt q.ta q.ua) q.la q.rna).fmt
  | _ => none

/-- Earlier commands leave a command's accumulator tiles free, and with `corr` the correction row (R230). -/
def Cell.tilesFree (x : Cell) (i : Instr) (corr : Bool) : Bool :=
  x.em.inprog.all fun k =>
    ((tilesWritten k.instr).all (fun t => !(tilesTouched i).contains t) ||
      (isMma k.instr && isMma i && ({ x with tensors := k.table } : Cell).mmaGroup k.instr = x.mmaGroup i)) &&
    (!corr || (match k.instr with | .mrsum .. => false | _ => true))

/-- An M array command: its operands' shutters, its tiles, then `body` (R98, R230). -/
def State.mIssue (s : State) (i : Instr) (b : BitVec 4) (os : List (BitVec 9)) (corr : Bool) (body : Nat → Entry → State → EFin) : State :=
  s.eIssue .m i { unbounded := b = 15 } fun c h s =>
    let x := s.cell c
    if (x.closedTile .m os).isSome || !x.tilesFree i corr then .wait s else body c h s

/-- A FORMAT trap at issue. -/
def formatTrap (s : State) : EFin := .trap s ⟨cFORMAT, 0⟩ none

/-! ### Accumulator errors, MZERO -/

/-- An accumulator row among `rows` (R19's numbering) holds an uncorrectable error (R425). -/
def State.accUncorr (s : State) (c : Nat) (rows : List Nat) : Bool :=
  !s.mem.uncorr.isEmpty && rows.any fun r => s.mem.uncorr.contains (.accRow c r)

/-- Accumulator rows that are overwritten whole lose their error (R425). -/
def State.accClear (s : State) (c : Nat) (rows : List Nat) : State :=
  if s.mem.uncorr.isEmpty then s else rows.foldl (fun s r => s.overwrite (.accRow c r)) s

/-- The rows of accumulator tile `t`. -/
def tileRows (t : Nat) : List Nat := (List.range 64).map (64 * t + ·)

/-- `MZERO` (R238). -/
def execMzero (b m : BitVec 4) (s : State) : Host.Outcome State Fault Refusal :=
  .next (s.mIssue (.mzero b m) b [] false fun c _ s =>
    .issued ((s.accClear c ((List.range 256).filter fun r => m.getLsbD (r / 64))).modCell c fun x => { x with m := { x.m with
      acc := (List.range 256).map fun r => if m.getLsbD (r / 64) then 0 else x.m.acc.getD r 0 } }) 1)

/-! ### MMA -/

/-- The parameters of one `MMA` (R239, R240). -/
structure Dense where
  acc : Nat
  a : MOp
  b : MOp
  ora : Nat
  ork : Nat
  orb : Nat
  k : Nat
  g : Nat
  fresh : Bool
  sat : Bool
  deriving DecidableEq, Repr

/-- The requests of step `st`: the 64 rows of A, then its `g` k-rows of B (R236, R237). -/
def Dense.reqs (m : Dense) (st : Nat) : List Req :=
  let k0 := m.g * st
  ((List.range 64).map fun a => match m.a.tile with
    | some t => .tile (t * 131072 + a * 2048 + k0 * fmtWidth m.a.fmt) (fmtWidth m.a.fmt) m.g
    | none => m.a.req (m.ork + k0) (m.ora + a) m.g) ++
  (List.range m.g).map fun k => match m.b.tile with
    | some t => .tile (t * 131072 + (k0 + k) * 64 * fmtWidth m.b.fmt) (fmtWidth m.b.fmt) 64
    | none => m.b.req m.orb (m.ork + k0 + k) 64

/-- The tile after step `st`, from the rows of its requests (R240). -/
def Dense.apply (m : Dense) (st : Nat) (u : MUnit) (rows : List Row) : MUnit :=
  let start := m.fresh && st = 0
  let grp := (groupOf m.a.fmt).getD 0
  u.setRows m.acc fun a => lineOf 32 64 fun j =>
    let ra := rows.getD a { codes := [] }
    let ps := (List.range m.g).filterMap fun k =>
      let rb := rows.getD (64 + k) { codes := [] }
      if k < ra.codes.length ∧ j < rb.codes.length then some (ra.elem k, rb.elem j) else none
    let old := lane (u.row m.acc a) j
    if start then accStep grp m.a.fmt m.b.fmt m.sat 0 ps
    else if ps.isEmpty then old else accStep grp m.a.fmt m.b.fmt m.sat old ps

/-- One step of `MMA` (R240, R315). -/
def Dense.step (m : Dense) (c st : Nat) (s : State) : Acc State :=
  let s := if m.fresh && st = 0 then s.accClear c (tileRows m.acc) else s
  if s.accUncorr c (tileRows m.acc) then .trap ⟨cUNCORR, 0⟩ else
  (s.readRows (s.whoOf c (.stream .m)) (m.reqs st) true).bind fun (s, rows) =>
    .ok (s.modCell c fun x => { x with m := m.apply st x.m rows }.charge (x.weights.peStep.toNat * 4096))

/-- `MMA` with its extension word (R239, R240); its K is `k_t` when `KL` is 0. -/
def State.mma (s : State) (i : Instr) (b : BitVec 4) (acc : BitVec 2) (a e : BitVec 9) (f : BitVec 1) (q : MmaQ) : State :=
  s.mIssue i b [a, e] false fun c h s =>
    let x := s.cell c
    let oa := x.mOperand a (tileFmt q.ta q.ua) q.la q.rna
    let ob := x.mOperand e (tileFmt q.tb q.ub) q.lb q.rnb
    let wide := fmtWidth oa.fmt = 16 || fmtWidth ob.fmt = 16
    let kt := if wide then 128 else 256
    let g := if wide then 1 else if oa.fmt = 9 ∧ ob.fmt = 9 then 4 else 2
    let k := if q.kl = 0 then kt else 8 * q.kl.toNat
    let m : Dense := { acc := acc.toNat, a := oa, b := ob, ora := origin h q.ora, ork := origin h q.ork, orb := origin h q.orb
                       k := k, g := g, fresh := f = 1, sat := q.sat = 1 }
    if !(oa.ok 2 0 && ob.ok 3 0 && groupOf oa.fmt = groupOf ob.fmt && oa.aligned m.ork && ob.aligned m.orb) ||
        ((oa.tile.isSome || ob.tile.isSome) && kt < k) then formatTrap s
    else s.runCommand c .m (k / g) (m.step c)

/-- The extension word of zeros (R111). -/
def zeroMma : MmaQ := ⟨0, 0, 0, 0, 0, 0, 0, 0, 0, 0, 0, 0, 0⟩

/-- `MMA` without an extension word (R111, R239). -/
def execMma (b : BitVec 4) (c : BitVec 2) (a e : BitVec 9) (f : BitVec 1) (s : State) : Host.Outcome State Fault Refusal :=
  .next (s.mma (.mma b c a e f) b c a e f zeroMma)

/-- `MMA` with its extension word (R239). -/
def execMmaExt (b : BitVec 4) (c : BitVec 2) (a e : BitVec 9) (f : BitVec 1) (x : MmaQ) (s : State) : Host.Outcome State Fault Refusal :=
  .next (s.mma (.mmaExt b c a e f x) b c a e f x)

/-! ### MRSUM -/

/-- The correction row after the k-rows of a step (R248). The products of a scaled INT4 B are scaled and rounded as those of
R63 are (R60; DEDUCED, notes/assumptions/105). -/
def corrStep (z : Int) (fmt : Nat) (c : Line) (rows : List Row) : Line :=
  lineOf 32 64 fun j => rows.foldl (fun acc r =>
    if j < r.codes.length then
      let (b, e) := r.elem j
      intCode 32 (satInt32 (s32 acc + (if e = some 255 then 0 else scaledProduct (z * elemInt fmt b) ((e.getD 127 : Nat) - 127))))
    else acc) (lane c j)

/-- The bytes of a small parameter block: at the start of a tile, or of a tensor's array (R248, R249). -/
def State.paramRead (s : State) (c : Nat) (o : BitVec 9) (n : Nat) : Acc (State × List Nat) :=
  let d := (s.cell c).descAt o
  let r : Req := match operandTile o with
    | some t => .tile (t * 131072) 8 n
    | none => .tensor { d with fmt := 6, sblk := 0, planes := 1 } 0 n 0 false false 0 0 false
  (s.readRows (s.whoOf c (.stream .m)) [r] true).bind fun (s, l) => .ok (s, (l.headD { codes := [] }).codes)

/-- `MRSUM` (R248): four k-rows a step. A `pb` that names a tile, which is no tensor, raises FORMAT (DESIGN CHOICE,
notes/assumptions/105). -/
def execMrsum (b : BitVec 4) (a e : BitVec 9) (f : BitVec 1) (s : State) : Host.Outcome State Fault Refusal :=
  .next (s.mIssue (.mrsum b a e f) b [a, e] true fun c _ s =>
    let x := s.cell c
    let ob := x.mOperand e 5 0 0
    if ob.tile.isSome || !ob.ok 3 0 true || groupOf ob.fmt ≠ some 1 || 2 ^ 26 ≤ ob.d.dim 1 ||
        ((operandTile a).isNone && !(x.descAt a).may 5) then formatTrap s
    else
      let k := x.em.nextStep
      match s.paramRead c a 4 with
      | .trap t => .trap s t (some k)
      | .stall => if k = 0 then .wait s else .part s k
      | .ok (s, zb) =>
        let z := sextNat 32 (joinBits 8 zb)
        s.runCommand c .m ((ob.d.dim 1 + 3) / 4) fun st s =>
          let reqs := ((List.range 4).filter fun i => 4 * st + i < ob.d.dim 1).map fun i => ob.req 0 (4 * st + i) 64
          (s.readRows (s.whoOf c (.stream .m)) reqs true).bind fun (s, rows) =>
            .ok (s.modCell c fun x =>
              let base := if st = 0 ∧ f = 0 then 0 else x.m.corr
              { x with m := { x.m with corr := corrStep z ob.fmt base rows } }))

/-! ### MDRAIN -/

/-- The parameters of one `MDRAIN` (R249 to R251). -/
structure Drain where
  acc : Nat
  tile : Option Nat
  d : Desc
  fmt : Nat
  q : Bool
  cr : Bool
  ak : Nat
  rm : Nat
  satf : Bool
  rows : Nat
  cols : Nat
  ord : Nat
  orc : Nat
  recs : List (BitVec 128)
  deriving DecidableEq, Repr

/-- The exact value of a drained element (R251). -/
def drainValue (ak v : Nat) : Num :=
  match ak with
  | 0 => fmtValue 0 v
  | 1 => .ofInt (s32 v)
  | _ => if v = l6Nar then .nan else (Num.ofInt (s32 v)).scale (-16)

/-- Columns of row `i` that lie inside the destination (R251). -/
def Drain.width (m : Drain) (i : Nat) : Nat :=
  match m.tile with
  | some _ => m.cols
  | none => if m.ord + i < m.d.dim 1 then min m.cols (m.d.dim 0 - m.orc) else 0

/-- The codes of row `i` from the source row, the correction row and the output scales (R251, R60). -/
def Drain.codes (m : Drain) (i : Nat) (src corr : Line) (ph : BitVec 4) (scales : List Nat) : List Nat :=
  (List.range (m.width i)).map fun j =>
    let v := lane src j
    if m.q then intCode (fmtWidth m.fmt) (quantise m.fmt (s32 v) (s32 (lane corr j)) (m.recs.getD j 0))
    else scaledCode (fullFmt m.fmt) (Rnd.at m.rm m.satf ((i * 64 + j) % 16) ph) (drainValue m.ak v) scales[j]?

/-- One row of a drain. One that rounds with SR moves the dither phase on as it completes (R53, R251). -/
def Drain.step (m : Drain) (c i : Nat) (s : State) : Acc State :=
  let w := s.whoOf c (.stream .m)
  let n := m.width i
  if !m.cr && s.accUncorr c [64 * m.acc + i] then .trap ⟨cUNCORR, 0⟩ else
  let rq : List Req := if m.tile.isNone && !m.q then [.scales m.d (m.ord + i) m.orc n] else []
  let put := fun (codes : List Nat) => match m.tile with
    | some t => Put.tile (t * 131072 + i * 64 * fmtWidth m.fmt) (fmtWidth m.fmt) codes []
    | none => Put.tensor m.d (m.orc + (m.ord + i) * m.d.pitch 1) codes []
  (s.spansCheck w (rq.flatMap Req.spans ++ (put (List.replicate n 0)).spans)).bind fun _ =>
  (s.readRows w rq true).bind fun (s, l) =>
    let x := s.cell c
    let src := if m.cr then x.m.corr else x.m.row m.acc i
    let codes := m.codes i src x.m.corr x.em.phaseNow ((l.headD { codes := [] }).scales)
    (s.putRows w [put codes]).bind fun s =>
    .ok (s.modCell c fun x => { x with em := x.em.rounded (!m.q && m.rm = 4 && n ≠ 0) })

/-- The issue checks of R250. -/
def Drain.ok (m : Drain) : Bool :=
  let (w0, w1) := planeWidths m.d.fmt
  (match m.tile with
   | some _ => m.fmt ≤ 9
   | none => m.fmt ≠ 10 && m.d.may 4 && m.d.blk = 0 &&
      ((List.range m.rows).all (fun i => m.width i = 0) ||
        (m.orc * w0 % 256 = 0 && (!(isPlaned m.d.fmt && m.d.planes = 2) || m.orc * w1 % 256 = 0)))) &&
  (!m.q || ((5 ≤ m.fmt && m.fmt ≤ 8) && m.ak = 1)) &&
  (!m.cr || (m.rows = 1 && m.ak = 1 && m.acc = 0 && !m.q))

/-- `MDRAIN` (R249 to R251); `e` is the parameter operand of the `.q` form. -/
def State.mdrain (s : State) (i : Instr) (b : BitVec 4) (acc : BitVec 2) (a : BitVec 9) (e : Option (BitVec 9)) (x : DrainQ) : State :=
  s.mIssue i b (a :: e.toList) (x.cr = 1 || e.isSome) fun c h s =>
    let cell := s.cell c
    let m : Drain :=
      { acc := acc.toNat, tile := operandTile a, d := cell.descAt a
        fmt := if (operandTile a).isSome then x.f.toNat else (cell.descAt a).fmt
        q := e.isSome, cr := x.cr = 1, ak := x.ak.toNat, rm := x.rm.toNat, satf := x.satf = 1
        rows := if x.rq = 0 then 64 else x.rq.toNat, cols := if x.cq = 0 then 64 else x.cq.toNat
        ord := origin h x.ord, orc := origin h x.orc, recs := [] }
    let qOk := match e with
      | some o => (operandTile o).isSome || (cell.descAt o).may 5
      | none => true
    if !(m.ok && qOk) then formatTrap s else
    let k := cell.em.nextStep
    match e with
    | none => s.runCommand c .m m.rows (m.step c)
    | some o =>
      match s.paramRead c o (16 * m.cols) with
      | .trap t => .trap s t (some k)
      | .stall => if k = 0 then .wait s else .part s k
      | .ok (s, bs) =>
        let recs := (List.range m.cols).map fun j => (BitVec.ofNat 128 (joinBits 8 ((bs.drop (16 * j)).take 16)) : BitVec 128)
        if recs.any fun r => !quantOk r then formatTrap s
        else s.runCommand c .m m.rows ({ m with recs := recs }.step c)

/-- The extension word of zeros (R111). -/
def zeroDrain : DrainQ := ⟨0, 0, 0, 0, 0, 0, 0, 0, 0⟩

/-- `MDRAIN` without an extension word (R111, R249). -/
def execMdrain (b : BitVec 4) (c : BitVec 2) (a : BitVec 9) (s : State) : Host.Outcome State Fault Refusal :=
  .next (s.mdrain (.mdrain b c a) b c a none zeroDrain)

/-- `MDRAIN` with its extension word (R249). -/
def execMdrainExt (b : BitVec 4) (c : BitVec 2) (a : BitVec 9) (x : DrainQ) (s : State) : Host.Outcome State Fault Refusal :=
  .next (s.mdrain (.mdrainExt b c a x) b c a none x)

/-- `MDRAIN.Q` (R249 to R251). -/
def execMdrainQ (b : BitVec 4) (c : BitVec 2) (a e : BitVec 9) (x : Option DrainQ) (s : State) : Host.Outcome State Fault Refusal :=
  .next (s.mdrain (.mdrainQ b c a e x) b c a (some e) (x.getD zeroDrain))

/-! ### Configuration, loop, coupling and end -/

/-- A control command that waits until every earlier command of its stream has completed. -/
def State.afterAll (s : State) (c : Nat) (st : Stream) (f : EFin) : EFin :=
  if ((s.cell c).engine st).inprog.isEmpty then f else .wait s

/-- `MCFG` (R252). -/
def execMcfg (b : BitVec 4) (w : BitVec 3) (x : CfgQ) (s : State) : Host.Outcome State Fault Refusal :=
  .next (s.eIssue .m (.mcfg b w x) { unbounded := b = 15 } fun c _ s =>
    s.afterAll c .m (.done (s.modCell c fun y => { y with m := { y.m with
      det := if w.getLsbD 0 then x.mode = 1 else y.m.det
      split := if w.getLsbD 1 then x.split else y.m.split
      levee := if w.getLsbD 2 then (if x.levee = 0 then 64 else x.levee.setWidth 7) else y.m.levee } })))

/-- `MLOOP` issues with no further effect: fetch has resolved it (R254). -/
def execMloop (l : BitVec 6) (n : BitVec 8) (i : BitVec 3) (sc : BitVec 4) (s : State) : Host.Outcome State Fault Refusal :=
  .next (s.eIssue .m (.mloop l n i sc) {} fun _ _ s => .issued s 1)

/-- A token signal of an engine (R36, R89, R255): every earlier command is complete and its writes are performed
at DIE scope. -/
def State.engineSignal (s : State) (c : Nat) (st : Stream) (k : BitVec 5) (n : BitVec 12) : EFin :=
  s.afterAll c st (if s.performedDie (c, .stream st) then .done (s.modCell c fun x => x.signal k.toNat n.toNat) else .wait s)

/-- A token wait of an engine (R255): it completes in program order (R230, R259), and a stream before it in the order of R36
that waits on the token is served first. -/
def State.engineWait (s : State) (c : Nat) (st : Stream) (k : BitVec 5) (n : BitVec 12) : EFin :=
  s.afterAll c st (
    if (s.cell c).token k.toNat < n.toNat || s.tokenTaken c st k.toNat then .wait s else .done (s.modCell c fun x => x.consume k.toNat n.toNat))

/-- A shutter pass of M or C (R100, R256): every earlier command is complete and its writes are performed at CELL
scope. -/
def State.engineShut (s : State) (c : Nat) (st : Stream) (t : BitVec 7) (code : BitVec 3) : EFin :=
  s.afterAll c st (if !s.performedDie (c, .stream st) then .wait s else
    match (s.cell c).enginePass st t.toNat code with
    | none => s.passWaits c st
    | some x => .done (s.setCell c x))

/-- `MTSIG` (R255). -/
def execMtsig (k : BitVec 5) (n : BitVec 12) (s : State) : Host.Outcome State Fault Refusal :=
  .next (s.eIssue .m (.mtsig k n) {} fun c _ s => s.engineSignal c .m k n)

/-- `MTWAIT` (R255). -/
def execMtwait (b : BitVec 4) (k : BitVec 5) (n : BitVec 12) (s : State) : Host.Outcome State Fault Refusal :=
  .next (s.eIssue .m (.mtwait b k n) { unbounded := b = 15 } fun c _ s => s.engineWait c .m k n)

/-- `MSHUT` (R256). -/
def execMshut (b : BitVec 4) (t : BitVec 7) (code : BitVec 3) (s : State) : Host.Outcome State Fault Refusal :=
  .next (s.eIssue .m (.mshut b t code) { unbounded := b = 15 } fun c _ s => s.engineShut c .m t code)

/-- Ends a stream (R257). -/
def Cell.endEngine (x : Cell) (st : Stream) : Cell := x.modEngine st fun g => { g with ended := true, fetching := false }

/-- `MEND` (R257): a command in the injection slot issues before it. -/
def execMend (b : BitVec 4) (s : State) : Host.Outcome State Fault Refusal :=
  .next (s.eIssue .m (.mend b) { unbounded := b = 15 } fun c _ s =>
    s.afterAll c .m (.done (s.modCell c fun x => x.endEngine .m)))

end Sys2Proof.Machine
end

