-- ==== Sys2Proof/Machine/Sparse.lean ====
section
/-! DEFINITION. The sparse commands of M and their front end: metadata and its checks, the live set, parts, the merge
(R65, R66, R207 to R223, R225, R226, R242 to R245). -/

namespace Sys2Proof.Machine

/-! ### Reading metadata -/

/-- A fault found while a sparse command is prepared, with the first row of the block it lies in (R223, R225). -/
structure FrontFault where
  row : Nat
  trap : TrapInfo
  deriving DecidableEq, Repr

/-- The front end while it reads: faults found so far, and whether a shutter held a read. -/
structure Front where
  s : State
  st : Stream := .m
  /-- bytes read -/
  bytes : Nat := 0
  faults : List FrontFault := []
  stall : Bool := false

/-- A request for bytes of memory. -/
def bytesReq (va n : Nat) : Req :=
  .tensor { descOf 0 with fmt := 6, base := va, planes := 1 } 0 n 0 false false 0 0 false

/-- Bytes read by a stream of cell `c` for its own command. -/
def State.engineBytes (s : State) (c : Nat) (st : Stream) (va n : Nat) : Acc (State × List Nat) :=
  (s.readRows (s.whoOf c (.stream st)) [bytesReq va n] true).bind fun (s, l) => .ok (s, (l.headD { codes := [] }).codes)

/-- Bytes of metadata; a fault is charged to `row`, and the bytes count as 0 then. -/
def Front.read (f : Front) (c row va n : Nat) : Front × List Nat :=
  match f.s.engineBytes c f.st va n with
  | .ok (s, l) => ({ f with s := s, bytes := f.bytes + n }, l)
  | .trap t => ({ f with faults := f.faults ++ [⟨row, t⟩] }, List.replicate n 0)
  | .stall => ({ f with stall := true }, List.replicate n 0)

/-- The little-endian field of `n` bytes at `o`. -/
def leField (l : List Nat) (o n : Nat) : Nat := joinBits 8 ((l.drop o).take n)

/-- The META traps of failed checks: sub-kind, index, position (R223). -/
def metaTraps (opnd row : Nat) (l : List (Nat × Nat × Nat)) : List FrontFault :=
  l.map fun (sub, index, pos) =>
    ⟨row, ⟨cMETA, BitVec.ofNat 64 (sub + 256 * opnd + 2 ^ 16 * (index % 2 ^ 32) + 2 ^ 48 * (pos % 65536))⟩⟩

/-- Adds the META faults of failed checks. -/
def Front.fail (f : Front) (l : List FrontFault) : Front := { f with faults := f.faults ++ l }

/-- `BASE` + `VOFF` of a planed tensor obeys R71. -/
def valuesOk (d : Desc) (voff : Nat) : Bool :=
  voff % 32 = 0 && (!isPlaned d.fmt ||
    ((d.base + voff) % planeBlockBytes d.fmt = 0 && (d.planes ≠ 2 || (d.base + voff) % 4096 = d.p1base % 4096)))

/-- A compressed operand as its header gives it (R209, R210). -/
structure Packed where
  d : Desc
  opnd : Nat
  nblk : Nat
  nnz : Nat
  boff : Nat
  roff : Nat
  coff : Nat
  voff : Nat
  deriving DecidableEq, Repr

/-- A BM8 header; none raises FORMAT (R209). -/
def bm8Header (d : Desc) (opnd : Nat) (h : List Nat) : Option Packed :=
  let boff := leField h 8 8
  let voff := leField h 16 8
  if leField h 24 8 = 0 ∧ boff % 16 = 0 ∧ valuesOk d voff then
    some { d := d, opnd := opnd, nblk := leField h 0 4, nnz := leField h 4 4, boff := boff, roff := 0, coff := 0, voff := voff }
  else none

/-- A CSR header; none raises FORMAT (R210). -/
def csrHeader (d : Desc) (h : List Nat) : Option Packed :=
  let roff := leField h 8 8
  let coff := leField h 16 8
  let voff := leField h 24 8
  if leField h 4 4 = 0 ∧ roff % 4 = 0 ∧ coff % 2 = 0 ∧ valuesOk d voff ∧ d.dim 0 ≤ 65536 then
    some { d := d, opnd := 0, nblk := 0, nnz := leField h 0 4, boff := 0, roff := roff, coff := coff, voff := voff }
  else none

/-- The packed value at a position (R126), without a scale. -/
def Packed.value (p : Packed) (o : MOp) (pos : Nat) : Req :=
  .tensor { p.d with base := p.d.base + p.voff } pos 1 o.pn o.rn false 0 0 false

/-- The set bits of a 64-bit map below `n`. -/
def setBits (n x : Nat) : List Nat := (List.range n).filter x.testBit

/-- A directory entry: `OCC` and `FIRSTBLK`, checked (R209, R222). A fault of an `OCC` bit is charged to the rows
of its block, and the other blocks stay; a fault of `FIRSTBLK`, which has no block of its own, is charged to `row`, the first
row of the superblock that a live sequence reaches (DESIGN CHOICE, notes/assumptions/68), and the superblock is passed over. -/
def Front.directory (f : Front) (c : Nat) (p : Packed) (row u v : Nat) : Front × Option (Nat × Nat) :=
  let i := u * ((p.d.dim 0 + 63) / 64) + v
  let (f, bs) := f.read c row (p.d.base + 32 + 16 * i) 16
  let occ := leField bs 0 8
  let first := leField bs 8 4
  let out := (setBits 64 occ).filter fun b => p.d.dim 1 ≤ 64 * u + 8 * (b / 8) || p.d.dim 0 ≤ 64 * v + 8 * (b % 8)
  let f := f.fail (out.flatMap fun b => metaTraps p.opnd (if p.opnd = 0 then 0 else 64 * u + 8 * (b / 8)) [(3, i, b)])
  if p.nblk < first + popcount 64 occ then (f.fail (metaTraps p.opnd row [(6, i, 0)]), none) else (f, some (occ, first))

/-- A block record: `EBM` and `FIRSTVAL`, checked (R209, R222). -/
def Front.block (f : Front) (c : Nat) (p : Packed) (row ri r0 c0 : Nat) : Front × Option (Nat × Nat) :=
  let (f, bs) := f.read c row (p.d.base + p.boff + 16 * ri) 16
  let ebm := leField bs 0 8
  let first := leField bs 8 4
  let count := leField bs 12 1
  let out := (setBits 64 ebm).filter fun x => p.d.dim 1 ≤ r0 + x / 8 || p.d.dim 0 ≤ c0 + x % 8
  let fs := metaTraps p.opnd row ((if count ≠ popcount 64 ebm then [(1, ri, 0)] else []) ++ out.map (fun x => (3, ri, x)) ++
    (if p.nnz < first + count then [(6, ri, 0)] else []))
  (f.fail fs, if fs.isEmpty then some (ebm, first) else none)

/-- The stored elements of the occupied block `b` of superblock (`u`, `v`): row, column, packed position. -/
def Front.elements (f : Front) (c : Nat) (p : Packed) (row u v b : Nat) (dir : Nat × Nat) : Front × List (Nat × Nat × Nat) :=
  let r0 := 64 * u + 8 * (b / 8)
  let c0 := 64 * v + 8 * (b % 8)
  match f.block c p row (dir.2 + popcount b dir.1) r0 c0 with
  | (f, none) => (f, [])
  | (f, some (ebm, first)) => (f, (setBits 64 ebm).map fun x => (r0 + x / 8, c0 + x % 8, first + popcount x ebm))

/-- The stored elements of the occupied blocks of a superblock that `keep` selects. -/
def Front.superblock (f : Front) (c : Nat) (p : Packed) (row : Nat → Nat) (u v : Nat) (dir : Nat × Nat) (keep : Nat → Bool) :
    Front × List (Nat × Nat × Nat) :=
  ((setBits 64 dir.1).filter keep).foldl (fun (f, l) b =>
    let (f, k) := f.elements c p (row b) u v b dir
    (f, l ++ k)) (f, [])

/-! ### The A operand -/

/-- A stored element or scanned element of an output row: k, packed position, and the element itself when scanned. -/
structure AEnt where
  k : Nat
  pos : Nat := 0
  val : Option Elem := none
  deriving DecidableEq, Repr

/-- The A entries of output rows `r0` on, `n` of them, from a BM8 operand, in ascending k (R209, R212). -/
def Front.bm8A (f : Front) (c : Nat) (p : Packed) (r0 n : Nat) : Front × List (List AEnt) :=
  let hi := min (r0 + n) (p.d.dim 1)
  let us := if r0 < hi then (List.range ((hi - 1) / 64 - r0 / 64 + 1)).map (r0 / 64 + ·) else []
  let (f, l) := us.foldl (fun (f, l) u =>
    (List.range ((p.d.dim 0 + 63) / 64)).foldl (fun (f, l) v =>
      match f.directory c p 0 u v with
      | (f, none) => (f, l)
      | (f, some dir) =>
        let (f, k) := f.superblock c p (fun _ => 0) u v dir fun b =>
          let b0 := 64 * u + 8 * (b / 8)
          decide (r0 < b0 + 8 ∧ b0 < hi)
        (f, l ++ k)) (f, l)) (f, ([] : List (Nat × Nat × Nat)))
  (f, (List.range n).map fun i => (l.filter fun (r, _, _) => r = r0 + i).map fun (_, k, pos) => { k := k, pos := pos })

/-- The failed checks of a CSR row's column indices (R222). -/
def columnFaults (d0 row : Nat) (prev : Option Nat) (pos : Nat) (l : List Nat) : List (Nat × Nat × Nat) :=
  match l with
  | [] => []
  | x :: r =>
    (match prev with
     | some y => if x ≤ y then [(2, row, pos)] else []
     | none => []) ++ (if d0 ≤ x then [(3, row, pos)] else []) ++ columnFaults d0 row (some x) (pos + 1) r

/-- The A entries of output rows from a CSR operand (R210, R212, R222). -/
def Front.csrA (f : Front) (c : Nat) (p : Packed) (r0 n : Nat) : Front × List (List AEnt) :=
  let d1 := p.d.dim 1
  let hi := min (r0 + n) d1
  let m := if r0 < hi then hi - r0 + 1 else 0
  let (f, bs) := f.read c 0 (p.d.base + p.roff + 4 * r0) (4 * m)
  let (f, es) := f.read c 0 (p.d.base + p.roff + 4 * d1) 4
  let ptr := fun (i : Nat) => leField bs (4 * i) 4
  let last := leField es 0 4
  let f := f.fail (metaTraps 0 0 (
    (if r0 = 0 ∧ 0 < m ∧ ptr 0 ≠ 0 then [(4, 0, 0)] else []) ++
    ((List.range m).flatMap fun i =>
      (if 0 < i ∧ ptr i < ptr (i - 1) then [(4, r0 + i, 0)] else []) ++ (if p.nnz < ptr i then [(5, r0 + i, 0)] else [])) ++
    (if last ≠ p.nnz then [(5, d1, 0)] else [])))
  (List.range n).foldl (fun (f, rows) i =>
    if m ≤ i + 1 ∨ ptr (i + 1) < ptr i ∨ p.nnz < ptr (i + 1) then (f, rows ++ [[]]) else
    let cnt := ptr (i + 1) - ptr i
    let (f, cs) := f.read c 0 (p.d.base + p.coff + 2 * ptr i) (2 * cnt)
    let cols := (List.range cnt).map fun e => leField cs (2 * e) 2
    let f := f.fail (metaTraps 0 0 (columnFaults (p.d.dim 0) (r0 + i) none 0 cols))
    (f, rows ++ [(List.range cnt).map fun e => { k := cols.getD e 0, pos := ptr i + e }])) (f, ([] : List (List AEnt)))

/-- The A entries of output rows of a dense operand that is scanned: the elements that are no zero code (R212, R245). -/
def Front.scanA (f : Front) (c : Nat) (o : MOp) (r0 n : Nat) : Front × List (List AEnt) :=
  (List.range n).foldl (fun (f, rows) i =>
    match f.s.readRows (f.s.whoOf c (.stream .m)) [o.req 0 (r0 + i) (o.d.dim 0)] true with
    | .trap t => (f.fail [⟨0, t⟩], rows ++ [[]])
    | .stall => ({ f with stall := true }, rows ++ [[]])
    | .ok (s, l) =>
      let r := l.headD { codes := [] }
      ({ f with s := s }, rows ++ [(List.range r.codes.length).filterMap fun k =>
        if zeroCode o.fmt (r.codes.getD k 0) then none else some { k := k, val := some (r.elem k) }])) (f, ([] : List (List AEnt)))

/-! ### The B operand of `MSPB` -/

/-- The stored elements of the block rows of `p` that hold a `k` of the list, in columns `c0` to `c0` + `n` − 1 (R212, R222). -/
def Front.bm8B (f : Front) (c : Nat) (p : Packed) (c0 n : Nat) (ks : List Nat) : Front × List (Nat × Nat × Nat) :=
  let hi := min (c0 + n) (p.d.dim 0)
  let vs := if c0 < hi then (List.range ((hi - 1) / 64 - c0 / 64 + 1)).map (c0 / 64 + ·) else []
  ((ks.map (· / 64)).eraseDups).foldl (fun (f, l) u =>
    let brs := ((ks.filter fun k => k / 64 = u).map (· / 8)).eraseDups
    vs.foldl (fun (f, l) v =>
      match f.directory c p (8 * brs.headD 0) u v with
      | (f, none) => (f, l)
      | (f, some dir) =>
        let (f, k) := f.superblock c p (fun b => 64 * u + 8 * (b / 8)) u v dir fun b =>
          let b0 := 64 * v + 8 * (b % 8)
          brs.contains (8 * u + b / 8) && decide (c0 < b0 + 8 ∧ b0 < hi)
        (f, l ++ (k.filter fun (_, j, _) => decide (c0 ≤ j ∧ j < hi)))) (f, l)) (f, ([] : List (Nat × Nat × Nat)))

/-! ### The plan of a command -/

/-- A sparse command's operands and fields (R242). -/
structure Sparse where
  kind : Nat
  acc : Nat
  a : MOp
  b : MOp
  pa : Option Packed
  pb : Option Packed
  ora : Nat
  orb : Nat
  r : Nat
  cc : Nat
  fresh : Bool
  sat : Bool
  det : Bool
  deriving DecidableEq, Repr

/-- The parts of each output row as array rows, part 0 first (R215). -/
def partsOf (split r : Nat) (counts : List Nat) : List (List Nat) :=
  (counts.foldl (fun (l, i, used) p =>
    let want := if split = 0 ∨ p ≤ split then 0 else (p + split - 1) / split - 1
    let extra := min want (64 - r - used)
    (l ++ [i :: (List.range extra).map (r + used + ·)], i + 1, used + extra)) (([] : List (List Nat)), 0, 0)).1

/-- The run that holds entry `ix` of `p` entries in `parts` contiguous runs (R216). -/
def runOf (p parts ix : Nat) : Nat :=
  let q := p / parts
  let m := p % parts
  if ix < m * (q + 1) then ix / (q + 1) else m + (ix - m * (q + 1)) / q

/-- A live sequence: its k, its A entries with output row and index in that row, its B elements of `MSPB`. -/
structure Sequence where
  k : Nat
  as : List (Nat × Nat × AEnt)
  bs : List (Nat × Nat)
  deriving DecidableEq, Repr

/-- What the front end plans: sequences, parts, the counts P_i, and the fault with the sequence it is charged to. -/
structure Plan where
  seqs : List Sequence
  parts : List (List Nat)
  counts : List Nat
  fault : Option (Nat × TrapInfo)
  deriving DecidableEq, Repr

/-- The fault that is raised (R131, R223): the lowest sequence, then the rank of its cause, A before B; among equals
a free choice (notes/assumptions/13). -/
def Front.pick (f : Front) (live : List Nat) : State × Option (Nat × TrapInfo) :=
  let l := f.faults.map fun x => ((live.filter fun k => decide (k < x.row)).length, x.trap)
  match l with
  | [] => (f.s, none)
  | h :: _ =>
    let key := fun (x : Nat × TrapInfo) =>
      x.1 * 64 + 2 * causeRank x.2.cause + (if x.2.cause = cMETA then bit (x.2.info.getLsbD 8) else 0)
    let best := l.foldl (fun m x => min m (key x)) (key h)
    let same := l.filter fun x => key x = best
    if same.length ≤ 1 then (f.s, same.head?)
    else
      let (v, s) := f.s.takeFree
      (s, same[v.toNat % same.length]?)

/-- Reads the metadata and forms the live set, the parts and the fault (R212, R215, R222, R223); none while a
shutter holds a read. -/
def Sparse.plan (m : Sparse) (c : Nat) (s : State) : Option (State × Plan) :=
  let (f, rows) := match m.pa with
    | some p => if m.kind = 0 then ({ s := s : Front }).bm8A c p m.ora m.r else ({ s := s : Front }).csrA c p m.ora m.r
    | none => ({ s := s : Front }).scanA c m.a m.ora m.r
  if f.stall then none else
  let split := (s.cell c).m.split.toNat
  let counts := rows.map List.length
  let parts := partsOf split m.r counts
  let ks := ((rows.flatMap fun r => r.map AEnt.k).mergeSort).eraseDups
  let (f, bl) := match m.pb with
    | some p => if f.faults.isEmpty then f.bm8B c p m.orb m.cc ks else (f, [])
    | none => (f, [])
  if f.stall then none else
  let live := if m.kind = 0 then ks.filter fun k => bl.any fun (r, _, _) => r = k else ks
  let seqs := live.map fun k => ({
    k := k
    as := (List.range m.r).flatMap fun i =>
      let row := rows.getD i []
      (row.zipIdx.filter fun (e, _) => e.k = k).map fun (e, ix) => (i, ix, e)
    bs := (bl.filter fun (r, _, _) => r = k).map fun (_, j, pos) => (j - m.orb, pos) } : Sequence)
  let (s, fault) := f.pick live
  some (s, { seqs := seqs, parts := parts, counts := counts, fault := fault })

/-! ### Sequences and the merge -/

/-- The requests of a sequence: its A values, then the B row (R213). -/
def Sparse.reqs (m : Sparse) (q : Sequence) : List Req :=
  (match m.pa with
   | some p => q.as.map fun (_, _, e) => p.value m.a e.pos
   | none => []) ++
  match m.pb with
  | some p => q.bs.map fun (_, pos) => p.value m.b pos
  | none => [m.b.req m.orb q.k m.cc]

/-- The A elements of a sequence from its rows as read. -/
def Sparse.aElems (m : Sparse) (q : Sequence) (rows : List Row) : List (Nat × Nat × Elem) :=
  (q.as.zipIdx).map fun ((i, ix, e), n) => (i, ix, match e.val with
    | some v => v
    | none => if m.pa.isSome then ((rows.getD n { codes := [] }).elem 0) else (0, none))

/-- The lanes of a sequence with their B elements (R212, R213). -/
def Sparse.bElems (m : Sparse) (q : Sequence) (rows : List Row) : List (Nat × Elem) :=
  let na := if m.pa.isSome then q.as.length else 0
  match m.pb with
  | some _ => (q.bs.zipIdx).map fun ((j, _), n) => (j, (rows.getD (na + n) { codes := [] }).elem 0)
  | none =>
    let r := rows.getD na { codes := [] }
    (List.range r.codes.length).filterMap fun j => if zeroCode m.b.fmt (r.codes.getD j 0) then none else some (j, r.elem j)

/-- The tile at the start point: the partial rows, and under `FRESH` the elements of the output (R218, R244). -/
def Sparse.start (m : Sparse) (parts : List (List Nat)) (u : MUnit) : MUnit :=
  let partials := parts.flatMap (·.drop 1)
  u.setRows m.acc fun r =>
    if partials.contains r then 0
    else if m.fresh && decide (r < m.r) then lineOf 32 64 fun j => if j < m.cc then 0 else lane (u.row m.acc r) j
    else u.row m.acc r

/-- The accumulator rows that the start point overwrites whole. -/
def Sparse.cleared (m : Sparse) (parts : List (List Nat)) : List Nat :=
  (parts.flatMap (·.drop 1) ++ if m.fresh && m.cc = 64 then List.range m.r else []).map (64 * m.acc + ·)

/-- One packet's products accumulated into an array row (R207). A zero code of A that a CSR operand stores forms no product;
one that BM8 metadata marks as present does (R208, notes/assumptions/98). -/
def Sparse.packet (m : Sparse) (u : MUnit) (r : Nat) (a : Elem) (bs : List (Nat × Elem)) : MUnit :=
  if m.kind = 1 ∧ zeroCode m.a.fmt a.1 then u else
  { u with acc := modAt u.acc (64 * m.acc + r) fun l => lineOf 32 64 fun j =>
      match look bs j with
      | some b => accStep ((groupOf m.a.fmt).getD 0) m.a.fmt m.b.fmt m.sat (lane l j) [(a, b)]
      | none => lane l j }

/-! ### The per-row queues -/

/-- Packets in the queue of array row `a`. -/
def MUnit.qlen (u : MUnit) (a : Nat) : Nat := (u.rowq.filter fun e => e.1 = a).length

/-- Each array row consumes its first packet, when it was placed in an earlier cycle (R207, R213). -/
def MUnit.consume (u : MUnit) : List (Nat × Nat × Nat) :=
  (u.rowq.foldl (fun (keep, gone) e =>
    if e.2.2 < u.qnow && !gone.contains e.1 then (keep, e.1 :: gone) else (keep ++ [e], gone)) (([] : List (Nat × Nat × Nat)), ([] : List Nat))).1

/-- The trailing position when sequence `n` is the lowest not yet placed (R220). -/
def MUnit.trailing (u : MUnit) (n : Nat) : Nat :=
  match u.rowq with
  | [] => n
  | e :: r => r.foldl (fun t x => min t x.2.1) e.2.1

/-- The part of output row `i` that takes its entry `ix`: in DET mode its run, in FAST mode the shortest queue, the lowest
array row among equals (R216, R217). -/
def Sparse.partFor (m : Sparse) (p : Plan) (u : MUnit) (i ix : Nat) : Nat :=
  let ps := p.parts.getD i [i]
  if m.det then ps.getD (runOf (p.counts.getD i 0) ps.length ix) i
  else ps.foldl (fun best a => if u.qlen a < u.qlen best ∨ (u.qlen a = u.qlen best ∧ a < best) then a else best) (ps.headD i)

/-- Array rows with an empty queue while packets are not yet placed of their own run, in FAST mode of their output row, from
sequence `n` on (R221). -/
def Sparse.idleRows (m : Sparse) (p : Plan) (u : MUnit) (n : Nat) : Nat :=
  let left := (p.seqs.drop n).flatMap fun q => q.as.map fun (i, ix, _) => (i, ix)
  (p.parts.zipIdx.map fun (ps, i) => (ps.zipIdx.filter fun (a, k) => u.qlen a = 0 &&
    left.any fun (j, ix) => j = i && (!m.det || runOf (p.counts.getD i 0) ps.length ix = k)).length).sum

/-- A cycle passes before sequence `n` is placed; `held` counts it for a full queue and for the levee. -/
def Sparse.cycle (m : Sparse) (p : Plan) (n : Nat) (held : Bool × Bool) (u : MUnit) : MUnit :=
  { u with
    rowq := u.consume, qnow := u.qnow + 1, qplaced := 0, statIdle := u.statIdle + BitVec.ofNat 64 (m.idleRows p u n)
    statQfull := u.statQfull + BitVec.ofNat 64 (bit held.1), statLevee := u.statLevee + BitVec.ofNat 64 (bit held.2) }

/-- `d` cycles pass until sequence `n` is ready; the queues are empty after 32 of them. -/
def Sparse.await (m : Sparse) (p : Plan) (n d : Nat) (u : MUnit) : MUnit :=
  let u := (List.range (min d 32)).foldl (fun u _ => m.cycle p n (false, false) u) u
  { u with qnow := u.qnow + (d - 32), statIdle := u.statIdle + BitVec.ofNat 64 ((d - 32) * m.idleRows p u n) }

/-- Sequence `n`, which is ready, waits until it may be placed (R213, R219, R220): at most four go in a cycle, none of the
queues it needs is full, and it lies within the levee. Queues of 32 entries bound the wait. -/
def Sparse.settle (m : Sparse) (p : Plan) (n : Nat) (need : List (Nat × Nat)) (fuel : Nat) (u : MUnit) : MUnit :=
  match fuel with
  | 0 => u
  | fuel + 1 =>
    if 4 ≤ u.qplaced then m.settle p n need fuel (m.cycle p n (false, false) u) else
    let full := need.any fun (i, ix) => 32 ≤ u.qlen (m.partFor p u i ix)
    let levee := u.trailing n + u.levee.toNat ≤ n
    if full || levee then m.settle p n need fuel (m.cycle p n (full, levee) u) else u

/-- Sequence `n` is prepared, placed and consumed (R207, R213, R216, R217). How many cycles it takes to get ready is open
(R246). -/
def Sparse.step (m : Sparse) (p : Plan) (c n : Nat) (q : Sequence) (s : State) : Acc State :=
  (s.readRows (s.whoOf c (.stream .m)) (m.reqs q) true).bind fun (s, rows) =>
    let bs := m.bElems q rows
    let (d, s) := s.takeFree
    let need := if bs.isEmpty then [] else q.as.map fun (i, ix, _) => (i, ix)
    let s := s.modCell c fun x => { x with m := m.settle p n need 128 (m.await p n d.toNat x.m) }
    let s := if n = 0 then (s.accClear c (m.cleared p.parts)).modCell c fun x => { x with m := m.start p.parts x.m } else s
    let as := m.aElems q rows
    if !bs.isEmpty && s.accUncorr c (as.flatMap fun (i, _) => (p.parts.getD i [i]).map (64 * m.acc + ·)) then .trap ⟨cUNCORR, 0⟩ else
    let pairs := as.length * bs.length
    let place := fun (u : MUnit) =>
      let l := if bs.isEmpty then [] else as.map fun (i, ix, a) => (m.partFor p u i ix, a)
      let v := l.foldl (fun v (r, a) => m.packet v r a bs) u
      { v with rowq := v.rowq ++ l.map fun (r, _) => (r, n, v.qnow), qplaced := v.qplaced + 1, statPairs := v.statPairs + BitVec.ofNat 64 pairs }
    .ok (s.modCell c fun x => { x with m := place x.m }.charge (x.weights.pair.toNat * pairs))

/-- One addition of the merge (R65). -/
def mergeAdd (grp : Nat) (sat : Bool) (a b : Nat) : Nat :=
  match grp with
  | 0 => floatStep a [fmtValue 0 b]
  | 1 => intStep a [s32 b] sat
  | _ => l6Step a [if b = l6Nar then none else some (s32 b)] sat

/-- One level of the merge tree: adjacent pairs left to right, an odd last partial passes up. -/
def mergeLevel (f : Nat → Nat → Nat) (l : List Nat) : List Nat :=
  match l with
  | a :: b :: r => f a b :: mergeLevel f r
  | l => l

/-- The merge tree over the partials (R65). -/
def mergeTree (fuel : Nat) (f : Nat → Nat → Nat) (l : List Nat) : Nat :=
  match fuel with
  | 0 => l.headD 0
  | fuel + 1 => if l.length ≤ 1 then l.headD 0 else mergeTree fuel f (mergeLevel f l)

/-- The merge of the split output rows (R218). -/
def Sparse.merge (m : Sparse) (parts : List (List Nat)) (u : MUnit) : MUnit :=
  let grp := (groupOf m.a.fmt).getD 0
  u.setRows m.acc fun r =>
    match parts[r]? with
    | some ps => if ps.length ≤ 1 then u.row m.acc r else lineOf 32 64 fun j =>
        if j < m.cc then mergeTree 7 (mergeAdd grp m.sat) (ps.map fun k => lane (u.row m.acc k) j) else lane (u.row m.acc r) j
    | none => if parts.any fun ps => (ps.drop 1).contains r then 0 else u.row m.acc r

/-- Step `n` of a planned command: a sequence, the fault at its place, or after the last sequence the end: the
merge, or with no live sequence the `FRESH` values (R244). -/
def Sparse.run (m : Sparse) (p : Plan) (c n : Nat) (s : State) : Acc State :=
  let stop := match p.fault with
    | some (f, t) => if f ≤ n then some t else none
    | none => none
  match stop with
  | some t => .trap t
  | none =>
    match p.seqs[n]? with
    | some q => m.step p c n q s
    | none =>
      let s := if p.seqs.isEmpty then s.accClear c (m.cleared []) else s
      if !p.seqs.isEmpty && s.accUncorr c ((p.parts.filter fun l => decide (1 < l.length)).flatten.map (64 * m.acc + ·)) then
        .trap ⟨cUNCORR, 0⟩
      else .ok (s.modCell c fun x => { x with m := if p.seqs.isEmpty then (m.start [] x.m) else m.merge p.parts x.m })

/-- Effective DET mode of cell `c` (R211, R243). -/
def Cell.detMode (x : Cell) : Bool := x.res.det || x.m.det

/-- The headers of the operands: none inside raises FORMAT, also when the other header cannot be read (R131, R209, R210). -/
def State.sparseHeaders (s : State) (c kind : Nat) (a b : MOp) : Acc (State × Option (Option Packed × Option Packed)) :=
  if kind = 2 then .ok (s, some (none, none)) else
  match s.engineBytes c .m a.d.base 32 with
  | .stall => .stall
  | .ok (s, ha) =>
    if kind = 1 then .ok (s, (csrHeader a.d ha).map fun p => (some p, none)) else
    (match bm8Header a.d 0 ha with
     | none => .ok (s, none)
     | some p => (s.engineBytes c .m b.d.base 32).bind fun (s, hb) => .ok (s, (bm8Header b.d 1 hb).map fun q => (some p, some q)))
  | .trap t =>
    if kind = 1 then .trap t else
    match s.engineBytes c .m b.d.base 32 with
    | .ok (s, hb) => if (bm8Header b.d 1 hb).isNone then .ok (s, none) else .trap t
    | _ => .trap t

/-- Whether `MSPB` (0), `MSCR` (1) and `MSCN` (2) take these operands (R242, R243). -/
def sparseOk (kind : Nat) (a b : MOp) (ora orb : Nat) (sat det : Bool) : Bool :=
  a.tile.isNone && b.tile.isNone && a.ok 2 (if kind = 0 then 1 else if kind = 1 then 2 else 0) && b.ok 3 (if kind = 0 then 1 else 0) &&
  a.d.dim 0 = b.d.dim 1 && decide (a.d.dim 0 < 2 ^ 24) && groupOf a.fmt = groupOf b.fmt &&
  (if kind = 0 then ora % 8 = 0 && orb % 8 = 0 else b.aligned orb) && (!sat || det)

/-- A sparse command (R242 to R244): `kind` 0 is `MSPB`, 1 `MSCR`, 2 `MSCN`. Its first issue counts the split rows also when
the A metadata faults there: the parts are then those of the rows as far as they were read (R215, DESIGN CHOICE,
notes/assumptions/68). -/
def State.sparse (s : State) (i : Instr) (kind : Nat) (b : BitVec 4) (acc : BitVec 2) (a e : BitVec 9) (f : BitVec 1) (q : SparseQ) : State :=
  s.mIssue i b [] false fun c h s =>
    let x := s.cell c
    let oa := x.mOperand a 1 q.la q.rna
    let ob := x.mOperand e 1 q.lb q.rnb
    let ora := origin h q.ora
    let orb := origin h q.orb
    let k := x.em.nextStep
    if !sparseOk kind oa ob ora orb (q.sat = 1) x.detMode then formatTrap s else
    match s.sparseHeaders c kind oa ob with
    | .trap t => .trap s t (some k)
    | .stall => if k = 0 then .wait s else .part s k
    | .ok (_, none) => formatTrap s
    | .ok (t, some (pa, pb)) =>
      let m : Sparse :=
        { kind := kind, acc := acc.toNat, a := oa, b := ob, pa := pa, pb := pb, ora := ora, orb := orb
          r := if q.rq = 0 then 64 else q.rq.toNat, cc := if q.cq = 0 then 64 else q.cq.toNat
          fresh := f = 1, sat := q.sat = 1, det := x.detMode }
      match m.plan c t with
      | none => if k = 0 then .wait s else .part s k
      | some (t, p) =>
        let t := t.modCell c fun x => { x with m := { x.m with rowq := [], qnow := 0, qplaced := 0 } }
        let t := if k = 0 ∧ !x.m.rowValid then t.modCell c fun x => { x with m := { x.m with
            statSplit := x.m.statSplit + BitVec.ofNat 64 (p.parts.filter fun l => decide (1 < l.length)).length } } else t
        match t.runCommand c .m (p.seqs.length + 1) (m.run p c) with
        | .wait _ => .wait s
        | r => r

/-- The extension word of zeros (R111). -/
def zeroSparse : SparseQ := ⟨0, 0, 0, 0, 0, 0, 0, 0, 0⟩

/-- `MSPB` without an extension word (R111, R242). -/
def execMspb (b : BitVec 4) (c : BitVec 2) (a e : BitVec 9) (f : BitVec 1) (s : State) : Host.Outcome State Fault Refusal :=
  .next (s.sparse (.mspb b c a e f) 0 b c a e f zeroSparse)

/-- `MSPB` with its extension word (R242). -/
def execMspbExt (b : BitVec 4) (c : BitVec 2) (a e : BitVec 9) (f : BitVec 1) (x : SparseQ) (s : State) : Host.Outcome State Fault Refusal :=
  .next (s.sparse (.mspbExt b c a e f x) 0 b c a e f x)

/-- `MSCR` without an extension word (R111, R242). -/
def execMscr (b : BitVec 4) (c : BitVec 2) (a e : BitVec 9) (f : BitVec 1) (s : State) : Host.Outcome State Fault Refusal :=
  .next (s.sparse (.mscr b c a e f) 1 b c a e f zeroSparse)

/-- `MSCR` with its extension word (R242). -/
def execMscrExt (b : BitVec 4) (c : BitVec 2) (a e : BitVec 9) (f : BitVec 1) (x : SparseQ) (s : State) : Host.Outcome State Fault Refusal :=
  .next (s.sparse (.mscrExt b c a e f x) 1 b c a e f x)

/-- `MSCN` without an extension word (R111, R242). -/
def execMscn (b : BitVec 4) (c : BitVec 2) (a e : BitVec 9) (f : BitVec 1) (s : State) : Host.Outcome State Fault Refusal :=
  .next (s.sparse (.mscn b c a e f) 2 b c a e f zeroSparse)

/-- `MSCN` with its extension word (R242). -/
def execMscnExt (b : BitVec 4) (c : BitVec 2) (a e : BitVec 9) (f : BitVec 1) (x : SparseQ) (s : State) : Host.Outcome State Fault Refusal :=
  .next (s.sparse (.mscnExt b c a e f x) 2 b c a e f x)

end Sys2Proof.Machine
end

