-- ==== Sys2Proof/Machine/Copy.lean ====
section
/-! DEFINITION. The C stream's moves: `COPY`, `COPY.F`, `GATH`, `SCAT`, `FILL` and `CLONE` (R259 to R272). -/

namespace Sys2Proof.Machine

/-! ### Issue and accounting -/

/-- A C command: fewer than four in progress, its operands' shutters, then `body` (R98, R259). -/
def State.cIssue (s : State) (i : Instr) (unbounded : Bool) (os : List (BitVec 9)) (body : Nat → Entry → State → EFin) : State :=
  s.eIssue .c i { unbounded := unbounded } fun c h s =>
    let x := s.cell c
    if 4 ≤ x.ec.inprog.length || (x.closedTile .c os).isSome then .wait s else body c h s

/-- Adds a step's bytes to `SB`, `DB` and the copy status counters, and charges them (R262, R315). -/
def State.cAccount (s : State) (c sb db : Nat) : State :=
  s.modCell c fun x => { x with c := { x.c with
    sb := x.c.sb + BitVec.ofNat 64 sb, db := x.c.db + BitVec.ofNat 64 db
    statSrc := x.c.statSrc + BitVec.ofNat 64 sb, statDst := x.c.statDst + BitVec.ofNat 64 db } }.charge (x.weights.copyB.toNat * db)

/-- Writes the rows of a step and accounts for it. -/
def State.cPut (s : State) (c sb : Nat) (ps : List Put) : Acc State :=
  (s.putRows (s.whoOf c (.stream .c)) ps).bind fun s => .ok (s.cAccount c sb (putBytes ps))

/-- Writes the rows of a step of a command whose source covers `v`, and accounts for it: an element that shares a byte
with the source is not written here (R259, notes/assumptions/97). -/
def State.cPutApart (s : State) (c sb : Nat) (v : Cover) (ps : List Put) : Acc State :=
  if v.isEmpty then s.cPut c sb ps else
  let w := s.whoOf c (.stream .c)
  (s.spansCheck w (ps.flatMap Put.spans)).bind fun _ =>
    .ok (((ps.flatMap fun p => p.pick (s.hits w v p) false).foldl (fun s p => s.putRow w p) s).cAccount c sb (putBytes ps))

/-- The same for a step whose shared elements take free values at once (R259, notes/assumptions/97). -/
def State.cPutFree (s : State) (c sb : Nat) (v : Cover) (ps : List Put) : Acc State :=
  (s.cPutApart c sb v ps).bind fun s => .ok (s.putFree (s.whoOf c (.stream .c)) v ps)

/-- Source bytes of rows that have been read (R262). -/
def sourceBytes (rows : List Row) : Nat := (rows.map Row.bytes).foldl (· + ·) 0

/-! ### Regions -/

/-- Rows of a tensor operand's view (R263). -/
def Desc.rowCount (d : Desc) : Nat := d.dim 1 * d.dim 2 * d.dim 3

/-- The linear position of a row's first element (R126, R263). -/
def Desc.rowPos (d : Desc) (r : Nat) : Nat :=
  r % d.dim 1 * d.pitch 1 + r / d.dim 1 % d.dim 2 * d.pitch 2 + r / (d.dim 1 * d.dim 2) * d.pitch 3

/-- The pitch in bytes of a `TPL` field; 0 packs rows (R263). -/
def pitchBytes (t : BitVec 3) : Nat := if t = 0 then 0 else 16 * 2 ^ t.toNat

/-- A region of a C command's operand (R263): a tile with its row pitch, element width and row length, or a tensor
from a row origin with the planes a read takes. -/
structure Region where
  tile : Option Nat
  d : Desc
  org : Nat
  p : Nat
  w : Nat
  len : Nat
  pn : Nat := 0
  rn : Bool := false
  sat : Bool := false
  deriving DecidableEq, Repr

/-- The bit of the scratchpad at which element `e` of row `r` of a tile region begins. -/
def Region.bit (g : Region) (t r e : Nat) : Nat := t * 131072 + (if g.p = 0 then r * g.len * g.w else r * g.p * 8) + e * g.w

/-- `n` elements from element `e` of row `r`. -/
def Region.read (g : Region) (r e n : Nat) (scales : Bool) : Req :=
  match g.tile with
  | some t => .tile (g.bit t r e) g.w n
  | none => .tensor g.d (g.d.rowPos (g.org + r) + e) n g.pn g.rn g.sat (g.org + r) e scales

/-- Codes written from element `e` of row `r` on. -/
def Region.write (g : Region) (r e : Nat) (codes : List Nat) (bad : List Bool) : Put :=
  match g.tile with
  | some t => .tile (g.bit t r e) g.w codes bad
  | none => .tensor g.d (g.d.rowPos (g.org + r) + e) codes bad

/-- The bytes that a region's tile or dense tensor covers as a whole. -/
def State.bounds (s : State) (w : Who) (g : Region) : Cover :=
  match g.tile with
  | some t => padCover w.cell (t * 16384) 16384
  | none => s.coverVa w g.d.arrays

/-- `rows` rows fit: within the tensor's rows, or within the tile at a pitch that holds a row (R263, R265). -/
def Region.fits (g : Region) (rows : Nat) : Bool :=
  match g.tile with
  | none => decide (g.org + rows ≤ g.d.rowCount)
  | some _ => (g.p = 0 || decide ((g.len * g.w + 7) / 8 ≤ g.p)) && (rows = 0 || decide (g.bit 0 (rows - 1) 0 + g.len * g.w ≤ 131072))

/-- A plane count and RN mode that a tensor permits (R70, R265). -/
def Desc.planesOk (d : Desc) (pn : Nat) (rn : Bool) : Bool :=
  pn ≠ 3 && (if isPlaned d.fmt then (pn = 1 || d.planes = 2) else pn ≠ 1) && (!rn || d.grd)

/-- A tensor source: dense, permitting `CRD`, with these planes. -/
def Desc.sourceOk (d : Desc) (pn : Nat) (rn : Bool) : Bool := d.blk = 0 && d.may 0 && d.planesOk pn rn

/-- A dense tensor destination permitting `CWR`, with rows of `n` elements. -/
def Desc.destOk (d : Desc) (n : Nat) : Bool := d.blk = 0 && d.may 1 && d.dim 0 = n

/-! ### COPY -/

/-- A copy as R265 fixes it: regions, rows, row length, formats. -/
structure CopyPlan where
  src : Region
  dst : Region
  rows : Nat
  cols : Nat
  tr : Nat
  fmt : Nat
  conv : Bool
  rm : Nat
  satf : Bool
  ok : Bool
  deriving DecidableEq, Repr

/-- The region, formats and checks of `COPY` (R265). -/
def Cell.copyPlan (x : Cell) (h : Entry) (d e : BitVec 9) (t : BitVec 2) (q : CopyQ) : CopyPlan :=
  let td := operandTile d
  let ts := operandTile e
  let dd := x.descAt d
  let ds := x.descAt e
  let ord := if td.isSome then 0 else origin h q.ord
  let ors := if ts.isSome then 0 else origin h q.ors
  let both := td.isSome && ts.isSome
  let fmt := if both then 6 else if ts.isSome then fullFmt dd.fmt else ds.delivered q.pn.toNat
  let w := fmtWidth fmt
  let ext := if td.isSome then ds else dd
  let org := if td.isSome then ors else ord
  let r := if q.rows ≠ 0 then q.rows.toNat else if both then 1 else ext.rowCount - org
  let c := if q.elems ≠ 0 then 32 * q.elems.toNat else if both then 16384 else ext.dim 0
  let dr := if t = 0 then r else c
  let dc := if t = 0 then c else r
  let src : Region := { tile := ts, d := ds, org := ors, p := pitchBytes q.tpl, w := w, len := c, pn := q.pn.toNat, rn := q.rn = 1, sat := q.satf = 1 }
  let dst : Region := { tile := td, d := dd, org := ord, p := pitchBytes q.tpl, w := w, len := dc }
  { src := src, dst := dst, rows := r, cols := c, tr := t.toNat, fmt := fmt, rm := q.rm.toNat, satf := q.satf = 1
    conv := td.isNone && ts.isNone && fmt ≠ fullFmt dd.fmt
    ok := (if both then q.pn = 0 && q.rn = 0 && t = 0
           else (if ts.isSome then q.pn ≠ 3 && q.pn ≠ 1 && q.rn = 0 else ds.sourceOk q.pn.toNat (q.rn = 1) && decide (c ≤ ds.dim 0)) &&
             (td.isSome || dd.destOk dc) && (t = 0 || w = 8 * t.toNat)) &&
          src.fits r && dst.fits dr }

/-- The codes that row `r` of a copy writes, from the source row and the scale rows of the destination (R266). -/
def CopyPlan.codes (m : CopyPlan) (r : Nat) (ph : BitVec 4) (rows : List Row) : List Nat :=
  let row := rows.headD { codes := [] }
  if !m.conv then row.codes else
  (List.range m.cols).map fun i =>
    let pos := if m.tr = 0 then r * m.cols + i else i * m.rows + r
    let scale := if m.tr = 0 then (rows.getD 1 { codes := [] }).scales[i]? else (rows.getD (1 + i) { codes := [] }).scales[0]?
    scaledCode (fullFmt m.dst.d.fmt) (Rnd.at m.rm m.satf (pos % 16) ph) (elemValue m.fmt (row.elem i)) scale

/-- The output scales that row `r` of a converting copy reads (R60). -/
def CopyPlan.scaleReqs (m : CopyPlan) (r : Nat) : List Req :=
  if !m.conv || m.dst.d.sblk = 0 then []
  else if m.tr = 0 then [.scales m.dst.d (m.dst.org + r) 0 m.cols]
  else (List.range m.cols).map fun i => .scales m.dst.d (m.dst.org + i) r 1

/-- The bytes of the source when it may share one with the destination (R259). -/
def CopyPlan.cover (m : CopyPlan) (s : State) (w : Who) : Cover :=
  if (s.bounds w m.src).meets (s.bounds w m.dst) then s.coverOf w ((List.range m.rows).map fun r => m.src.read r 0 m.cols m.conv) else []

/-- The rows that source row `r` writes. -/
def CopyPlan.puts (m : CopyPlan) (r : Nat) (codes : List Nat) (bad : List Bool) : List Put :=
  if m.tr = 0 then [m.dst.write r 0 codes bad]
  else (List.range m.cols).map fun i => m.dst.write i r [codes.getD i 0] (if bad.isEmpty then [] else [bad.getD i false])

/-- One source row of `COPY`; after the last, elements that share a byte with the source take free values
(R259). One that converts with SR moves the dither phase on as it completes (R53, R266). -/
def CopyPlan.step (m : CopyPlan) (c r : Nat) (s : State) : Acc State :=
  let w := s.whoOf c (.stream .c)
  let reqs := m.src.read r 0 m.cols m.conv :: m.scaleReqs r
  (s.spansCheck w (reqs.flatMap Req.spans ++ (m.puts r (List.replicate m.cols 0) []).flatMap Put.spans)).bind fun _ =>
  (s.readRows w reqs m.conv).bind fun (s, rows) =>
    let codes := m.codes r (s.cell c).ec.phaseNow rows
    let v := m.cover s w
    (s.cPutApart c (sourceBytes rows) v (m.puts r codes (rows.headD { codes := [] }).bad)).bind fun s =>
      let s := if r + 1 = m.rows then s.putFree (s.whoOf c (.stream .c)) v
          ((List.range m.rows).flatMap fun r => m.puts r (List.replicate m.cols 0) []) else s
      .ok (s.modCell c fun x => { x with ec := x.ec.rounded (m.conv && m.rm = 4 && m.cols ≠ 0) })

/-- `COPY` in all its forms (R264 to R266); `free` when a bound of 15 must be privileged. -/
def State.copy (s : State) (i : Instr) (free : Bool) (d e : BitVec 9) (t : BitVec 2) (q : CopyQ) : State :=
  s.cIssue i free [d, e] fun c h s =>
    let m := (s.cell c).copyPlan h d e t q
    if !m.ok then formatTrap s else s.runCommand c .c m.rows (m.step c)

/-- The extension word of zeros (R111). -/
def zeroCopy : CopyQ := ⟨0, 0, 0, 0, 0, 0, 0, 0, 0⟩

/-- `COPY` without an extension word (R264). -/
def execCopy (b : BitVec 4) (d e : BitVec 9) (t : BitVec 2) (s : State) : Host.Outcome State Fault Refusal :=
  .next (s.copy (.copy b d e t) (b = 15) d e t zeroCopy)

/-- `COPY` with its extension word (R264). -/
def execCopyExt (b : BitVec 4) (d e : BitVec 9) (t : BitVec 2) (x : CopyQ) (s : State) : Host.Outcome State Fault Refusal :=
  .next (s.copy (.copyExt b d e t x) (b = 15) d e t x)

/-- The cycle-bound field of an M command (R114, R117). -/
def mBound (i : Instr) : Option (BitVec 4) :=
  match i with
  | .mzero b _ | .mma b _ _ _ _ | .mmaExt b _ _ _ _ _ | .mspb b _ _ _ _ | .mspbExt b _ _ _ _ _ | .mscr b _ _ _ _
  | .mscrExt b _ _ _ _ _ | .mscn b _ _ _ _ | .mscnExt b _ _ _ _ _ | .mrsum b _ _ _ | .mdrain b _ _ | .mdrainExt b _ _ _
  | .mdrainQ b _ _ _ _ | .mcfg b _ _ | .mtwait b _ _ | .mshut b _ _ | .mend b => some b
  | _ => none

/-- The carried command of a `COPY.F` has a bound of 15 (R119). -/
def injectedUnbounded (w : Word) : Bool :=
  match decode .m w 0 with
  | .instr i => mBound i = some 15
  | .reject _ => false

/-- `COPY.F` (R119, R267): the command it carries goes to the injection slot when it completes. -/
def execCopyF (b : BitVec 4) (d e : BitVec 9) (t : BitVec 2) (w : Word) (s : State) : Host.Outcome State Fault Refusal :=
  .next (s.copy (.copyF b d e t w) (b = 15 || injectedUnbounded w) d e t zeroCopy)

/-! ### GATH and SCAT -/

/-- A gather (`g`) or scatter as R269 fixes it. -/
structure MovePlan where
  g : Bool
  src : Region
  dst : Region
  list : Desc
  ori : Nat
  count : Nat
  cols : Nat
  rows : Nat
  ok : Bool
  deriving DecidableEq, Repr

/-- The regions and checks of `GATH` and `SCAT` (R269). -/
def Cell.movePlan (x : Cell) (h : Entry) (g : Bool) (d e : BitVec 9) (q : RowQ) : MovePlan :=
  let td := operandTile d
  let ts := operandTile e
  let dd := x.descAt d
  let ds := x.descAt e
  let ix := if g then ds else dd
  let list := descOf (x.tensors.getD q.lt.toNat 0)
  let n := if q.count = 0 then 256 else q.count.toNat
  let ori := origin h q.ori
  let fmt := if ts.isSome then fullFmt dd.fmt else ds.delivered q.pn.toNat
  let cols := ix.dim 0
  let place := fun (t : Option Nat) (d : Desc) =>
    ({ tile := t, d := d, org := 0, p := pitchBytes q.tpl, w := fmtWidth fmt, len := cols, pn := q.pn.toNat, rn := q.rn = 1 } : Region)
  let src := place ts ds
  let dst := place td dd
  { g := g, src := src, dst := dst, list := list, ori := ori, count := n, cols := cols, rows := ix.rowCount
    ok := (if g then ts.isNone else td.isNone) && list.may 6 && list.fmt = 8 && list.blk = 0 && decide (ori + n ≤ list.dim 0 * list.rowCount) &&
      (if ts.isSome then q.pn ≠ 3 && q.pn ≠ 1 && q.rn = 0 else ds.sourceOk q.pn.toNat (q.rn = 1) && ds.dim 0 = cols) &&
      (td.isSome || (dd.destOk cols && fmt = fullFmt dd.fmt)) && (if g then dst.fits n else src.fits n) }

/-- The read of a list position. -/
def MovePlan.index (m : MovePlan) (p : Nat) : Req :=
  let q := m.ori + p
  .tensor m.list (m.list.rowPos (q / m.list.dim 0) + q % m.list.dim 0) 1 0 false false 0 0 false

/-- The source and destination rows of each list position, as far as the list can be read. -/
def MovePlan.pairs (m : MovePlan) (c : Nat) (s : State) : List (Nat × Nat) :=
  (List.range m.count).filterMap fun p =>
    match s.readRows (s.whoOf c (.stream .c)) [m.index p] true with
    | .ok (_, l) =>
      let idx := s32 ((l.headD { codes := [] }).codes.headD 0)
      some (if m.g then (idx.toNat, p) else (p, idx.toNat))
    | _ => none

/-- The bytes of the source when it may share one with the destination, with the rows moved (R259). -/
def MovePlan.cover (m : MovePlan) (c : Nat) (s : State) : Cover × List (Nat × Nat) :=
  let w := s.whoOf c (.stream .c)
  if (s.bounds w m.src).meets (s.bounds w m.dst) then
    let l := m.pairs c s
    (s.coverOf w (l.map fun (r, _) => m.src.read r 0 m.cols false), l)
  else ([], [])

/-- A row of elements to be written whose codes are not known yet. -/
def Region.blank (g : Region) (r n : Nat) : Put := g.write r 0 (List.replicate n 0) []

/-- One list position (R270): a row that the index does not choose is checked before the index is read (R131); after the last, elements that share a byte with the source take free values (R259). -/
def MovePlan.step (m : MovePlan) (c p : Nat) (s : State) : Acc State :=
  let w := s.whoOf c (.stream .c)
  let (v, moved) := m.cover c s
  let other := if m.g then (m.dst.blank p m.cols).spans else (m.src.read p 0 m.cols false).spans
  (s.spansCheck w ((m.index p).spans ++ other)).bind fun _ =>
  (s.readRows w [m.index p] true).bind fun (s, l) =>
    let idx := s32 ((l.headD { codes := [] }).codes.headD 0)
    if idx < 0 ∨ (m.rows : Int) ≤ idx then .trap ⟨cMETA, BitVec.ofNat 64 (3 + 256 + 2 ^ 16 * p)⟩ else
    let sr := if m.g then idx.toNat else p
    let dr := if m.g then p else idx.toNat
    (s.spansCheck w ((m.src.read sr 0 m.cols false).spans ++ (m.dst.blank dr m.cols).spans)).bind fun _ =>
    (s.readRows w [m.src.read sr 0 m.cols false] false).bind fun (s, rows) =>
      let row := rows.headD { codes := [] }
      (s.cPutApart c (sourceBytes l + sourceBytes rows) v [m.dst.write dr 0 row.codes row.bad]).bind fun s =>
        .ok (if p + 1 = m.count then s.putFree w v (moved.map fun (_, r) => m.dst.write r 0 (List.replicate m.cols 0) []) else s)

/-- `GATH` and `SCAT` (R269, R270). -/
def State.moveRows (s : State) (i : Instr) (g : Bool) (b : BitVec 4) (d e : BitVec 9) (q : RowQ) : State :=
  s.cIssue i (b = 15) [d, e] fun c h s =>
    let m := (s.cell c).movePlan h g d e q
    if !m.ok then formatTrap s else s.runCommand c .c m.count (m.step c)

/-- `GATH` (R269, R270). -/
def execGath (b : BitVec 4) (d e : BitVec 9) (x : RowQ) (s : State) : Host.Outcome State Fault Refusal :=
  .next (s.moveRows (.gath b d e x) true b d e x)

/-- `SCAT` (R269, R270). -/
def execScat (b : BitVec 4) (d e : BitVec 9) (x : RowQ) (s : State) : Host.Outcome State Fault Refusal :=
  .next (s.moveRows (.scat b d e x) false b d e x)

/-! ### FILL -/

/-- Elements [`k`, `k` + `n`) of a tensor's row view, cut at its rows: row, first element, count. -/
def rowPieces (d0 k n : Nat) : List (Nat × Nat × Nat) := (chunks d0 k n).map fun (lo, m) => (lo / d0, lo % d0, m)

/-- `n` bits from bit `b` on of a code of `w` bits that repeats. -/
def repeatBits (w v b n : Nat) : Nat := bitsAt (joinBits w (List.replicate ((b % w + n) / w + 1) v)) (b % w) n

/-- A step of `FILL` on an unplaned tensor: 256 bytes of its elements, the first and the last element in part where the step's
boundary divides them (R271). -/
def fillBits (c : Nat) (d : Desc) (v k : Nat) (s : State) : Acc State :=
  let w := fmtWidth d.fmt
  let who := s.whoOf c (.stream .c)
  let total := w * (d.dim 0 * d.rowCount)
  let parts := (rowPieces (w * d.dim 0) (2048 * k) (min 2048 (total - 2048 * k))).map fun (r, b, n) => (w * d.rowPos r + b, b, n)
  let spans : List Span := parts.map fun (p, _, n) => { va := d.base + p / 8, n := (p % 8 + n + 7) / 8, wr := true }
  (s.spansCheck who spans).bind fun _ =>
    .ok ((parts.foldl (fun s (p, b, n) => s.putBits who (d.base + p / 8) (p % 8) n (repeatBits w v b n) []) s).cAccount c 0
      (unionBytes ((spans.map fun sp => (sp.va, sp.n)).mergeSort fun a b => a.1 ≤ b.1)))

/-- One step of `FILL` (R271): 256 bytes of a tile or an unplaned tensor, or the elements whose planes have 256 bytes. -/
def fillStep (c : Nat) (tile : Option Nat) (d : Desc) (v : Word) (k : Nat) (s : State) : Acc State :=
  match tile with
  | some t => s.cPut c 0 [.tile (t * 131072 + 2048 * k) 32 (List.replicate 64 v.toNat) []]
  | none =>
    let w := fmtWidth (fullFmt d.fmt)
    if !isPlaned d.fmt then fillBits c d (v.toNat % 2 ^ w) k s else
    let n := 2048 / w
    let total := d.dim 0 * d.rowCount
    s.cPut c 0 ((rowPieces (d.dim 0) (n * k) (min n (total - n * k))).map fun (r, e, m) =>
      .tensor d (d.rowPos r + e) (List.replicate m (v.toNat % 2 ^ w)) [])

/-- `FILL` (R271). -/
def execFill (b : BitVec 4) (d : BitVec 9) (x : Word) (s : State) : Host.Outcome State Fault Refusal :=
  .next (s.cIssue (.fill b d x) (b = 15) [d] fun c _ s =>
    let t := operandTile d
    let g := (s.cell c).descAt d
    if t.isNone && !(g.may 1 && g.blk = 0) then formatTrap s else
    s.runCommand c .c (if t.isSome then 64 else (fmtWidth (fullFmt g.fmt) * (g.dim 0 * g.rowCount) + 2047) / 2048) (fillStep c t g x))

/-! ### CLONE -/

/-- A dense, unscaled, unplaned, compact tensor (R272). -/
def Desc.compact (d : Desc) : Bool :=
  d.blk = 0 && d.sblk = 0 && !isPlaned d.fmt &&
  (decide (d.rank < 2) || d.pitch 1 = d.dim 0) && (decide (d.rank < 3) || d.pitch 2 = d.dim 0 * d.dim 1) &&
  (decide (d.rank < 4) || d.pitch 3 = d.dim 0 * d.dim 1 * d.dim 2)

/-- Bits of a compact array. -/
def Desc.arrayBits (d : Desc) : Nat := d.dim 0 * d.rowCount * fmtWidth d.fmt

/-- Whether an array lies in DRAM (R272). Bytes that lie elsewhere raise FORMAT, before the trap of an address that is not
valid, of a page that is not present, or of a walk that meets bad data (R131). -/
def State.inDram (s : State) (w : Who) (va n : Nat) : Acc Bool :=
  let l := (chunks 65536 va n).map fun (lo, _) =>
    match addrCheck lo 1, s.lookup w lo with
    | some k, _ => (true, [trapAt k lo])
    | none, .notPresent => (true, [trapAt cNOTPRESENT lo])
    | none, .bad u _ => (true, [trapAt (if u then cUNCORR else cPOISON) lo])
    | none, .leaf e large _ => (match place (leafPa e large lo) with | .hbm | .lpd | .cxl => true | _ => false, [])
  if l.any (!·.1) then .ok false else
  match pickTrap (l.flatMap Prod.snd) with
  | some t => .trap t
  | none => .ok true

/-- `n` bytes from offset `o` of an array, cut out to whole elements of `w` bits or to the bytes that such elements share. -/
def wholeElems (w total o n : Nat) : Nat × Nat :=
  let unit := if w = 6 then 3 else max 1 (w / 8)
  (o / unit * unit, min total ((o + n + unit - 1) / unit * unit))

/-- The bytes of a clone's destination whose elements share a byte with its source (R259): ranges of offsets, from and below. -/
def State.cloneShared (s : State) (w : Who) (dst : Desc) (src : Option Desc) : List (Nat × Nat) :=
  let n := (dst.arrayBits + 7) / 8
  match src with
  | none => []
  | some d =>
    let v := s.coverVa w [(d.base, n)]
    (s.placed w dst.base n).flatMap fun (o, pa, k) => v.filterMap fun (q, m) =>
      let a := max pa q
      let b := min (pa + k) (q + m)
      if a < b then some (wholeElems (fmtWidth dst.fmt) n (o + (a - pa)) (b - a)) else none

/-- The offsets from `o` on, `n` of them, that lie in no range, as runs: first and length, counted from `o`. -/
def unshared (l : List (Nat × Nat)) (o n : Nat) : List (Nat × Nat) :=
  if l.isEmpty then [(0, n)] else
  runsOf ((List.range n).filter fun i => !l.any fun (a, b) => a ≤ o + i && o + i < b)

/-- One step of `CLONE`: 8 KiB of packed bits. How many DRAM rows were done inside the array is open (R272). After the
last step, elements that share a byte with the source take free values (R259, notes/assumptions/97). -/
def cloneStep (c : Nat) (dst : Desc) (src : Option Desc) (k : Nat) (s : State) : Acc State :=
  let w := s.whoOf c (.stream .c)
  let bits := min 65536 (dst.arrayBits - 65536 * k)
  let n := (bits + 7) / 8
  let o := 8192 * k
  let dstSpan : Span := { va := dst.base + o, n := n, wr := true }
  let frm : List Span := src.toList.map fun d => { va := d.base + o, n := n }
  let shared := s.cloneShared w dst src
  match s.spansCheck w (dstSpan :: frm) with
  | .trap t => .trap t
  | .stall => .stall
  | .ok _ =>
    let (s, g) := frm.foldl (fun (s, _) sp => let (s, g) := s.spanRead w sp; (s.spanDetect w sp, g)) (s, { bytes := [] })
    let v := leNat g.bytes
    let s := (unshared shared o n).foldl (fun s (a, m) =>
      s.putBits w (dst.base + o + a) 0 (min bits (8 * (a + m)) - 8 * a) (v / 2 ^ (8 * a))
        ((g.bad.map Prod.fst).filterMap fun i => if a ≤ i ∧ i < a + m then some (i - a) else none)) s
    let s := if dst.arrayBits ≤ 65536 * (k + 1) then shared.foldl (fun s (lo, hi) =>
        let (s, l) := (List.range (hi - lo)).foldl (fun ((s, r) : State × List Byte) _ => let (x, s) := s.takeFree; (s, r ++ [x.setWidth 8])) (s, [])
        s.putBits w (dst.base + lo) 0 (min dst.arrayBits (8 * hi) - 8 * lo) (leNat l) []) s
      else s
    let (v, s) := s.takeFree
    .ok ((s.cAccount c (if src.isSome then n else 0) n).modCell c fun x => { x with c := { x.c with statInArr := x.c.statInArr + v } })

/-- `CLONE` and `CLONE.ZERO` (R272). -/
def State.clone (s : State) (i : Instr) (b : BitVec 4) (d : BitVec 9) (e : Option (BitVec 9)) : State :=
  s.cIssue i (b = 15) (d :: e.toList) fun c _ s =>
    let x := s.cell c
    let w := s.whoOf c (.stream .c)
    let dd := x.descAt d
    let ds := e.map x.descAt
    let same := match e, ds with
      | some o, some a => (operandTile o).isNone && a.compact && a.may 0 && a.fmt = dd.fmt && a.dims = dd.dims
      | _, _ => true
    let n := (dd.arrayBits + 7) / 8
    if !((operandTile d).isNone && dd.compact && dd.may 1 && same) then formatTrap s else
    let places := (dd :: ds.toList).map fun a => s.inDram w a.base n
    if places.any fun r => match r with | .ok b => !b | _ => false then formatTrap s else
    match pickTrap (places.filterMap fun r => match r with | .trap t => some t | _ => none) with
    | some t => .trap s t (some x.ec.nextStep)
    | none => s.runCommand c .c ((dd.arrayBits + 65535) / 65536) (cloneStep c dd ds)

/-- `CLONE` (R272). -/
def execClone (b : BitVec 4) (d e : BitVec 9) (s : State) : Host.Outcome State Fault Refusal :=
  .next (s.clone (.clone b d e) b d (some e))

/-- `CLONE.ZERO` (R272). -/
def execCloneZero (b : BitVec 4) (d : BitVec 9) (s : State) : Host.Outcome State Fault Refusal :=
  .next (s.clone (.cloneZero b d) b d none)

end Sys2Proof.Machine
end

