-- ==== Sys2Proof/Machine/Codec.lean ====
section
/-! DEFINITION. The C stream's encoder, decoder and codebook loads: `ENC`, `DEC`, `CBLOAD` (R273 to R279). -/

namespace Sys2Proof.Machine

/-- Bytes written at an address. -/
def bytesPut (va : Nat) (bs : List Nat) : Put := .tensor { descOf 0 with fmt := 6, base := va, planes := 1 } 0 bs []

/-- `n` little-endian bytes as numbers. -/
def leNats (n v : Nat) : List Nat := (leBytes n v).map BitVec.toNat

/-- `x` rounded up to a multiple of `n`. -/
def roundUp (n x : Nat) : Nat := (x + n - 1) / n * n

/-- A tensor's packed values under `VOFF` (R126). -/
def Desc.packed (d : Desc) (voff : Nat) : Desc := { d with base := d.base + voff, blk := 0 }

/-! ### ENC -/

/-- An encoding as R273 fixes it. -/
structure EncPlan where
  src : Region
  d : Desc
  csr : Bool
  /-- block records or row pointers -/
  off : Nat
  coff : Nat
  voff : Nat
  ok : Bool
  deriving DecidableEq, Repr

/-- `VOFF` from the first free byte (R273). -/
def Desc.valueOffset (d : Desc) (x : Nat) : Nat :=
  let v := roundUp 32 x
  if isPlaned d.fmt then v + (d.p1base + 4096 - (d.base + v) % 4096) % 4096 else v

/-- The operands, offsets and checks of `ENC` (R273). -/
def Cell.encPlan (x : Cell) (h : Entry) (d e : BitVec 9) (q : EncQ) : EncPlan :=
  let ts := operandTile e
  let dd := x.descAt d
  let ds := x.descAt e
  let ors := if ts.isSome then 0 else origin h q.ors
  let d0 := dd.dim 0
  let d1 := dd.dim 1
  let csr : Bool := dd.blk = 2
  let src : Region := { tile := ts, d := ds, org := ors, p := pitchBytes q.tpl, w := fmtWidth (fullFmt dd.fmt), len := d0 }
  let off := if csr then 32 else 32 + 16 * (((d1 + 63) / 64) * ((d0 + 63) / 64))
  let coff := roundUp 2 (32 + 4 * (d1 + 1))
  { src := src, d := dd, csr := csr, off := off, coff := coff
    voff := dd.valueOffset (if csr then coff + 2 * d0 * d1 else off + 16 * (((d1 + 7) / 8) * ((d0 + 7) / 8)))
    ok := (operandTile d).isNone && (dd.blk = 1 || dd.blk = 2) && dd.may 1 &&
      (ts.isSome || (ds.sourceOk 0 false && ds.delivered 0 = fullFmt dd.fmt && decide (d0 ≤ ds.dim 0))) && src.fits d1 &&
      (!csr || decide (d0 ≤ 65536)) }

/-- The steps of an `ENC` (R274). -/
def EncPlan.steps (m : EncPlan) : Nat := if m.csr then m.d.dim 1 else ((m.d.dim 1 + 63) / 64) * ((m.d.dim 0 + 63) / 64)

/-- The header (R209, R210). -/
def EncPlan.header (m : EncPlan) (nnz nblk : Nat) : Put :=
  bytesPut m.d.base (if m.csr then leNats 4 nnz ++ leNats 4 0 ++ leNats 8 m.off ++ leNats 8 m.coff ++ leNats 8 m.voff
    else leNats 4 nblk ++ leNats 4 nnz ++ leNats 8 m.off ++ leNats 8 m.voff ++ leNats 8 0)

/-- The stored elements of block `b` of a superblock: bit of `EBM` and code, in bit order (R209, R273). -/
def blockElems (fmt n m : Nat) (val : Nat → Nat → Nat) (b : Nat) : List (Nat × Nat) :=
  (List.range 64).filterMap fun x =>
    let r := 8 * (b / 8) + x / 8
    let c := 8 * (b % 8) + x % 8
    if r < n ∧ c < m ∧ !zeroCode fmt (val r c) then some (x, val r c) else none

/-- What the step of superblock `k` writes after `nnz` values and `nblk` records: the writes, and the counts that stand
after it (R273, R274). -/
def EncPlan.superblock (m : EncPlan) (k nnz nblk : Nat) (rows : List Row) : List Put × Nat × Nat :=
  let fmt := fullFmt m.d.fmt
  let nv := (m.d.dim 0 + 63) / 64
  let val := fun (r c : Nat) => (rows.getD r { codes := [] }).codes.getD c 0
  let n := min 64 (m.d.dim 1 - 64 * (k / nv))
  let w := min 64 (m.d.dim 0 - 64 * (k % nv))
  let blocks := ((List.range 64).map fun b => (b, blockElems fmt n w val b)).filter fun (_, l) => !l.isEmpty
  let occ := (blocks.map fun (b, _) => 2 ^ b).foldl (· + ·) 0
  let (recs, vals) := blocks.foldl (fun (rs, vs) (_, l) =>
    (rs ++ leNats 8 ((l.map fun (x, _) => 2 ^ x).foldl (· + ·) 0) ++ leNats 4 (nnz + vs.length) ++ leNats 1 l.length ++ leNats 3 0,
     vs ++ l.map Prod.snd)) (([] : List Nat), ([] : List Nat))
  ([bytesPut (m.d.base + 32 + 16 * k) (leNats 8 occ ++ leNats 4 nblk ++ leNats 4 0), bytesPut (m.d.base + m.off + 16 * nblk) recs,
    .tensor (m.d.packed m.voff) nnz vals []], nnz + vals.length, nblk + blocks.length)

/-- What the step of row `k` writes after `nnz` values (R273, R274). -/
def EncPlan.row (m : EncPlan) (k nnz : Nat) (row : Row) : List Put × Nat :=
  let l := (row.codes.zipIdx).filter fun (c, _) => !zeroCode (fullFmt m.d.fmt) c
  let ptr := fun (i n : Nat) => bytesPut (m.d.base + m.off + 4 * i) (leNats 4 n)
  ([ptr k nnz, bytesPut (m.d.base + m.coff + 2 * nnz) (l.flatMap fun (_, c) => leNats 2 c), .tensor (m.d.packed m.voff) nnz (l.map Prod.fst) []] ++
    (if k + 1 = m.d.dim 1 then [ptr (k + 1) (nnz + l.length)] else []), nnz + l.length)

/-- The arrays of the structure that an `ENC` may write (R273). -/
def EncPlan.target (m : EncPlan) : List (Nat × Nat) :=
  let n := m.d.dim 0 * m.d.dim 1
  let (w0, w1) := planeWidths m.d.fmt
  [(m.d.base, m.voff + (n * w0 + 7) / 8)] ++ (if isPlaned m.d.fmt ∧ m.d.planes = 2 then [(m.d.p1base, (n * w1 + 7) / 8)] else []) ++
    (if m.d.grd then [(m.d.gbase, (n + 7) / 8)] else [])

/-- The bytes of the source when it may share one with the structure (R259). -/
def EncPlan.cover (m : EncPlan) (s : State) (w : Who) : Cover :=
  if (s.bounds w m.src).meets (s.coverVa w m.target) then s.coverOf w ((List.range (m.d.dim 1)).map fun r => m.src.read r 0 (m.d.dim 0) false) else []

/-- The writes of step `k` whose places do not depend on the source: a directory entry or the row pointers, and in the last
step the header (R274). They are checked before the source is read (R131). -/
def EncPlan.fixed (m : EncPlan) (k : Nat) : List Put :=
  let last : Bool := k + 1 = m.steps
  (if m.csr then bytesPut (m.d.base + m.off + 4 * k) (leNats 4 0) :: (if last then [bytesPut (m.d.base + m.off + 4 * (k + 1)) (leNats 4 0)] else [])
   else [bytesPut (m.d.base + 32 + 16 * k) (leNats 16 0)]) ++ (if last then [m.header 0 0] else [])

/-- One step of `ENC`; the last one writes the header after everything else (R274). Elements that share a
byte with the source take free values (R259, notes/assumptions/97). -/
def EncPlan.step (m : EncPlan) (c k : Nat) (s : State) : Acc State :=
  let w := s.whoOf c (.stream .c)
  let (nnz, nblk) := if k = 0 then (0, 0) else (s.cell c).ec.progress
  let nv := (m.d.dim 0 + 63) / 64
  let reqs := if m.csr then [m.src.read k 0 (m.d.dim 0) false]
    else (List.range (min 64 (m.d.dim 1 - 64 * (k / nv)))).map fun i =>
      m.src.read (64 * (k / nv) + i) (64 * (k % nv)) (min 64 (m.d.dim 0 - 64 * (k % nv))) false
  (s.spansCheck w (reqs.flatMap Req.spans ++ (m.fixed k).flatMap Put.spans)).bind fun _ =>
  (s.readRows w reqs true).bind fun (s, rows) =>
    let (puts, nnz, nblk) := if m.csr then let (p, n) := m.row k nnz (rows.headD { codes := [] }); (p, n, 0) else m.superblock k nnz nblk rows
    (s.cPutFree c (sourceBytes rows) (m.cover s w) (puts ++ if k + 1 = m.steps then [m.header nnz nblk] else [])).bind fun s =>
      .ok (s.modCell c fun x => { x with ec := { x.ec with progress := (nnz, nblk) } })

/-- `ENC` (R273, R274). -/
def State.enc (s : State) (i : Instr) (b : BitVec 4) (d e : BitVec 9) (q : EncQ) : State :=
  s.cIssue i (b = 15) [d, e] fun c h s =>
    let m := (s.cell c).encPlan h d e q
    if !m.ok then formatTrap s else s.runCommand c .c m.steps (m.step c)

/-- `ENC` without an extension word (R111, R273). -/
def execEnc (b : BitVec 4) (d e : BitVec 9) (s : State) : Host.Outcome State Fault Refusal :=
  .next (s.enc (.enc b d e) b d e ⟨0, 0⟩)

/-- `ENC` with its extension word (R273). -/
def execEncExt (b : BitVec 4) (d e : BitVec 9) (x : EncQ) (s : State) : Host.Outcome State Fault Refusal :=
  .next (s.enc (.encExt b d e x) b d e x)

/-! ### DEC -/

/-- A decoding as R275 and R276 fix it: `pad` is the declared size of a block when padding applies. -/
structure DecPlan where
  d : Desc
  p : Option Packed
  dst : Region
  ors : Nat
  rows : Nat
  pn : Nat
  rn : Bool
  pad : Option Nat
  ok : Bool
  deriving DecidableEq, Repr

/-- The operands and checks of `DEC` (R275), but for the header of the source. -/
def State.decPlan (s : State) (c : Nat) (h : Entry) (d e : BitVec 9) (q : DecQ) : DecPlan :=
  let x := s.cell c
  let td := operandTile d
  let dd := x.descAt d
  let ds := x.descAt e
  let ors := origin h q.ors
  let fmt := if ds.blk = 3 then ds.fmt else ds.delivered q.pn.toNat
  let rows := if q.rows = 0 then ds.dim 1 - ors else q.rows.toNat
  let dst : Region := { tile := td, d := dd, org := if td.isSome then 0 else origin h q.ord, p := pitchBytes q.tpl, w := fmtWidth fmt, len := ds.dim 0 }
  { d := ds, p := none, dst := dst, ors := ors, rows := rows, pn := q.pn.toNat, rn := q.rn = 1
    pad := if q.padb ≠ 0 ∧ td.isSome ∧ place (s.paOf (s.whoOf c (.stream .c)) ds.base) = .cluster then some (32 * q.padb.toNat) else none
    ok := (operandTile e).isNone && ds.blk ≠ 0 && ds.may 0 && ds.planesOk q.pn.toNat (q.rn = 1) && (ds.blk ≠ 1 || ors % 8 = 0) &&
      decide (ors + rows ≤ ds.dim 1) && (td.isSome || (dd.destOk (ds.dim 0) && fullFmt dd.fmt = fmt)) && dst.fits rows }

/-- The bytes of the arrays that a read of `n` packed values from `pos` uses. -/
def Desc.valueBytes (d : Desc) (pos n pn : Nat) (rn : Bool) : Nat :=
  if n = 0 then 0 else ((d.spans pos n pn rn 0 0 false false).map Span.n).foldl (· + ·) 0

/-- The source bytes of blocks of these compressed sizes, and how many exceed the declared size (R276). -/
def paddedBytes (pad : Nat) (l : List Nat) : Nat × Nat :=
  ((l.map fun n => if pad < n then n else pad).foldl (· + ·) 0, (l.filter fun n => decide (pad < n)).length)

/-- The bytes of the source's arrays when they may share one with the destination (R259). -/
def DecPlan.cover (m : DecPlan) (s : State) (w : Who) : Cover :=
  let (w0, w1) := planeWidths m.d.fmt
  let l := match m.p with
    | none => m.d.arrays
    | some p =>
      (if m.d.blk = 1 then [(m.d.base, 32 + 16 * (((m.d.dim 1 + 63) / 64) * ((m.d.dim 0 + 63) / 64))), (m.d.base + p.boff, 16 * p.nblk)]
       else [(m.d.base, 32), (m.d.base + p.roff, 4 * (m.d.dim 1 + 1)), (m.d.base + p.coff, 2 * p.nnz)]) ++
      [(m.d.base + p.voff, (p.nnz * w0 + 7) / 8)] ++ (if m.d.readsPlane1 m.pn then [(m.d.p1base, (p.nnz * w1 + 7) / 8)] else []) ++
      (if m.rn && m.pn = 1 then [(m.d.gbase, (p.nnz + 7) / 8)] else [])
  let v := s.coverVa w l
  if (s.bounds w m.dst).meets v then v else []

/-- The source bytes of the header, which count with the first step (R262). -/
def DecPlan.headBytes (m : DecPlan) (r : Nat) : Nat := if m.p.isSome ∧ r = 0 then 32 else 0

/-- The spans of `n` output rows from row `r` on. -/
def DecPlan.outSpans (m : DecPlan) (r n : Nat) : List Span :=
  (List.range n).flatMap fun i => (m.dst.blank (r + i) (m.d.dim 0)).spans

/-- Writes the rows of a step of `DEC` from output row `r` on, with the step's source bytes (R262, R276); elements
that share a byte with the source take free values (R259, notes/assumptions/97). -/
def DecPlan.put (m : DecPlan) (c r bytes other : Nat) (blocks : List Nat) (rows : List (List Nat)) (s : State) : Acc State :=
  let (sb, extra) := match m.pad with
    | some n => let (b, k) := paddedBytes n blocks; (other + b, k)
    | none => (bytes, 0)
  (s.cPutFree c (m.headBytes r + sb) (m.cover s (s.whoOf c (.stream .c))) ((rows.zipIdx).map fun (l, i) => m.dst.write (r + i) 0 l [])).bind fun s =>
    .ok (s.modCell c fun x => { x with c := { x.c with statPad := x.c.statPad + BitVec.ofNat 64 extra } })

/-- The rows that stored elements give: every other element is 0 (R276). -/
def spreadRows (cols : Nat) (rows : List (List AEnt)) (vals : List (Nat × Nat)) : List (List Nat) :=
  rows.map fun l => (List.range cols).map fun j =>
    match l.find? fun e => e.k = j with
    | some e => (look vals e.pos).getD 0
    | none => 0

/-- A trap of the metadata of `DEC`: META has no sequence, and 1 in bit [8] (R260). -/
def decTrap (t : TrapInfo) : TrapInfo := if t.cause = cMETA then ⟨cMETA, BitVec.ofNat 64 (t.info.toNat % 2 ^ 48) ||| 256⟩ else t

/-- The trap that ranks first among the checks of a step's destination and the faults of its metadata (R131). -/
def rankedTrap (dst : Acc Unit) (t : Option TrapInfo) : Option TrapInfo :=
  pickTrap ((match dst with | .trap x => [x] | _ => []) ++ t.toList)

/-- One step of a BM8 or CSR decoding from output row `r` with `n` rows (R276). Each CSR step reads its own row's two pointers
and the last pointer, and counts their bytes (DESIGN CHOICE, notes/assumptions/109). -/
def DecPlan.packedStep (m : DecPlan) (p : Packed) (c r n : Nat) (s : State) : Acc State :=
  let bm8 : Bool := m.d.blk = 1
  let w := s.whoOf c (.stream .c)
  let dst := s.spansCheck w (m.outSpans r n)
  let f : Front := { s := s, st := .c }
  let (f, all) := if bm8 then f.bm8A c p (m.ors + r) 8 else f.csrA c p (m.ors + r) 1
  if f.stall then .stall else
  let (s, fault) := f.pick []
  match fault with
  | some (_, t) => .trap ((rankedTrap dst (some (decTrap t))).getD t)
  | none =>
    let rows := all.take n
    let vd := m.d.packed p.voff
    let runs := runsOf (((rows.flatMap fun l => l.map AEnt.pos).mergeSort).eraseDups)
    let reqs : List Req := runs.map fun (q, k) => .tensor vd q k m.pn m.rn false 0 0 false
    (s.spansCheck w (reqs.flatMap Req.spans ++ m.outSpans r n)).bind fun _ =>
    (s.readRows w reqs true).bind fun (s, rs) =>
      let vals := ((runs.zip rs).flatMap fun ((q, _), row) => row.codes.zipIdx.map fun (v, i) => (q + i, v))
      let sizes := if bm8 then (List.range ((m.d.dim 0 + 7) / 8)).map fun b =>
          let ps := all.flatMap fun l => (l.filter fun e => e.k / 8 = b).map AEnt.pos
          if ps.isEmpty then 0 else 16 + vd.valueBytes (ps.foldl min (ps.headD 0)) ps.length m.pn m.rn
        else
          let l := all.headD []
          [8 + 2 * l.length + vd.valueBytes ((l.head?.map AEnt.pos).getD 0) l.length m.pn m.rn]
      m.put c r (f.bytes + sourceBytes rs) (if bm8 then 16 * ((m.d.dim 0 + 63) / 64) else 0) sizes (spreadRows (m.d.dim 0) rows vals) s

/-- An entry of a codebook bank that may be read (R279, R425). -/
def State.bookEntry (s : State) (c k : Nat) : Option DWord :=
  let (v, ok) := (s.cell c).c.banks.getD k (0, false)
  if ok && !s.mem.uncorr.contains (.codebook c k) then some v else none

/-- One row of a VQ decoding (R276, R279): an access fault of either side comes before CODEBOOK (R131). -/
def DecPlan.vqStep (m : DecPlan) (c r : Nat) (s : State) : Acc State :=
  let n := m.d.dim 0 / 4
  let va := m.d.base + m.d.rowPos (m.ors + r) / 4
  (s.spansCheck (s.whoOf c (.stream .c)) ((bytesReq va n).spans ++ m.outSpans r 1)).bind fun _ =>
  (s.engineBytes c .c va n).bind fun (s, idx) =>
    let key := fun (q : Nat) => m.d.cbank * 256 + q
    match idx.find? fun q => (s.bookEntry c (key q)).isNone with
    | some q => .trap ⟨cCODEBOOK, BitVec.ofNat 64 (key q)⟩
    | none =>
      let row := idx.flatMap fun q =>
        let v := ((s.bookEntry c (key q)).getD 0).toNat
        (List.range 4).map fun i => bitsAt v (16 * i) 16
      m.put c r n 0 ((chunks 64 0 n).map Prod.snd) [row] s

/-- One step of `DEC` (R276). -/
def DecPlan.step (m : DecPlan) (c k : Nat) (s : State) : Acc State :=
  match m.p with
  | none => m.vqStep c k s
  | some p => if m.d.blk = 1 then m.packedStep p c (8 * k) (min 8 (m.rows - 8 * k)) s else m.packedStep p c k 1 s

/-- `DEC` (R275, R276). -/
def State.dec (s : State) (i : Instr) (b : BitVec 4) (d e : BitVec 9) (q : DecQ) : State :=
  s.cIssue i (b = 15) [d, e] fun c h s =>
    let m := s.decPlan c h d e q
    let k := (s.cell c).ec.nextStep
    if !m.ok then formatTrap s
    else if m.d.blk = 3 then s.runCommand c .c m.rows (m.step c)
    else match s.engineBytes c .c m.d.base 32 with
      | .trap t => .trap s t (some k)
      | .stall => if k = 0 then .wait s else .part s k
      | .ok (t, hb) =>
        match (if m.d.blk = 1 then bm8Header m.d 1 hb else (csrHeader m.d hb).map fun p => { p with opnd := 1 }) with
        | none => formatTrap s
        | some p =>
          let m := { m with p := some p }
          match t.runCommand c .c (if m.d.blk = 1 then (m.rows + 7) / 8 else m.rows) (m.step c) with
          | .wait _ => .wait s
          | r => r

/-- The extension word of zeros (R111). -/
def zeroDec : DecQ := ⟨0, 0, 0, 0, 0, 0, 0⟩

/-- `DEC` without an extension word (R111, R275). -/
def execDec (b : BitVec 4) (d e : BitVec 9) (s : State) : Host.Outcome State Fault Refusal :=
  .next (s.dec (.dec b d e) b d e zeroDec)

/-- `DEC` with its extension word (R275). -/
def execDecExt (b : BitVec 4) (d e : BitVec 9) (x : DecQ) (s : State) : Host.Outcome State Fault Refusal :=
  .next (s.dec (.decExt b d e x) b d e x)

/-! ### CBLOAD -/

/-- The codebook source checks of R277 on a descriptor, for `n` entries. -/
def Desc.bookOk (d : Desc) (n : Nat) : Bool := d.may 7 && (d.fmt = 1 || d.fmt = 2) && d.blk = 0 && decide (4 * n ≤ d.dim 0 * d.rowCount)

/-- Reads `n` entries from a codebook source and places them from entry `first` of bank `k` on (R277). -/
def State.loadBook (s : State) (w : Who) (k : Nat) (d : Desc) (first n : Nat) : Acc (State × Nat) :=
  (s.readRows w ((rowPieces (d.dim 0) 0 (4 * n)).map fun (r, e, m) => .tensor d (d.rowPos r + e) m 0 false false 0 0 false) true).bind
    fun (s, rows) =>
      let codes := rows.flatMap Row.codes
      let s := (List.range n).foldl (fun s i => s.overwrite (.codebook w.cell (k * 256 + first + i))) s
      .ok (s.modCell w.cell fun x => { x with c := { x.c with banks := (List.range n).foldl (fun (l : List (DWord × Bool)) i =>
        l.set (k * 256 + first + i) (BitVec.ofNat 64 (joinBits 16 ((codes.drop (4 * i)).take 4)), true)) x.c.banks } }, sourceBytes rows)

/-- `CBLOAD` (R277 to R279). -/
def execCbload (b : BitVec 4) (k : BitVec 1) (t : BitVec 8) (f n : BitVec 4) (s : State) : Host.Outcome State Fault Refusal :=
  .next (s.cIssue (.cbload b k t f n) (b = 15) [] fun c _ s =>
    let raw := (s.cell c).tensors.getD t.toNat 0
    let d := descOf raw
    let count := if n = 0 then 256 else 16 * n.toNat
    let first := 16 * f.toNat
    s.afterAll c .c (if !d.bookOk count then formatTrap s else
      s.runCommand c .c 1 fun _ s => (s.loadBook (s.whoOf c (.stream .c)) k.toNat d first count).bind fun (s, sb) =>
        .ok ((s.cAccount c sb 0).modCell c fun x => { x with c := { x.c with lastLoad := x.c.lastLoad.set k.toNat (some ⟨raw, first, count⟩) } })))

end Sys2Proof.Machine
end

