-- ==== Sys2Proof/Machine/CopyLink.lean ====
section
/-! DEFINITION. The C stream's torus, barrier, loop, coupling and end commands (R280 to R284). -/

namespace Sys2Proof.Machine

/-! ### LAND -/

/-- The number of the module at coordinates (R348). -/
def moduleAt (x y z : Nat) : Nat := x + 16 * y + 256 * z

/-- The handler list entry and the payload of a `LAND` are read, and then its port is sought: a destination without a route
is the last of its conditions (R131). -/
def State.landRun (s : State) (c base : Nat) (h : BitVec 512) (t : BitVec 7) (l : BitVec 6) (n : BitVec 5) (hd : BitVec 3) (x : LandQ) : EFin :=
  let dst := moduleAt x.x.toNat x.y.toNat x.z.toNat
  let len := 8 * (n.toNat + 1)
  let read := (s.engineBytes c .c (base + hdrField h 56 0 32 + 4 * hd.toNat) 4).bind fun (s, hb) =>
    (s.readRows (s.whoOf c (.stream .c)) [.tile (t.toNat * 131072 + l.toNat * 2048) 8 len] true).bind fun (s, rows) => .ok (s, hb, rows)
  match read with
  | .trap t => .trap s t none
  | .stall => .wait s
  | .ok (u, hb, rows) =>
    match (if s.inTorus dst then s.route dst else none) with
    | none => .trap s ⟨cLINKDOWN, BitVec.ofNat 64 (s.firstTried dst)⟩ none
    | some port =>
      if s.routeHeld c dst port 2 then .wait s else
      let p : Packet :=
        { payload := (rows.headD { codes := [] }).codes.map (BitVec.ofNat 8), tag := x.tag.setWidth 16, ctx := (s.cell c).res.ctx
          sender := BitVec.ofNat 12 s.moduleNumber, scell := BitVec.ofNat 8 c, handler := BitVec.ofNat 64 (base + joinBits 8 hb) }
      .issued ((u.cAccount c len 0).modCell c fun y => { y with c := { y.c with landOut := some (dst, x.cell.toNat, p) } }) 1

/-- `LAND` (R280, R343, R409). It issues once earlier writes are performed at PACKAGE scope, and is complete when
its port holds the credit of a buffer slot. -/
def execLand (b : BitVec 4) (t : BitVec 7) (l : BitVec 6) (n : BitVec 5) (hd : BitVec 3) (x : LandQ) (s : State) : Host.Outcome State Fault Refusal :=
  .next (s.eIssue .c (.land b t l n hd x) { unbounded := b = 15 } fun c _ s =>
    let (base, h) := s.kernelOf c
    if hdrField h 60 0 4 ≤ hd.toNat then formatTrap s else
    s.afterAll c .c (
      if (s.cell c).shutter t.toNat ≠ agentCode (.stream .c) ∨ !s.performedAt (c, .stream .c) 4 then .wait s
      else s.landRun c base h t l n hd x))

/-! ### COLL -/

/-- The neighbour on a port (R281, R401). -/
def State.neighbour (s : State) (port : Nat) : Nat :=
  let k := port / 2
  let m := moduleXyz s.moduleNumber
  let n := s.dims.getD k 1
  let v := (m.getD k 0 + (if port % 2 = 0 then 1 else n - 1)) % n
  let at_ := fun (i : Nat) => if i = k then v else m.getD i 0
  moduleAt (at_ 0) (at_ 1) (at_ 2)

/-- One line combined (R281). -/
def combine (op : Nat) (a b : Line) : Line :=
  match op with
  | 0 => b
  | 1 => lineOf 32 64 fun j => rne 0 ((fmtValue 0 (lane a j)).add (fmtValue 0 (lane b j)))
  | 2 => lineOf 32 64 fun j => lane a j + lane b j
  | _ => lineOf 32 64 fun j => rne 0 ((fmtValue 0 (lane a j)).max (fmtValue 0 (lane b j)))

/-- The lines of a tile row list joined. -/
def lineOfBytes (l : List Nat) : Line := BitVec.ofNat 2048 (joinBits 8 l)

/-- Line `k` of a collective step is combined into its receive tile (R281). A copy overwrites, poison and all; another
operation reads the tile and consumes the chunk (R424). A receive tile that was the send tile takes free values (R259). -/
def collStep (c st rt op k : Nat) (ch : Chunk) (s : State) : Acc State :=
  let bit0 := rt * 131072 + 2048 * k
  let bad := (List.range 8).map fun i => ch.bad.contains (8 * k + i)
  if op ≠ 0 ∧ bad.any id then .trap (trapAt cPOISON (padPa c (rt * 16384 + 256 * k + 32 * bad.idxOf true))) else
  (s.readRows (s.whoOf c (.stream .c)) (if op = 0 then [] else [.tile bit0 8 256]) true).bind fun (s, rows) =>
    let new := combine op (lineOfBytes (rows.headD { codes := [] }).codes) (ch.lines.getD k 0)
    let flags := if bad.any id then (List.range 256).map fun i => bad.getD (i / 32) false else []
    let p : Put := .tile bit0 8 ((List.range 256).map fun i => bitsAt new.toNat (8 * i) 8) flags
    let (s, p) := if st = rt then p.freed s else (s, p)
    s.cPut c 256 [p]

/-- The poisoned 32-byte parts of rows of 256 bytes. -/
def badParts (rows : List Row) : List Nat :=
  (rows.zipIdx).flatMap fun (r, k) => (List.range 8).filterMap fun i =>
    if (List.range 32).any fun j => r.bad.getD (32 * i + j) false then some (8 * k + i) else none

/-- Sends the lines of the send tile (R281, R315): `OP` copy propagates their poison, another consumes it (R424). -/
def State.collSend (s : State) (c st port op : Nat) (tag : BitVec 8) (n : Nat) : Acc State :=
  (s.readRows (s.whoOf c (.stream .c)) ((List.range n).map fun k => .tile (st * 131072 + 2048 * k) 8 256) (op ≠ 0)).bind fun (s, rows) =>
    let ch : Chunk :=
      { port := BitVec.ofNat 3 (otherWay port), ctx := (s.cell c).res.ctx, tag := tag, lines := rows.map fun r => lineOfBytes r.codes, bad := badParts rows }
    let s := s.modCell c fun x => { x with ec := { x.ec with progress := (1, 0) } }.charge (x.weights.linkB.toNat * 256 * n)
    .ok (s.send { dst := s.neighbour port, port := port, cell := c, agent := .stream .c, ctx := (s.cell c).res.ctx, sentAt := s.cycle, payload := .chunk ch })

/-- The port of a `COLL`'s two that is DOWN, or that has been since its lines were sent (R281). -/
def State.collDown (s : State) (c port : Nat) : Option Nat :=
  let g := (s.cell c).ec.progress
  if g.1 = 2 then some g.2
  else [port, otherWay port].find? fun q => (s.link.ports.getD q {}).state = 0

/-- `COLL` (R281): it sends once, waits for the chunk of its tag from the opposite side, and combines it. -/
def execColl (b : BitVec 4) (t r : BitVec 7) (p : BitVec 3) (x : CollQ) (s : State) : Host.Outcome State Fault Refusal :=
  .next (s.eIssue .c (.coll b t r p x) { unbounded := b = 15 } fun c _ s =>
    let port := p.toNat
    let n := x.nl.toNat + 1
    let y := s.cell c
    let sent : Bool := y.ec.progress.1 ≠ 0
    let closed := fun (k : BitVec 7) => y.shutter k.toNat ≠ agentCode (.stream .c)
    s.afterAll c .c (
      if closed t ∨ closed r then .wait s
      else match s.collDown c port with
      | some q => .trap s ⟨cLINKDOWN, BitVec.ofNat 64 q⟩ none
      | none =>
        if !sent && s.routeHeld c (s.neighbour port) port 3 then .wait s else
        match (if sent then .ok s else s.collSend c t.toNat port x.op.toNat x.tag n) with
        | .trap t => .trap s t none
        | .stall => .wait s
        | .ok s =>
          let wanted := fun (ch : Chunk) => ch.port = BitVec.ofNat 3 (otherWay port) && ch.ctx = y.res.ctx && ch.tag = x.tag && ch.lines.length = n
          match (s.cell c).c.chunks.find? wanted with
          | none => .wait s
          | some ch =>
            match s.runCommand c .c n fun k s => collStep c t.toNat r.toNat x.op.toNat k ch s with
            | .issued s k => .issued (s.modCell c fun z => { z with c := { z.c with chunks := z.c.chunks.erase ch } }) k
            | e => e))

/-! ### CBAR and control -/

/-- `CBAR` (R282): the arrival goes to the barrier unit, and both byte counts become 0. -/
def execCbar (b : BitVec 4) (n : BitVec 8) (k : BitVec 2) (i : BitVec 11) (s : State) : Host.Outcome State Fault Refusal :=
  .next (s.eIssue .c (.cbar b n k i) { unbounded := b = 15 } fun c _ s =>
    s.afterAll c .c (
      if !s.performedAt (c, .stream .c) 4 then .wait s else
      let y := s.cell c
      let v := match k.toNat with
        | 0 => y.c.db
        | 1 => y.c.sb
        | _ => i.setWidth 64
      .done ((s.sendArrival c (.stream .c) y.res.ctx n.toNat v).modCell c fun y => { y with c := { y.c with sb := 0, db := 0 } })))

/-- `CLOOP` issues with no further effect, and completes in its turn: fetch has resolved it (R254, R259, R283). -/
def execCloop (l : BitVec 6) (n : BitVec 8) (i : BitVec 3) (sc : BitVec 4) (s : State) : Host.Outcome State Fault Refusal :=
  .next (s.cIssue (.cloop l n i sc) false [] fun _ _ s => .issued s 1)

/-- `CTSIG` (R284). -/
def execCtsig (k : BitVec 5) (n : BitVec 12) (s : State) : Host.Outcome State Fault Refusal :=
  .next (s.eIssue .c (.ctsig k n) {} fun c _ s => s.engineSignal c .c k n)

/-- `CTWAIT` (R284). -/
def execCtwait (b : BitVec 4) (k : BitVec 5) (n : BitVec 12) (s : State) : Host.Outcome State Fault Refusal :=
  .next (s.eIssue .c (.ctwait b k n) { unbounded := b = 15 } fun c _ s => s.engineWait c .c k n)

/-- `CSHUT` (R284). -/
def execCshut (b : BitVec 4) (t : BitVec 7) (code : BitVec 3) (s : State) : Host.Outcome State Fault Refusal :=
  .next (s.eIssue .c (.cshut b t code) { unbounded := b = 15 } fun c _ s => s.engineShut c .c t code)

/-- `CEND` (R284). -/
def execCend (b : BitVec 4) (s : State) : Host.Outcome State Fault Refusal :=
  .next (s.eIssue .c (.cend b) { unbounded := b = 15 } fun c _ s =>
    s.afterAll c .c (.done (s.modCell c fun x => x.endEngine .c)))

end Sys2Proof.Machine
end

