-- ==== Sys2Proof/Machine/EngineRun.lean ====
section
/-! DEFINITION. Running the head entry of an engine stream or a waiting instruction of S inside an event, which
agents may move (R37, R297, R301, R431), and what a wait's bound names (R114, R306). -/

namespace Sys2Proof.Machine

/-- The state an instruction leaves; events run only instructions, which always answer one. -/
def outcomeOr (o : Host.Outcome State Fault Refusal) (s : State) : State :=
  match o with
  | .next t => t
  | _ => s

/-- The operation of an engine instruction. -/
def engineExec (i : Instr) (s : State) : Host.Outcome State Fault Refusal :=
  match i with
  | .vadd q d a b t => execVadd q d a b t s
  | .vsub q d a b t => execVsub q d a b t s
  | .vmul q d a b t => execVmul q d a b t s
  | .vfma q d a b t => execVfma q d a b t s
  | .vmin q d a b t => execVmin q d a b t s
  | .vmax q d a b t => execVmax q d a b t s
  | .vrcp q d a t => execVrcp q d a t s
  | .vexp q d a t => execVexp q d a t s
  | .vcmp d a b t c => execVcmp d a b t c s
  | .vsel q d a b => execVsel q d a b s
  | .vbit q d a b o => execVbit q d a b o s
  | .vshf q d a b k w => execVshf q d a b k w s
  | .vcvt d a p sc r e f => execVcvt d a p sc r e f s
  | .vred d a o t => execVred d a o t s
  | .vperm q d a b => execVperm q d a b s
  | .vbcast d a e w => execVbcast d a e w s
  | .vli q d i => execVli q d i s
  | .vidx q d sc t => execVidx q d sc t s
  | .vld q d t l f => execVld q d t l f s
  | .vst q d t l f => execVst q d t l f s
  | .vsld q d n k => execVsld q d n k s
  | .vsst q d n k => execVsst q d n k s
  | .vsbind q d n t l => execVsbind q d n t l s
  | .vmpush a b q f c => execVmpush a b q f c s
  | .vminv q => execVminv q s
  | .vmpop q n => execVmpop q n s
  | .bru k o => execBru k o s
  | .loopv n e o => execLoopv n e o s
  | .loopvSet e => execLoopvSet e s
  | .vqnt d a r l t => execVqnt d a r l t s
  | .vpupdSgd d a p => execVpupdSgd d a p s
  | .vpupdMom d a p g => execVpupdMom d a p g s
  | .vpack d a p k => execVpack d a p k s
  | .vunpk d a sc p k => execVunpk d a sc p k s
  | .vtsig q k c => execVtsig q k c s
  | .vtwait q b k c => execVtwait q b k c s
  | .vshut q b t c => execVshut q b t c s
  | .vend q => execVend q s
  | .mzero b m => execMzero b m s
  | .mma b c a e f => execMma b c a e f s
  | .mmaExt b c a e f x => execMmaExt b c a e f x s
  | .mspb b c a e f => execMspb b c a e f s
  | .mspbExt b c a e f x => execMspbExt b c a e f x s
  | .mscr b c a e f => execMscr b c a e f s
  | .mscrExt b c a e f x => execMscrExt b c a e f x s
  | .mscn b c a e f => execMscn b c a e f s
  | .mscnExt b c a e f x => execMscnExt b c a e f x s
  | .mrsum b a e f => execMrsum b a e f s
  | .mdrain b c a => execMdrain b c a s
  | .mdrainExt b c a x => execMdrainExt b c a x s
  | .mdrainQ b c a e x => execMdrainQ b c a e x s
  | .mcfg b w x => execMcfg b w x s
  | .mloop l n i sc => execMloop l n i sc s
  | .mtsig k c => execMtsig k c s
  | .mtwait b k c => execMtwait b k c s
  | .mshut b t c => execMshut b t c s
  | .mend b => execMend b s
  | .copy b d sc t => execCopy b d sc t s
  | .copyExt b d sc t x => execCopyExt b d sc t x s
  | .copyF b d sc t inner => execCopyF b d sc t inner s
  | .gath b d sc x => execGath b d sc x s
  | .scat b d sc x => execScat b d sc x s
  | .enc b d sc => execEnc b d sc s
  | .encExt b d sc x => execEncExt b d sc x s
  | .dec b d sc => execDec b d sc s
  | .decExt b d sc x => execDecExt b d sc x s
  | .cbload b k t f c => execCbload b k t f c s
  | .fill b d x => execFill b d x s
  | .clone b d sc => execClone b d sc s
  | .cloneZero b d => execCloneZero b d s
  | .land b t l n h x => execLand b t l n h x s
  | .coll b t r p x => execColl b t r p x s
  | .cbar b n k i => execCbar b n k i s
  | .cloop l n i sc => execCloop l n i sc s
  | .ctsig k c => execCtsig k c s
  | .ctwait b k c => execCtwait b k c s
  | .cshut b t c => execCshut b t c s
  | .cend b => execCend b s
  | _ => .next s

/-- Runs `f` with the focus on an agent, and gives the focus back. -/
def State.under (s : State) (c : Nat) (ag : Agent) (f : State → State) : State :=
  { f { s with focus := (c, ag) } with focus := s.focus }

/-- Tries the head entry of an engine stream. -/
def State.headTry (s : State) (c : Nat) (st : Stream) : State :=
  match (s.cell c).head st with
  | none => s.stall
  | some h => s.under c (.stream st) fun s =>
      match decode st h.word h.ext with
      | .instr i => outcomeOr (engineExec i s) s
      | .reject _ => s.eReject c st

/-- Tries the waiting instruction of S or of a wicket again: those whose wait has a bound. -/
def State.waitTry (s : State) (c : Nat) (ag : Agent) : State :=
  match ((s.cell c).issue ag).unfinished.getLast? with
  | none => s
  | some u => s.under c ag fun s =>
      match u.instr with
      | .waitc q b l st cp t => outcomeOr (execWaitc q b l st cp t s) s
      | .twait q b k n m => outcomeOr (execTwait q b k n m s) s
      | .fence q b sc k => outcomeOr (execFence q b sc k s) s
      | .gctlWait q d a b => outcomeOr (execGctlWait q d a b s) s
      | .barrWait q d a b => outcomeOr (execBarrWait q d a b s) s
      | .waitt q d a b => outcomeOr (execWaitt q d a b s) s
      | _ => s

/-- A try inside an event: the state when it went on, else `none`. -/
def State.completes (s : State) (f : State → State) : Option State :=
  let t := f { s with stalled := false }
  if t.stalled then none else some { t with stalled := s.stalled }

/-! ### Bounds -/

/-- The cycle-bound field of a C command (R114, R120). -/
def cBound (i : Instr) : Option (BitVec 4) :=
  match i with
  | .copy b _ _ _ | .copyExt b _ _ _ _ | .copyF b _ _ _ _ | .gath b _ _ _ | .scat b _ _ _ | .enc b _ _ | .encExt b _ _ _
  | .dec b _ _ | .decExt b _ _ _ | .cbload b _ _ _ _ | .fill b _ _ | .clone b _ _ | .cloneZero b _ | .land b _ _ _ _ _
  | .coll b _ _ _ _ | .cbar b _ _ _ | .ctwait b _ _ | .cshut b _ _ | .cend b => some b
  | _ => none

/-- The tiles a command's operands and other fields name, in the order of its word. -/
def tileOperands (i : Instr) : List (BitVec 9) :=
  let tile := fun (t : BitVec 7) => (2 : BitVec 2) ++ t
  match i with
  | .mma _ _ a e _ | .mmaExt _ _ a e _ _ | .mrsum _ a e _ | .mdrainQ _ _ a e _ => [a, e]
  | .mdrain _ _ a | .mdrainExt _ _ a _ => [a]
  | .copy _ d e _ | .copyExt _ d e _ _ | .copyF _ d e _ _ | .gath _ d e _ | .scat _ d e _ | .enc _ d e | .encExt _ d e _
  | .dec _ d e | .decExt _ d e _ | .clone _ d e => [d, e]
  | .fill _ d _ | .cloneZero _ d => [d]
  | .land _ t _ _ _ _ => [tile t]
  | .coll _ t r _ _ => [tile t, tile r]
  | _ => []

/-- The bound in cycles of the entry at an engine's head, with what BOUND reports (R114, R192, R194, R306);
`none` for one without a bound. -/
def Cell.headBound (x : Cell) (st : Stream) (i : Instr) : Option (Nat × DWord) :=
  let give := fun (b : BitVec 4) (info : DWord) => (x.bound (.stream st) b.toNat).map fun n => (n, info)
  match i with
  | .vtwait _ b k _ => give b (boundInfo 0 k.toNat)
  | .vshut _ b t _ => give b (boundInfo 1 t.toNat)
  | .vld _ _ t _ _ | .vst _ _ t _ _ | .vqnt _ _ _ _ t => some (2 ^ 20, boundInfo 1 t.toNat)
  | .vsld _ _ n _ | .vsst _ _ n _ => give (x.v.stream n).limit (boundInfo 2 n.toNat)
  | .mtwait b k _ | .ctwait b k _ => give b (boundInfo 0 k.toNat)
  | .mshut b t _ | .cshut b t _ => give b (boundInfo 1 t.toNat)
  | .mend b | .cend b => give b (boundInfo 3 6)
  | i =>
    match (mBound i).orElse fun _ => cBound i with
    | none => none
    | some b => give b (match x.closedTile st (tileOperands i) with | some t => boundInfo 1 t | none => boundInfo 3 5)

end Sys2Proof.Machine
end

