-- ==== Sys2Proof/Machine/EventsCell.lean ====
section
/-! DEFINITION. The events of a cell's streams: injected commands, fetch, traps, bounds, and waits that end
(R36, R38, R98, R114, R142, R228, R307, R333, R373, R375). An event whose condition does not hold changes nothing
(notes/assumptions/4). -/

namespace Sys2Proof.Machine

/-- Tries the head entry of an engine stream; an entry that still waits stays. -/
def State.headEvent (s : State) (c : Nat) (st : Stream) : State :=
  if s.mayRun c (.stream st) then { s.headTry c st with stalled := s.stalled } else s

/-- `INJECTED_COMMAND_ISSUE` (R38). -/
def execInjectedCommandIssue (cell : Nat) (s : State) : Host.Outcome State Fault Refusal :=
  .next (if ((s.cell cell).head .m).any (·.inj) then s.headEvent cell .m else s)

/-- `ENGINE_FETCH` (R333). -/
def execEngineFetch (cell : Nat) (st : Stream) (s : State) : Host.Outcome State Fault Refusal :=
  .next (if s.mayRun cell (.stream st) then s.engineFetch cell st else s)

/-- `TRAP_TAKE` (R142). -/
def execTrapTake (cell : Nat) (ag : Agent) (s : State) : Host.Outcome State Fault Refusal :=
  .next (match ag with
    | .stream .s | .wicket _ => if s.mayRun cell ag then { s.trapTake cell ag with stalled := s.stalled } else s
    | _ => s)

/-- The pending engine trap that S takes next: of V, then M, then C (R307). -/
def TrapUnit.nextPending (t : TrapUnit) : Option PendingTrap := engines.findSome? fun st => t.pending.find? fun p => p.stream = st

/-- `ENGINE_TRAP_TAKE` (R307): after a trap of S itself, once the atomics that have left are finished. -/
def execEngineTrapTake (cell : Nat) (s : State) : Host.Outcome State Fault Refusal :=
  let x := s.cell cell
  .next (match x.trap.nextPending with
    | none => s
    | some p =>
      if x.trap.inTrap || !s.mayRun cell (.stream .s) || x.s.iss.mustTrap || x.s.iss.blocked || x.s.iss.unfinished.any (·.sent) then s
      else
        let s := s.modCell cell fun x => { x with trap := { x.trap with pending := x.trap.pending.erase p } }
        s.asyncTrap cell p.trap p.pos)

/-! ### Bounds -/

/-- A bound has been overrun (R114). -/
def State.overrun (s : State) (since n : Nat) : Bool := decide (since + n < s.cycle)

/-- The first REL fence of an agent that has overrun its bound. -/
def State.lateFence (s : State) (c : Nat) (ag : Agent) : Option Nat :=
  let l := ((s.cell c).issue ag).unfinished
  (List.range l.length).find? fun k => match l[k]? with
    | some u => u.trap.isNone && u.bound.any fun n => s.overrun u.since n
    | none => false

/-- BOUND for S or a wicket: its overrun wait, or an overrun REL fence. -/
def State.expireIssue (s : State) (c : Nat) (ag : Agent) : State :=
  let iss := (s.cell c).issue ag
  match iss.wait with
  | some w =>
    if !(w.bound.any fun n => s.overrun w.since n) then s
    else { (s.markTrap c ag (iss.unfinished.length - 1) ⟨cBOUND, w.info⟩).trapTake c ag with stalled := s.stalled }
  | none =>
    match s.lateFence c ag with
    | none => s
    | some k => { (s.markTrap c ag k ⟨cBOUND, boundInfo 3 3⟩).trapTake c ag with stalled := s.stalled }

/-- A command in progress has overrun its bound. -/
def State.late (s : State) (c : Nat) (st : Stream) (k : Command) : Bool :=
  ((s.cell c).headBound st k.instr).any fun (n, _) => s.overrun k.since n

/-- The oldest command in progress that has overrun its bound. -/
def State.lateCommand (s : State) (c : Nat) (st : Stream) : Option Command := ((s.cell c).engine st).inprog.find? (s.late c st)

/-- BOUND for a command in progress: it stays in progress with its next step, and the stream stops (R114, R225, R261). -/
def State.expireCommand (s : State) (c : Nat) (st : Stream) (k : Command) : State :=
  let s := s.modCell c fun x => x.modEngine st fun g => { g with inprog := g.inprog.map fun j => if j = k then { k with since := s.cycle } else j }
  s.engineTrap c st k.entry ⟨cBOUND, boundInfo 3 5⟩

/-- BOUND for the head entry of an engine stream. -/
def State.expireHead (s : State) (c : Nat) (st : Stream) : State :=
  let x := s.cell c
  let next := (x.engine st).nextStep
  match x.head st, x.headInstr st, x.reachedAt st with
  | some h, some i, some t0 =>
    match x.headBound st i with
    | none => s
    | some (n, info) =>
      if !s.overrun t0 n then s else s.eConclude c st i h (.trap s ⟨cBOUND, info⟩ (if next = 0 then none else some next))
  | _, _, _ => s

/-- BOUND for an engine stream: a command in progress, else its head entry. -/
def State.expireEngine (s : State) (c : Nat) (st : Stream) : State :=
  let g := (s.cell c).engine st
  if g.stopped || g.quiesced then s else
  match s.lateCommand c st with
  | some k => s.expireCommand c st k
  | none => if (s.cell c).headRuns st then s.expireHead c st else s

/-- `CYCLE_BOUND_EXPIRY` (R42, R114). -/
def execCycleBoundExpiry (cell : Nat) (ag : Agent) (s : State) : Host.Outcome State Fault Refusal :=
  .next (if !s.mayRun cell ag then s else
    match ag with
    | .stream .s | .wicket _ => s.expireIssue cell ag
    | .stream st => s.expireEngine cell st)

/-- An M command that a fault can stop (R258). -/
def stopsInside (i : Instr) : Bool :=
  match i with
  | .mzero .. | .mcfg .. | .mloop .. | .mtsig .. | .mshut .. | .mend _ => false
  | _ => true

/-- The youngest M command in progress that a fault can stop goes back to the head with its steps done: it stops at the
boundary after the last one (R225, R228, R258). The one-step commands behind it are in the queue again. -/
def Cell.reopen (x : Cell) : Option Cell :=
  let behind := x.em.inprog.reverse.takeWhile fun k => !stopsInside k.instr
  match x.em.inprog.reverse.drop behind.length with
  | [] => none
  | k :: older =>
    let x := x.modEngine .m fun g => { g with
      inprog := older.reverse, queue := k.entry :: ((behind.reverse.map Command.entry) ++ g.queue), nextStep := k.next, table := some k.table, rounds := k.rounds }
    some { x with m := { x.m with rowNext := BitVec.ofNat 24 k.next, rowValid := true } }

/-- `REDUCTION_LIMIT` (R228): the command in progress at its next boundary, else the entry at the head. -/
def execReductionLimit (cell : Nat) (s : State) : Host.Outcome State Fault Refusal :=
  let x := s.cell cell
  let g := x.em
  let t : TrapInfo := ⟨cREDUCTION, x.res.maxred.setWidth 64⟩
  .next (if !s.mayRun cell (.stream .m) || g.stopped || g.quiesced then s
    else if x.m.openTiles = 0 ∧ g.inprog.isEmpty ∧ g.nextStep = 0 then s
    else if s.cycle - x.m.retiredAt ≤ x.res.maxred.toNat then s
    else if g.nextStep = 0 && !g.inprog.isEmpty then
      match x.reopen with
      | none => s
      | some y =>
        let s := s.setCell cell y
        match y.head .m with
        | some h => s.engineTrap cell .m h t
        | none => s
    else match x.head .m with
      | some h => if !x.headRuns .m then s else s.eConclude cell .m (.mend 0) h (.trap s t (if g.nextStep = 0 then none else some g.nextStep))
      | none => s)

/-! ### Waits that end -/

/-- Tries a stream's token wait. -/
def State.tokenTry (s : State) (c : Nat) (st : Stream) : State :=
  if ((s.cell c).waitsOn st).isNone || !s.mayRun c (.stream st) then s
  else match st with
    | .s => (s.completes fun s => s.waitTry c (.stream .s)).getD s
    | st => (s.completes fun s => s.headTry c st).getD s

/-- `TOKEN_WAIT_SATISFIED` (R36): waits on one token are served in the order S, V, M, C. -/
def execTokenWaitSatisfied (cell : Nat) (st : Stream) (s : State) : Host.Outcome State Fault Refusal :=
  let k := (s.cell cell).waitsOn st
  let before := ([Stream.s, .v, .m, .c].take (streamNumber st)).filter fun e => (s.cell cell).waitsOn e = k
  .next (if k.isNone then s else (before ++ [st]).foldl (fun s e => s.tokenTry cell e) s)

/-- An instruction that waits on a tile's shutter (R98). -/
def shutterInstr (i : Instr) : Bool :=
  match i with
  | .vld .. | .vst .. | .vqnt .. | .vsld .. | .vsst .. | .vshut .. | .mshut .. | .cshut .. => true
  | i => (tileOperands i).any fun o => (operandTile o).isSome

/-- `SHUTTER_STALL_RELEASE` (R98): passes are tested in the order V, M, C (R99). -/
def execShutterStallRelease (cell : Nat) (st : Stream) (s : State) : Host.Outcome State Fault Refusal :=
  .next (if st ≠ .s && ((s.cell cell).headInstr st).any shutterInstr then
      (engines.take (streamNumber st)).foldl (fun s e =>
        if ((s.cell cell).headInstr e).any shutterInstr && (e = st || ((s.cell cell).engine e).waiting) then s.headEvent cell e else s) s
    else s)

/-! ### The end of a cycle -/

/-- A stream of a cell waits: S on its wait, an engine with its head. -/
def Cell.waits (x : Cell) (st : Stream) : Bool := if st = .s then x.s.iss.wait.isSome else (x.engine st).waiting

/-- The waits of a cell are tested at the end of a cycle, in the order S, V, M, C (R36, R99, R114). -/
def State.serveCell (s : State) (c : Nat) : State :=
  ([.s, .v, .m, .c] : List Stream).foldl (fun (s : State) st =>
    if !(s.cell c).waits st || !s.mayRun c (.stream st) then s
    else (s.completes fun s => if st = .s then s.waitTry c (.stream .s) else s.headTry c st).getD s) s

/-- The waits of every cell that has one. -/
def State.serve (s : State) : State :=
  if s.cells.any fun x => engines.any x.waits || x.waits .s then
    (List.range Config.cells).foldl (fun s c => s.serveCell c) s
  else s

/-- Ends S's wait when the waiting instruction is of a kind and finds its condition. -/
def State.waitEnds (s : State) (c : Nat) (kind : Instr → Bool) : State :=
  let iss := (s.cell c).s.iss
  if iss.wait.isSome && (iss.unfinished.getLast?.any fun u => kind u.instr) && s.mayRun c (.stream .s) then
    (s.completes fun s => s.waitTry c (.stream .s)).getD s
  else s

/-- `WAITT_TARGET_REACHED` (R375). -/
def execWaittTargetReached (cell : Nat) (s : State) : Host.Outcome State Fault Refusal :=
  .next (s.waitEnds cell fun i => match i with | .waitt .. => true | _ => false)

/-- `BARRIER_WAIT_RELEASE` (R373). -/
def execBarrierWaitRelease (cell : Nat) (s : State) : Host.Outcome State Fault Refusal :=
  .next (s.waitEnds cell fun i => match i with | .barrWait .. => true | _ => false)

end Sys2Proof.Machine
end

