-- ==== Sys2Proof/Machine/EventsMemory.lean ====
section
/-! DEFINITION. The events of memory: returning data, cross-die writes, atomics, window and host accesses, page
walks and the hotness table (R21, R22, R83, R93 to R95, R140, R376, R382, R383, R394, R420). -/

namespace Sys2Proof.Machine

/-- The host, the management core and the torus ports as agents of accesses. -/
def hostAgent : Nat × Agent := (Config.cells + 1, .stream .s)
def coreAgent : Nat × Agent := (Config.cells + 2, .stream .s)
def portAgent (p : Nat) : Nat × Agent := (Config.cells + 8 + p, .stream .s)

/-- The die of an agent: a cell's, the die of a torus port, die 0 for the host, the management core and the
dispatcher (R10, R362). -/
def agentDie (a : Nat) : Nat :=
  if a < Config.cells then dieOf a else if a < Config.cells + 8 then 0 else (a - Config.cells - 8) / 2 + 1

/-- `LOAD_DATA_RETURN` (R140): the data of entry `k`, when it is a load, a `TDEF` or an answered atomic. -/
def execLoadDataReturn (cell : Nat) (ag : Agent) (k : Nat) (s : State) : Host.Outcome State Fault Refusal :=
  .next (match ((s.cell cell).issue ag).unfinished[k]? with
    | none => s
    | some u =>
      match u.finish with
      | .load _ | .tdef _ => s.finishEntry cell ag k
      | .atomic _ => if u.value.isSome then s.finishEntry cell ag k else s
      | _ => s)

/-- `WRITE_APPLY_TO_VIEW` (R83): message `k` of those on their way to a die, when the die has caught up. -/
def execWriteApplyToView (die k : Nat) (s : State) : Host.Outcome State Fault Refusal :=
  .next (match (s.mem.pend.filter fun w => w.dst = die)[k]? with
    | some w => if s.mem.ready w then { s with mem := s.mem.apply w } else s
    | none => s)

/-! ### Atomics -/

/-- The place of the request that a quad's engine admits next: those from outside the quad in order of arrival and
source die, then those of its cells, from the cell after the last one served (R95). -/
def Quad.admitNext (q : Quad) (n : Nat) : Option Nat :=
  let idx := List.range q.requests.length
  let key := fun (k : Nat) => match q.requests[k]? with
    | none => none
    | some r =>
      if r.admitted then none
      else if quadOf r.cell ≠ n then some (0, r.since * 4 + r.die)
      else some (1, (r.cell + 4 - q.lastCell % 4 - 1) % 4)
  idx.foldl (fun best k => match key k, best.bind key with
    | some a, some b => if a.1 < b.1 || (a.1 = b.1 && decide (a.2 < b.2)) then some k else best
    | some _, none => some k
    | none, _ => best) none

/-- Admits one request: it joins the admitted ones, behind them (R95). -/
def Quad.letIn (q : Quad) (n : Nat) : Quad :=
  match q.admitNext n with
  | none => q
  | some k =>
    match q.requests[k]? with
    | none => q
    | some r =>
      let rest := q.requests.eraseIdx k
      { q with
        requests := rest.filter (·.admitted) ++ [{ r with admitted := true }] ++ rest.filter fun r => !r.admitted
        lastCell := if quadOf r.cell = n then r.cell else q.lastCell }

/-- The answer to an atomic: its old value, or a trap of the waiting instruction (R93, R154). Earlier writes of the
location that are still on their way to the requester's die reach it first: its later reads see no older value (R82, R84). -/
def State.answerAtomic (s : State) (r : AtomicReq) (v : Except (BitVec 8) Nat) : State :=
  let d := dieOf r.cell
  let s := if s.mem.pend.any fun w => w.dst = d && w.touches r.pa r.width then { s with mem := s.mem.flush d } else s
  let l := ((s.cell r.cell).issue r.agent).unfinished
  match (List.range l.length).find? fun k => (l.getD k { instr := .tend 0, word := 0, pc := 0 }).finish = .atomic r.id with
  | none => s
  | some k =>
    match v, l[k]? with
    | .ok v, _ => s.modIssue r.cell r.agent fun i => { i with unfinished := modAt i.unfinished k fun u => { u with value := some (BitVec.ofNat 64 v) } }
    | .error c, some u =>
      (s.modIssue r.cell r.agent fun i => { i with unfinished := modAt i.unfinished k fun u => { u with sent := false } }).markTrap
        r.cell r.agent k (trapAt c u.ea.toNat)
    | .error _, none => s

/-- The read-modify-write of a request at its home (R93, R94, R391); bad data discards the write. -/
def State.performAtomic (s : State) (r : AtomicReq) (pa : Nat) : State :=
  let d := homeDie pa
  let s := if s.mem.pend.any fun w => w.dst = d && w.touches pa r.width then { s with mem := s.mem.flush d } else s
  let x := s.readPa d pa r.width
  match x.bad with
  | some (_, u) => (s.badRead (r.cell, r.agent) false pa r.width).answerAtomic r (.error (if u then cUNCORR else cPOISON))
  | none =>
    let old := x.nat
    let b := bitsAt r.b.toNat 0 (8 * r.width)
    let s := s.chargeBytes r.cell pa (2 * r.width)
    let s :=
      if r.op = 31 then (if old = bitsAt r.cmp.toNat 0 (8 * r.width) then s.writePa d (r.cell, r.agent) pa (leBytes r.width b) else s)
      else s.writePa d (r.cell, r.agent) pa (leBytes r.width (atomNew r.op r.width old b))
    s.answerAtomic r (.ok old)

/-- `ATOMIC_EXECUTE` (R93 to R95): the quad's engine admits a request, then executes request `k` when it is the
oldest of its 256-byte line and the home view holds what its clock covers; a page that has moved on takes the
request to its new home (R392). -/
def execAtomicExecute (quad k : Nat) (s : State) : Host.Outcome State Fault Refusal :=
  let s := s.modQuad quad fun q => q.letIn quad
  let l := (s.quad quad).requests
  .next (match l[k]? with
    | none => s
    | some r =>
      let pa := s.served r.pa
      if !r.admitted || ((l.take k).any fun o => o.admitted && o.pa / 256 = r.pa / 256) then s
      else if homeQuad pa ≠ quad then
        (s.modQuad quad fun q => { q with requests := q.requests.eraseIdx k }).modQuad (homeQuad pa) fun q =>
          { q with requests := q.requests ++ [{ r with pa := pa, admitted := false, since := s.cycle }] }
      else if !s.mem.covers (homeDie pa) r.clock then s
      else (s.modQuad quad fun q => { q with requests := q.requests.eraseIdx k }).performAtomic r pa)

/-! ### Window and host accesses -/

/-- What an access from outside the module's agents returns. -/
def State.giveHost (s : State) (v : DWord) (poison abort : Bool) : State :=
  { s with dev := { s.dev with hostData := v, hostPoison := poison, hostAbort := abort } }

/-- An access of the host or the management core, or a waiting store, performed now. -/
def State.performOutside (s : State) (ag : Nat × Agent) (pa n : Nat) (wr : Option (List Byte)) : State :=
  match wr with
  | some bs =>
    let s := s.writePa (agentDie ag.1) ag pa bs
    if ag.1 < Config.cells then s else s.giveHost 0 false false
  | none =>
    let d := s.readPa (agentDie ag.1) pa n
    s.giveHost (BitVec.ofNat 64 d.nat) d.bad.isSome false

/-- A waiting access to a cell's window may proceed (R21, R22, R302). -/
def Cell.accessGoes (x : Cell) (a : WindowAccess) : Bool :=
  x.res.fenced || (if a.off < 0x200000 then x.padOpenFor a.agent a.off else !x.midwayAt a.off)

/-- Performs the accesses that wait at a cell's window and may proceed (R21). -/
def State.drainWindow (s : State) (c : Nat) : State :=
  let l := (s.cell c).winWaits
  if l.isEmpty then s else
  let go := (s.cell c).accessGoes
  let t := s.modCell c fun x => { x with winWaits := l.filter fun a => !go a }
  (l.filter go).foldl (fun s a => s.performOutside a.agent (padPa c a.off) a.size a.wr) t

/-- Performs the register writes of earlier cycles whose engine is at a command boundary (R22, R108). -/
def State.drainRegs (s : State) (c : Nat) : State :=
  let l := (s.cell c).winRegs
  if l.isEmpty then s else
  let go := fun (a : WindowAccess) => decide (a.since < s.cycle) && (s.cell c).atBoundary a.off
  let t := s.modCell c fun x => { x with winRegs := l.filter fun a => !go a }
  (l.filter go).foldl (fun s a => s.windowRegWrite c a.off (a.wr.getD [])) t

/-- A naturally aligned size of an access from outside (R20, R80). -/
def outsideSize (pa n : Nat) : Bool := (n = 1 || n = 2 || n = 4 || n = 8) && pa % n = 0

/-- An access from outside to a cell's window: it waits on a closed shutter (R21); a register region's size rule
ends it in an abort (R20). -/
def State.outsideWindow (s : State) (ag : Nat × Agent) (c off n : Nat) (wr : Option DWord) : State :=
  let s := s.drainWindow c
  let x := s.cell c
  let bs := wr.map fun v => leBytes n (bitsAt v.toNat 0 (8 * n))
  if !windowAlign (padPa c off) n false then s.giveHost 0 false true
  else if !x.accessGoes { agent := ag, off := off, size := n, wr := bs, since := s.cycle } && (bs.isNone || off < 0x200000) then
    (s.bar ag (padPa c off)).modCell c fun x => { x with winWaits := x.winWaits ++ [{ agent := ag, off := off, size := n, wr := bs, since := s.cycle }] }
  else s.performOutside ag (padPa c off) n bs

/-- `CELL_WINDOW_ACCESS` (R21) by the host or the management core. -/
def execCellWindowAccess (cell off size : Nat) (wr : Option DWord) (byCore : Bool) (s : State) : Host.Outcome State Fault Refusal :=
  .next (if Config.cells ≤ cell ∨ 2 ^ 24 ≤ off ∨ !outsideSize off size then s
    else s.outsideWindow (if byCore then coreAgent else hostAgent) cell off size wr)

/-- `WINDOW_REG_WRITE_APPLY` (R22). -/
def execWindowRegWriteApply (cell : Nat) (s : State) : Host.Outcome State Fault Refusal := .next (s.drainRegs cell)

/-- The oldest access to a scratchpad that has waited 2^20 cycles at the cell's window ends: a read returns poisoned data,
a write is discarded (R21). -/
def State.expireWindow (s : State) (cell : Nat) : State :=
  let x := s.cell cell
  match x.winWaits.find? fun a => a.off < 0x200000 && decide (a.since + portLimit ≤ s.cycle) with
    | none => s
    | some a =>
      let s := s.setCell cell { x with winWaits := x.winWaits.erase a }
      let s := (s.limitReached a.agent.1 cell a.off).unbar a.agent cell
      match a.wr with
      | some _ => s
      | none => let (v, s) := s.takeFree; s.giveHost v true false

/-- `WINDOW_ACCESS_TIMEOUT` (R21). -/
def execWindowAccessTimeout (cell : Nat) (s : State) : Host.Outcome State Fault Refusal := .next (s.expireWindow cell)

/-- `HOST_MEMORY_ACCESS` (R18, R420); in the safe state device memory answers with a completer abort (R447), while
the cut registers and in-flight tables of the windows stay readable (R428, notes/assumptions/31). -/
def execHostMemoryAccess (pa size : Nat) (wr : Option DWord) (s : State) : Host.Outcome State Fault Refusal :=
  .next (if !outsideSize pa size then s
    else if s.dev.mstate = 2 && (match place pa with | .window .. => false | _ => true) then s.giveHost 0 false true
    else if absent pa then (s.holeAccess hostAgent.1 pa).giveHost 0 false true
    else match place pa with
      | .window c off => s.outsideWindow hostAgent c off size wr
      | _ => s.performOutside hostAgent pa size (wr.map fun v => leBytes size (bitsAt v.toNat 0 (8 * size))))

/-! ### Translation and hotness -/

/-- The address of a frame's hotness counter (R394). -/
def State.hotCounter (s : State) (pa : Nat) : Nat := s.page.hotbase.toNat + pa / 65536

/-- The migration engine as the agent of its accesses. -/
def engineAgent : Nat × Agent := (Config.cells + 3, .stream .s)

/-- The value of a frame's hotness counter; one above the populated CXL memory is read as a hole (R18). -/
def State.hotRead (s : State) (pa : Nat) : Nat × State :=
  let a := s.hotCounter pa
  (leNat (s.readPa 0 a 1).bytes, if absent a then s.holeAccess engineAgent.1 a else s)

/-- Sets a frame's hotness counter. -/
def State.hotWrite (s : State) (pa v : Nat) : State := s.dwrite (s.hotCounter pa) (leBytes 1 v)

/-- A sampled miss on the frame of a leaf (R394). -/
def State.hotSample (s : State) (e : DWord) (pa : Nat) : State :=
  if !s.page.hotEn || 0x140000000000 ≤ pa then s
  else if leafPIN e then { s with page := { s.page with skipPinned := s.page.skipPinned + 1 } }
  else
    let (n, s) := s.hotRead pa
    s.hotWrite pa (min 255 (n + 1))

/-- `PAGE_WALK` (R376, R382, R394): a miss of the quad's TLB. A leaf that is found is cached there and in the TLBs
of the quad's cells, which replace their oldest entry (notes/assumptions/8). -/
def execPageWalk (quad : Nat) (ctx : BitVec 16) (va : Nat) (s : State) : Host.Outcome State Fault Refusal :=
  .next (if Config.quads ≤ quad ∨ !canonical va ∨ (tlbFind (s.quad quad).tlb ctx va).isSome then s else
    let n := (s.quad quad).misses
    let s := s.modQuad quad fun q => { q with misses := n + 1 }
    match s.walkFrom (quad / 12) ctx va with
    | .leaf e large _ =>
      let entry : TlbEntry := ⟨ctx, va / pageSize large * pageSize large, large, e⟩
      let s := s.modQuad quad fun q => { q with tlb := (entry :: q.tlb).take 2048 }
      let s := (List.range 4).foldl (fun (s : State) i => s.modCell (4 * quad + i) fun x => { x with tlb := (entry :: x.tlb).take 64 }) s
      if n = 15 then s.hotSample e (leafPa e large va) else s
    | .bad _ a => s.badRead (4 * quad, .stream .s) false a 8
    | .notPresent => s)

/-- What an access stream of M (A, B, metadata, drain) or C (source, destination, index list) needs of a page. -/
def streamNeed (st : Stream) (k : Nat) : Need :=
  match st, k with
  | .m, 3 | .c, 1 => { wr := true }
  | _, _ => { rd := true }

/-- The page registers of a stream after a fill for `va` (R383): the page next to the current one goes into the
next-page register unless `PFDIST` is 0; a page that is being entered becomes current. -/
def fillPair (p : Option TlbEntry × Option TlbEntry) (e : Option TlbEntry) (va pfdist : Nat) : Option TlbEntry × Option TlbEntry :=
  let covers := fun (t : TlbEntry) => t.va ≤ va && va < t.va + pageSize t.large
  match p.1 with
  | none => (e, none)
  | some cur =>
    if covers cur then p
    else if p.2.any covers then (p.2, none)
    else
      let near := cur.va + pageSize cur.large = va / 65536 * 65536 || va / 65536 * 65536 + 65536 = cur.va
      if near then (if pfdist = 0 then p else (p.1, e)) else (e, none)

/-- `NEXT_PAGE_FILL` (R383, R474): an invalid or forbidden page leaves the register empty. A fill for the adjacent page comes
while the stream is anywhere in the current one (notes/assumptions/114). -/
def execNextPageFill (cell : Nat) (st : Stream) (k va : Nat) (s : State) : Host.Outcome State Fault Refusal :=
  let x := s.cell cell
  let w := s.whoOf cell (.stream st)
  let slot := match st with
    | .m => if k < 4 then some k else none
    | .c => if k < 3 then some (4 + k) else none
    | _ => none
  .next (match slot with
    | none => s
    | some i =>
      if !s.mayRun cell (.stream st) || (s.context w.ctx).state ≠ .active || !canonical va then s else
      let e := match s.lookup { w with ag := .stream .s } va with
        | .leaf e large _ => if permitted e (leafPa e large va) w.super (streamNeed st k) then some (⟨w.ctx, va / pageSize large * pageSize large, large, e⟩ : TlbEntry) else none
        | _ => none
      s.setCell cell { x with pageRegs := modAt x.pageRegs i fun p => fillPair p e va x.pfdist.toNat })

/-- `HOT_DECAY` (R394): every counter is halved once per period. Unlisted bytes are 0 and stay 0. -/
def execHotDecay (s : State) : Host.Outcome State Fault Refusal :=
  let period := s.page.decay.toNat * 2 ^ 20
  .next (if !s.page.hotEn ∨ period = 0 ∨ s.cycle < s.timers.decay + period then s else
    let s := s.settle
    let base := s.page.hotbase.toNat
    let cells := ((s.mem.views.getD 0 []).filter fun (a, _) => base ≤ a && a < base + 0x14000000).map Prod.fst
    let s := cells.foldl (fun (s : State) a => s.dwrite a (leBytes 1 (leNat (s.readPa 0 a 1).bytes / 2))) s
    { s with timers := { s.timers with decay := s.cycle } })

end Sys2Proof.Machine
end

