-- ==== Sys2Proof/Machine/EventsReady.lean ====
section
/-! DEFINITION. The dispatch order, taking slots from queues, and dispatch onto a cell (R27, R28, R31, R34, R297,
R324, R326 to R328, R341). -/

namespace Sys2Proof.Machine

/-! ### The order of READY tasks -/

/-- Cycles in READY, held at 2^31 (R327). -/
def State.waited (s : State) (t : Task) : Nat := min (2 ^ 31) (s.cycle - t.waitSince)

/-- Effective priority after `w` cycles (R327). -/
def State.effective (s : State) (r : Record) (w : Nat) : Nat := min (r.base + w / s.disp.ageStep.toNat) r.ceiling

/-- The place of a READY task in the dispatch order, the greatest first: the starvation guard, effective priority,
wait time, then the ties of R327. -/
def State.rank (s : State) (guard : Bool) (t : Task) : List Nat :=
  let w := s.waited t
  let starved := guard && !t.record.weir && 64 * s.disp.ageStep.toNat ≤ w
  [bit starved, (if starved then 0 else s.effective t.record w), w, bit t.image.isSome,
   65536 - (if t.image.isSome then t.lastCell else t.qid), 2 ^ 64 - t.order]

/-- What is known of the task in an untaken slot of queue `q` (R326, R329). -/
def RQueue.slotTask (x : RQueue) (q : Nat) (p : SlotPut) : Task :=
  { record := { basepri := BitVec.ofNat 8 x.level.toNat, ceilpri := BitVec.ofNat 8 p.ceil, flags := if x.level = 0 then 4 else 0, ctxid := x.ctx }
    va := 0, state := .ready, waitSince := p.since, order := p.seq, qid := q, wants := p.wants }

/-- A list of numbers comes before another, the greater number first. -/
def rankBefore (a b : List Nat) : Bool :=
  match a, b with
  | x :: a, y :: b => decide (y < x) || (x = y && rankBefore a b)
  | _, _ => false

/-- The element whose rank comes first. -/
def firstBy {α : Type} (rank : α → List Nat) (l : List α) : Option α :=
  l.foldl (fun best a => match best with
    | none => some a
    | some b => if rankBefore (rank a) (rank b) then some a else some b) none

/-- A READY task of the pool that may be dispatched when a cell suits it (R327). -/
def State.eligible (s : State) (t : Task) : Bool :=
  t.state = .ready && t.stolenTo.isNone && (s.context t.record.ctxid).state = .active && (!t.record.weir || s.disp.weirRel)

/-! ### Taking slots -/

/-- The `SKIND` byte of the record at `va` is written, when it can be (R26). -/
def State.writeSkind (s : State) (ctx : BitVec 16) (va kind : Nat) : State :=
  match s.dstore ctx (va + 56) (leBytes 1 kind) with
  | .ok s => s
  | .error c => s.dmiss ctx (va + 56) 1 c

/-- A record is written back as a whole with its last suspension kind (R26, R30), when it can be. -/
def State.writeLast (s : State) (ctx : BitVec 16) (va : Nat) (r : Record) (kind : BitVec 8) : State :=
  match s.dstore ctx va ({ r with skind := kind, scause := 0, sinfo := 0 } : Record).bytes with
  | .ok s => s
  | .error c => s.dmiss ctx va 64 c

/-- Reserved bits, program counters and fields that make a record invalid (R27, R28), its context apart. -/
def Record.malformed (r : Record) : Bool :=
  r.resv ≠ 0 || bitsAt r.flags.toNat 3 5 ≠ 0 || bitsAt r.basepri.toNat 6 2 ≠ 0 || bitsAt r.ceilpri.toNat 6 2 ≠ 0 ||
  [r.spc, r.vpc, r.mpc, r.cpc].any (fun p => !canonical p.toNat || p.toNat % 4 ≠ 0) ||
  r.frame.toNat % 64 ≠ 0 || 4 < r.skind.toNat || (!r.weir && bitsAt r.basepri.toNat 0 6 = 0)

/-- A launch is being cancelled, or has been (R326, R354). -/
def State.launchGone (s : State) (launch : BitVec 32) : Bool :=
  launch ≠ 0 && gidHome launch = s.moduleNumber && (match s.group launch with
    | none => true
    | some g => g.state = gCANCELLING || g.state = gCANCELLED)

/-- The launch that a slot's copy names: the one the task was put into, or another of the queue's context. A slot that
software has overwritten names no launch of another context (R2, R320; DEDUCED, notes/assumptions/101). -/
def State.ownLaunch (s : State) (x : RQueue) (p : SlotPut) (launch : BitVec 32) : BitVec 32 :=
  if launch = p.launch ∨ (s.group launch).any (fun g => g.ctx = x.ctx) then launch else 0

/-- A launch is held as a graph node (R357). -/
def State.launchHeld (s : State) (launch : BitVec 32) : Bool := (s.group launch).any (·.held)

/-- A taken slot of queue `q`: its record is read and its task enters the pool, or it is cancelled (R31, R324,
R326). A `SKIND` of 1 to 4 is a valid one (R27); without an image the task is a fresh one (notes/assumptions/47). -/
def State.admitSlot (s : State) (q : Nat) (va : Nat) (launch : BitVec 32) (p : SlotPut) : State :=
  let x := s.queue q
  let launch := s.ownLaunch x p launch
  if p.gone || s.launchGone launch then s.writeSkind x.ctx va 6 else
  match s.dread x.ctx va 64 with
  | .error c => ((s.dmiss x.ctx va 64 c).event 0x0201 .dispatcher x.ctx va 0).cancelOut launch
  | .ok bs =>
    let r := recordOf bs
    if r.malformed ∨ r.ctxid ≠ x.ctx ∨ r.weir ≠ decide (x.level = 0) ∨ (!r.weir ∧ r.basepri.toNat ≠ x.level.toNat) then
      ((s.writeLast x.ctx va r 7).event 0x0201 .dispatcher x.ctx va 7).cancelOut launch
    else
      let held := p.held || s.launchHeld launch
      let t : Task := { record := { r with launchid := launch }, va := va, state := if held then .waiting else .ready, deps := bit held
                        waitSince := p.since, order := p.seq, qid := q, argBlock := r.frame, kernel := p.kernel, wants := p.wants }
      ({ s with disp := { s.disp with nextTask := s.disp.nextTask + 1 } } : State).setTask s.disp.nextTask t

/-- A DRAINING queue with no slot left is CLOSED (R322). -/
def RQueue.drained (x : RQueue) : RQueue := if x.state = qDRAINING ∧ x.take = x.put then { x with state := qCLOSED } else x

/-- A dispatcher read waits on a shutter now (R21). -/
def State.readWaits (s : State) (ctx : BitVec 16) (va n : Nat) : Bool :=
  match s.dread ctx va n with
  | .error c => c = cWAIT
  | .ok _ => false

/-- The dispatcher may take a slot of a queue now: its context is ACTIVE (R326, R327), and the pool has room. -/
def State.mayTake (s : State) (x : RQueue) : Bool :=
  (x.state = qOPEN || x.state = qDRAINING) && x.put ≠ x.take && (s.context x.ctx).state = .active && decide (s.poolHeld s.disp.nextTask < 65536)

/-- TAKES ONE SLOT of a queue while the pool has room (R326). -/
def State.takeSlot (s : State) (q : Nat) : State :=
  let x := s.queue q
  if !s.mayTake x then s else
  let va := x.slotVa x.take.toNat
  match s.dread x.ctx va 16 with
  | .error c => if c = cWAIT then s.dmiss x.ctx va 16 c else s.breakQueue q c va
  | .ok bs =>
    let rec_ := sext52 (bytesAt bs 0 8)
    let launch : BitVec 32 := BitVec.ofNat 32 (bytesAt bs 8 4)
    let p := x.puts.headD {}
    if s.readWaits x.ctx rec_ 64 && !p.gone && !s.launchGone (s.ownLaunch x p launch) then s.dmiss x.ctx rec_ 64 cWAIT else
    let s := (s.dcame x.ctx va).dcame x.ctx rec_
    let s := s.setQueue q ({ x with take := x.take + 1, puts := x.puts.drop 1 }).drained
    s.admitSlot q rec_ launch p

/-- The queue from which the dispatcher takes next, in the dispatch order of its oldest slot (R326, R327). -/
def State.nextQueue (s : State) : Option Nat :=
  let l := s.disp.queues.filter fun (_, x) => s.mayTake x
  (firstBy (fun (q, x) => s.rank true (x.slotTask q (x.puts.headD {}))) l).map Prod.fst

/-- Takes slots while there are any and the pool has room; `fuel` bounds their number. -/
def State.takeSlots (s : State) (fuel : Nat) : State :=
  match fuel with
  | 0 => s
  | fuel + 1 =>
    match s.nextQueue with
    | none => s
    | some q => (s.takeSlot q).takeSlots fuel

/-- Slots put and not taken. -/
def State.untaken (s : State) : Nat := (s.disp.queues.map fun (_, x) => if x.state = qOPEN ∨ x.state = qDRAINING then (x.put - x.take).toNat else 0).foldl (· + ·) 0

/-- `QUEUE_TAKE` (R326). -/
def execQueueTake (qid : Nat) (s : State) : Host.Outcome State Fault Refusal := .next (s.takeSlot qid)

/-! ### The choice of a cell -/

/-- A cell free for dispatch: without a task, a fence, a debug stop or a wicket of a packet-named context (R41,
R427, R432). -/
def Cell.free (x : Cell) : Bool :=
  x.res.image = .none && !x.res.fenced && !x.dbg.holds && !x.wickets.any fun k => k.running && k.alone

/-- The free cells. -/
def State.freeCells (s : State) : List Nat := (List.range Config.cells).filter fun c => (s.cell c).free

/-- A task that must run on the cell it last ran on: a landing-wait, or one that holds a packet (R313, R410). -/
def Task.bound (t : Task) : Bool :=
  t.image.any fun i => t.record.skind = 3 || i.s.packet.isSome || i.wickets.any fun (k : Wicket) => k.running && k.packet.isSome

/-- The operand regions a task declares (R344). -/
def State.operands (s : State) (t : Task) : List (Nat × Nat) :=
  match s.group t.record.launchid with
  | none => []
  | some g => g.ops.map fun o =>
    let stride := bitsAt o.toNat 96 32
    ((sext52 (bitsAt o.toNat 0 64) + t.record.taskid.toNat * stride) % 2 ^ 64, bitsAt o.toNat 64 32)

/-- Bytes of a region on a cached page. -/
def TlbEntry.covers (e : TlbEntry) (b n : Nat) : Nat := min (b + n) (e.va + pageSize e.large) - max b e.va

/-- Bytes of a task's declared operands, on pages whose translation the cell's quad caches, whose place satisfies
`p` (R328). -/
def State.operandBytes (s : State) (t : Task) (c : Nat) (p : Nat → Bool) : Nat :=
  let pages := (s.quad (quadOf c)).tlb.filter fun e => e.ctx = t.record.ctxid && p (leafFrame e.leaf)
  ((s.operands t).flatMap fun (b, n) => pages.map fun e => e.covers b n).foldl (· + ·) 0

/-- The place of a free cell in the choice of R328, the greatest first. -/
def State.cellRank (s : State) (t : Task) (c : Nat) : List Nat :=
  let q := quadOf c
  let running := ((List.range 4).filter fun i => (s.cell (4 * q + i)).res.image = .active && (s.cell (4 * q + i)).res.task.isSome).length
  [s.operandBytes t c fun pa => place pa = .cluster && homeQuad pa = q,
   s.operandBytes t c fun pa => (place pa).tier.any (· ≠ 3) && homeDie pa = dieOf c,
   4 - running, Config.cells - c]

/-- The free cells that a task may take. -/
def State.cellsFor (s : State) (t : Task) : List Nat := if t.bound then s.freeCells.filter (· = t.lastCell) else s.freeCells

/-! ### A fresh task -/

/-- The tiles a kernel declares (R338). -/
def declaredTiles (h : BitVec 512) : List Nat := (List.range 128).filter fun n => (hdrField h 16 0 128).testBit n

/-- A kernel's declared limits: `MAXR` and `MAXB`. A launch that `GCTL` opened has no kernel and declares nothing
(notes/assumptions/28). -/
def kernelLimits (khdr : Nat) (h : BitVec 512) : BitVec 32 × BitVec 16 :=
  if khdr = 0 ∧ h = 0 then (BitVec.allOnes 32, 0xFFFF) else (BitVec.ofNat 32 (hdrField h 12 0 32), BitVec.ofNat 16 (hdrField h 36 0 16))

/-- The implied `IFENCE` of a dispatch (R341). -/
def Cell.enterKernel (x : Cell) (h : BitVec 512) : Cell :=
  let g : BitVec 32 := BitVec.ofNat 32 (hdrField h 8 0 32)
  { x with icache := if g = 0 ∨ g ≠ x.gen then [] else x.icache, gen := g }

/-- The tiles that are cleared for a task of a context: those given, and every other one when the cell's previous
image belonged to another context (R34, R300). -/
def Cell.clearedTiles (x : Cell) (ctx : BitVec 16) (declared : List Nat) : List Nat :=
  if x.res.lastCtx = ctx then declared else List.range 128

/-- A scratchpad with tiles cleared. -/
def Cell.clearTiles (x : Cell) (l : List Nat) : Cell := { x with pad := l.foldl (fun (m : Memory) t => m.clear (t * 16384) 16384) x.pad }

/-- Clears the marks and errors of what a dispatch overwrites in cell `c`: cleared tiles, registers and accumulators
(R423, R425). -/
def State.clearErrors (s : State) (c : Nat) (tiles : List Nat) : State :=
  let m := tiles.foldl (fun (m : MemUnit) t => m.unmark (padPa c (t * 16384)) 16384) s.mem
  { s with mem := { m with uncorr := m.uncorr.filter fun x => match x with
      | .scalarReg k _ | .vectorReg k _ | .accRow k _ => k ≠ c
      | _ => true } }

/-- The shutters at dispatch (R34). -/
def freshShutters (declared : List Nat) : List (BitVec 3) := (List.range 128).map fun t => if declared.contains t then 0 else codeFree

/-- A cell set up for a fresh task (R34, R297, R341, R343). -/
def Cell.fresh (x : Cell) (n : Nat) (t : Task) (k : Context) (khdr : Nat) (h : BitVec 512) (prio now : Nat) : Cell :=
  let tiles := declaredTiles h
  let ctx := t.record.ctxid
  let x := (x.clearTiles (x.clearedTiles ctx tiles)).enterKernel h
  { x with
    s := { regs := (List.replicate 32 (0 : DWord)).set 1 t.record.frame, iss := { pc := t.record.spc }
           super := (hdrField h 5 0 1 = 1) && k.supok }
    trap := { tvec := k.tvec0 }
    v := {}
    m := { statPairs := x.m.statPairs, statQfull := x.m.statQfull, statLevee := x.m.statLevee, statIdle := x.m.statIdle
           statSplit := x.m.statSplit, retiredAt := now }
    c := { x.c with sb := 0, db := 0, lastLoad := [none, none], landOut := none, banks := x.c.banks.map fun e => (e.1, false) }
    ev := {}, em := {}, ec := {}
    tokens := List.replicate 32 0, shutters := freshShutters tiles, tensors := List.replicate 256 0
    pageRegs := List.replicate 7 (none, none)
    res := { x.res with
      task := some n, image := .active, stop := none, ctx := ctx, prio := BitVec.ofNat 6 prio
      maxred := (kernelLimits khdr h).1, maxb := (kernelLimits khdr h).2, det := t.record.det
      energy := 0, esat := false, ea := 0, rc := 0, escale := k.esc, replayed := false } }

/-- Starts a fresh task on cell `c`. -/
def State.startFresh (s : State) (n : Nat) (t : Task) (c prio : Nat) : State :=
  let (khdr, h) := s.taskKernel t
  let s := s.clearErrors c ((s.cell c).clearedTiles t.record.ctxid (declaredTiles h))
  let s := s.modCell c fun x => x.fresh n t (s.context t.record.ctxid) khdr h prio s.cycle
  s.setTask n { t with state := .running, cell := some c, lastCell := c, dispatchedAt := s.cycle }

/-! ### Dispatch -/

/-- A task leaves the machine without being run: its frame slot is released, and it is counted out (R27, R31). -/
def State.dropTask (s : State) (n : Nat) : State :=
  match s.task n with
  | none => s
  | some t =>
    let s := s.modContext t.record.ctxid fun k =>
      let k := { k with slots := k.slots.filter fun x => some x ≠ t.slot }
      match t.image with
      | some i => k.addEnergy i.res
      | none => k
    let unsent := s.unsent t
    let s := (s.setTask n { t with state := .cancelled, slot := none, cell := none, image := none }).countOuts unsent t.record.launchid
    match t.stolenFrom with
    | some m => s.tell m ((s.route m).getD (s.firstTried m)) (.group (.cancelled t.record.launchid))
    | none => s.cancelOut t.record.launchid

/-- A fault in the frame or record of a save or restore (R295, R309): a notice of origin 2, and the context becomes
FAULTED. -/
def State.frameFault (s : State) (c : Nat) (t : Task) (cause : BitVec 8) (va : Nat) : State :=
  ((s.dmiss t.record.ctxid va 64 cause).notice t.record.ctxid cause 2 c t.record.taskid.toNat (BitVec.ofNat 64 va) (BitVec.ofNat 64 (va / 65536 * 65536))).faultContext
    t.record.ctxid 3 c

/-- A restore that does not take place: the task is SUSPENDED (fault), with its frame kept (R31, R297). -/
def State.abandonRestore (s : State) (n : Nat) (t : Task) (cause : BitVec 8) (page : Nat) : State :=
  let t := { t with state := .suspFault, cell := none, page := page, record := { t.record with skind := 1, scause := cause, sinfo := 0 } }
  (s.setTask n t).writeRecord t

/-- The record of a task as the dispatcher reads it to dispatch the task; a stolen one that has not run came with its grant
(R332). The launch is the one that counts the task. -/
def State.rereadRecord (s : State) (t : Task) : Except (BitVec 8) Record :=
  if t.stolenFrom.isSome && t.image.isNone then .ok t.record else
  match s.dread t.record.ctxid t.va 64 with
  | .error c => .error c
  | .ok bs => .ok { recordOf bs with launchid := t.record.launchid }

/-- A record may name another ACTIVE context since it was taken (R27, R30): the frame slot of the old one is released. -/
def State.changeCtx (s : State) (t : Task) (ctx : BitVec 16) : State × Task :=
  if ctx = t.record.ctxid then (s, t) else
  let k := s.context t.record.ctxid
  (s.setContext t.record.ctxid { k with slots := k.slots.filter fun x => some x ≠ t.slot }, { t with slot := none })

/-- The task `n` is DISPATCHED to cell `c` (R27, R31, R297): an invalid or unreadable record is not run, a fresh
task starts, another one is restored. The dispatcher's own image, and not the record's `SKIND`, says which it is
(DESIGN CHOICE, notes/assumptions/47). -/
def State.dispatchTo (s : State) (n c : Nat) : State :=
  match s.task n with
  | none => s
  | some t =>
    match s.rereadRecord t with
    | .error e =>
      if e = cWAIT then s.dmiss t.record.ctxid t.va 64 e else
      match t.image with
      | none => ((s.dmiss t.record.ctxid t.va 64 e).event 0x0201 .dispatcher t.record.ctxid t.va 0).dropTask n
      | some _ => (s.abandonRestore n t 0 0).frameFault c t e t.va
    | .ok r =>
      let s := s.dcame t.record.ctxid t.va
      if r.malformed ∨ (s.context r.ctxid).state ≠ .active then
        ((s.writeLast t.record.ctxid t.va r 7).event 0x0201 .dispatcher t.record.ctxid t.va 7).dropTask n
      else
        let prio := s.effective r (s.waited t)
        let (s, t) := s.changeCtx t r.ctxid
        let t := { t with record := r, wants := none }
        match t.image with
        | none => s.startFresh n t c prio
        | some i =>
          let s := s.modCell c fun x => { x with res := { i.res with
            task := some n, image := .restoring, stop := none, lastCtx := x.res.lastCtx, ctx := r.ctxid, prio := BitVec.ofNat 6 prio
            det := r.det, fenced := false, replayed := false } }
          (s.chargeVa c r.ctxid t.va 64).setTask n { t with state := .dispatched, cell := some c, dispatchedAt := s.cycle }

/-- `DISPATCH_TASK` (R31, R42, R327, R328): the first READY task in the dispatch order that a free cell suits. The
slots of the queues are taken into the pool before. Nothing is dispatched unless the module is READY (R428, R445). -/
def execDispatchTask (s : State) : Host.Outcome State Fault Refusal :=
  .next (if s.dev.halted ∨ s.dev.mstate ≠ 1 then s else
    let s := s.takeSlots s.untaken
    let l := s.disp.tasks.filter fun (_, t) => s.eligible t && !(s.cellsFor t).isEmpty
    match firstBy (fun (_, t) => s.rank true t) l with
    | none => s
    | some (n, t) =>
      match firstBy (s.cellRank t) (s.cellsFor t) with
      | none => s
      | some c => s.dispatchTo n c)

end Sys2Proof.Machine
end

