-- ==== Sys2Proof/Machine/Frame.lean ====
section
/-! DEFINITION. The capture of a stopped task and its save frame (R299, R300, R301). The regions whose layout is
private to the module are held as an `Image`; what memory holds there is free (notes/assumptions/29). -/

namespace Sys2Proof.Machine

/-! ### Capture -/

/-- An unfinished entry as it is captured and executed again (R142, R301). -/
def Unfinished.capture (u : Unfinished) : Unfinished :=
  { u with
    replayed := true, sent := false, value := none, got := [], lost := none, finish := .again, dest := 0, bound := none
    trap := match decode .s u.word 0 with
      | .instr _ => none
      | .reject _ => u.trap }

/-- The issue state of S or a wicket, captured in its replay queue. -/
def Issue.capture (i : Issue) : Issue := { pc := i.pc, replay := i.unfinished.map Unfinished.capture ++ i.replay, acquire := i.acquire }

/-- An engine's queue position: its head, from which fetch goes on (R299, R300). Commands that have performed their
steps stay in progress. -/
def Engine.capture (g : Engine) : Engine :=
  let g := match g.queue with
    | h :: _ => g.refetch h
    | [] => g
  { g with queue := [], fetchSince := none, headSince := none, waiting := false, wantsOwn := false, table := none, quiesced := false }

/-- The register a captured `YIELD` writes (R313). -/
def yieldDest (i : Instr) : Option (BitVec 5) :=
  match i with
  | .yield _ d => some d
  | .yieldLand _ d _ => some d
  | _ => none

/-- S after the `YIELD` that suspends it has finished with 0 (R313). -/
def Cell.finishYield (x : Cell) : Cell :=
  match x.s.iss.unfinished with
  | [u] =>
    match yieldDest u.instr with
    | some d => ((x.setReg (.stream .s) d.toNat 0).modIssue (.stream .s) fun i => { i with unfinished := [], wait := none }).chargeScalar
    | none => x
  | _ => x

/-- THE CAPTURE of the resident task (R301); the reduction count stands in `retiredAt` while the task is off the
machine (R228). -/
def Cell.capture (x : Cell) (p : Stop) (now : Nat) : Cell :=
  let x := if p.reason = .yield ∨ p.reason = .yieldLand then x.finishYield else x
  let count := if x.m.openTiles = 0 ∧ x.em.inprog.isEmpty ∧ x.em.nextStep = 0 then 0 else now - x.m.retiredAt
  { x with
    s := { x.s with iss := x.s.iss.capture, owed := x.s.unsent }
    ev := x.ev.capture, em := x.em.capture, ec := x.ec.capture
    m := { x.m with retiredAt := count }
    wickets := x.wickets.map fun k => { k with iss := k.iss.capture }
    res := { x.res with image := .saving } }

/-- Whether a stop saves accumulators and `MROWP` (R301). -/
def Stop.savesAcc (p : Stop) : Bool := p.reason = .fault || p.reason = .faulted

/-- The image of a captured task. -/
def Cell.image (x : Cell) (p : Stop) : Image :=
  { s := x.s, trap := x.trap, vMasks := x.v.masks, vPreds := x.v.preds, affine := x.v.affine, ev := x.ev, em := x.em, ec := x.ec
    m := x.m, sb := x.c.sb, db := x.c.db, lastLoad := x.c.lastLoad, wickets := x.wickets, res := x.res
    accv := p.savesAcc, tfv := x.trap.inTrap, landOut := x.c.landOut }

/-! ### Bytes of the frame -/

/-- Bytes written by the dispatcher at a virtual address, in pieces that lie in one page; the cause and address of
a fault. -/
def State.storeVa (s : State) (c : Nat) (ctx : BitVec 16) (fuel va : Nat) (bs : List Byte) : Except (BitVec 8 × Nat) State :=
  match fuel with
  | 0 => .ok s
  | fuel + 1 =>
    if bs.isEmpty then .ok s else
    let k := 4096 - va % 4096
    match s.dplace ctx va (min k bs.length) { wr := true }, s.dstore ctx va (bs.take k) with
    | .error e, _ => .error (e, va)
    | _, .error e => .error (e, va)
    | .ok pa, .ok s => (s.chargeBytes c pa (min k bs.length)).storeVa c ctx fuel (va + k) (bs.drop k)

/-- Bytes read by the dispatcher at a virtual address. -/
def State.loadVa (s : State) (c : Nat) (ctx : BitVec 16) (fuel va n : Nat) : Except (BitVec 8 × Nat) (State × List Byte) :=
  match fuel with
  | 0 => .ok (s, [])
  | fuel + 1 =>
    if n = 0 then .ok (s, []) else
    let k := min n (4096 - va % 4096)
    match s.dread ctx va k, s.dplace ctx va k { rd := true } with
    | .error e, _ => .error (e, va)
    | _, .error e => .error (e, va)
    | .ok bs, .ok pa =>
      match ((s.dcame ctx va).chargeBytes c pa k).loadVa c ctx fuel (va + k) (n - k) with
      | .ok (s, r) => .ok (s, bs ++ r)
      | .error e => .error e

/-- Free bytes of a private region, `8n` of them. -/
def State.freeBytes (s : State) (n : Nat) : State × List Byte :=
  match n with
  | 0 => (s, [])
  | n + 1 =>
    let (v, s) := s.takeFree
    let (s, r) := s.freeBytes n
    (s, leBytes 8 v.toNat ++ r)

/-- The bytes of lines. -/
def lineBytes (l : List Line) : List Byte := l.flatMap fun x => leBytes 256 x.toNat

/-- The 576 bytes of the trap frame, as the cell window shows it (R305). -/
def TrapUnit.bytes (t : TrapUnit) : List Byte :=
  leBytes 8 t.stat ++ leBytes 8 t.tfInfo.toNat ++ leBytes 8 t.tfSpc.toNat ++ leBytes 40 0 ++
    t.frame.flatMap fun e => (List.range 8).flatMap fun i => leBytes 8 (e.word8 (8 * i))

/-- An entry of the capture replay queue without the bytes behind its address (R299). -/
def FrameEntry.bytes48 (e : FrameEntry) : List Byte := (List.range 6).flatMap fun i => leBytes 8 (e.word8 (8 * i))

/-- Offset and bytes of each region of the frame that the specification lays out (R299). -/
def Cell.frameRegions (x : Cell) (p : Stop) (arg : DWord) (units : Nat) (tiles : List Nat) : List (Nat × List Byte) :=
  [(0, leBytes 8 arg.toNat ++ leBytes 4 units ++ leBytes 1 (bit p.savesAcc + 2 * bit x.trap.inTrap) ++ leBytes 51 0),
   (0x40, x.s.regs.flatMap fun r => leBytes 8 r.toNat)] ++
  (if x.trap.inTrap then [(0x1C0, x.trap.bytes)] else []) ++
  ((List.range x.s.iss.replay.length).map fun i => (0x400 + 64 * i, match x.s.iss.replay[i]? with | some u => (frameEntryOf u).bytes48 | none => [])) ++
  [(0xC00, lineBytes x.v.regs),
   (0x4F00, ([x.ev, x.em, x.ec].flatMap fun g => g.idx).flatMap fun w => leBytes 4 w.toNat),
   (0x4F80, x.tokens.flatMap fun k => leBytes 2 k.toNat),
   (0x5000, x.shutters.flatMap fun v => leBytes 1 v.toNat),
   (0x5180, leBytes 256 x.m.corr.toNat),
   (0x5280, leBytes 384 0),
   (0x5400, x.tensors.flatMap fun d => leBytes 64 d.toNat)] ++
  (if p.savesAcc then [(0x9400, lineBytes x.m.acc)] else []) ++
  ((List.range tiles.length).map fun i => (0x19400 + 16384 * i, x.pad.readN (tiles.getD i 0 * 16384) 16384))

/-- The private regions: offset and size in doublewords (R299). -/
def privateRegions : List (Nat × Nat) :=
  [(0x140, 16), (0x600, 192), (0x4C00, 64), (0x4E00, 32), (0x4FC0, 8), (0x5080, 32)] ++ (List.range 8).map fun i => (0x430 + 64 * i, 2)

/-- Writes regions of a frame. -/
def State.writeRegions (s : State) (c : Nat) (ctx : BitVec 16) (base : Nat) (l : List (Nat × List Byte)) : Except (BitVec 8 × Nat) State :=
  match l with
  | [] => .ok s
  | (o, bs) :: r =>
    match s.storeVa c ctx (bs.length / 4096 + 2) (base + o) bs with
    | .error e => .error e
    | .ok s => s.writeRegions c ctx base r

/-- Writes free values into the private regions. -/
def State.writePrivate (s : State) (c : Nat) (ctx : BitVec 16) (base : Nat) (l : List (Nat × Nat)) : Except (BitVec 8 × Nat) State :=
  match l with
  | [] => .ok s
  | (o, n) :: r =>
    let (s, bs) := s.freeBytes n
    match s.storeVa c ctx 2 (base + o) bs with
    | .error e => .error e
    | .ok s => s.writePrivate c ctx base r

/-! ### What a restore reads -/

/-- `n` elements of `k` bytes. -/
def elemsOf (bs : List Byte) (k n : Nat) : List Nat := (List.range n).map fun i => leNat ((bs.drop (k * i)).take k)

/-- Lines of bytes. -/
def linesOf (bs : List Byte) (n : Nat) : List Line := (elemsOf bs 256 n).map (BitVec.ofNat 2048)

/-- Places the trap-frame copy (R299, R305). -/
def TrapUnit.ofBytes (t : TrapUnit) (bs : List Byte) : TrapUnit :=
  let w := elemsOf bs 8 72
  let g := fun (i : Nat) => w.getD i 0
  { t with
    tfN := BitVec.ofNat 4 (bitsAt (g 0) 0 4), tfCe := BitVec.ofNat 4 (bitsAt (g 0) 4 4)
    pmode := bitsAt (g 0) 8 1 = 1, eskip := bitsAt (g 0) 9 1 = 1
    tfInfo := BitVec.ofNat 64 (g 1), tfSpc := BitVec.ofNat 64 (g 2)
    frame := (List.range 8).map fun i =>
      let o := 8 + 8 * i
      { word := BitVec.ofNat 32 (g o), valid := bitsAt (g o) 32 1 = 1, pc := BitVec.ofNat 64 (g (o + 1)), opa := BitVec.ofNat 64 (g (o + 2))
        opb := BitVec.ofNat 64 (g (o + 3)), opd := BitVec.ofNat 64 (g (o + 4)), ea := BitVec.ofNat 64 (g (o + 5)) } }

/-- The contents of a frame that a restore reads (R300). -/
structure FrameData where
  regs : List Byte
  trap : List Byte
  vregs : List Byte
  idx : List Byte
  tokens : List Byte
  shutters : List Byte
  corr : List Byte
  tensors : List Byte
  acc : List Byte
  tiles : List Byte
  deriving DecidableEq, Repr

/-- Reads the regions of a frame in turn. -/
def State.readRegions (s : State) (c : Nat) (ctx : BitVec 16) (base : Nat) (l : List (Nat × Nat)) :
    Except (BitVec 8 × Nat) (State × List (List Byte)) :=
  match l with
  | [] => .ok (s, [])
  | (o, n) :: r =>
    match s.loadVa c ctx (n / 4096 + 2) (base + o) n with
    | .error e => .error e
    | .ok (s, bs) =>
      match s.readRegions c ctx base r with
      | .error e => .error e
      | .ok (s, t) => .ok (s, bs :: t)

/-- Reads a frame (R300); the header and the private regions are read as well, and charged (R303). -/
def State.readFrame (s : State) (c : Nat) (ctx : BitVec 16) (base : Nat) (i : Image) (tiles : List Nat) :
    Except (BitVec 8 × Nat) (State × FrameData) :=
  match s.readRegions c ctx base
      [(0x40, 256), (0x1C0, if i.tfv then 576 else 0), (0xC00, 16384), (0x4F00, 96), (0x4F80, 64), (0x5000, 128), (0x5180, 256),
       (0x5400, 16384), (0x9400, if i.accv then 65536 else 0), (0x19400, 16384 * tiles.length)] with
  | .error e => .error e
  | .ok (s, l) =>
    let g := fun (k : Nat) => l.getD k []
    let s := ((0, 64) :: privateRegions.map fun (o, n) => (o, 8 * n)).foldl (fun (s : State) (o, n) => s.chargeVa c ctx (base + o) n) s
    .ok (s, ⟨g 0, g 1, g 2, g 3, g 4, g 5, g 6, g 7, g 8, g 9⟩)

/-- The commands an engine still has in progress count their bound afresh. -/
def Engine.resume (g : Engine) (idx : List Word) (now : Nat) : Engine :=
  { g with idx := idx, inprog := g.inprog.map fun k => { k with since := now } }

/-- The cell with an image rebuilt from its frame; S begins at the record's `SPC` (R31, R300, R341). -/
def Cell.restore (x : Cell) (i : Image) (f : FrameData) (h : BitVec 512) (spc : DWord) (now : Nat) : Cell :=
  let tiles := declaredTiles h
  let x := (x.clearTiles (x.clearedTiles i.res.ctx tiles)).enterKernel h
  let pad := (List.range tiles.length).foldl (fun (m : Memory) k => m.writeN (tiles.getD k 0 * 16384) ((f.tiles.drop (16384 * k)).take 16384)) x.pad
  let idx := (elemsOf f.idx 4 24).map (BitVec.ofNat 32)
  let shut := (elemsOf f.shutters 1 128).map (BitVec.ofNat 3)
  { x with
    pad := pad
    s := { i.s with regs := (elemsOf f.regs 8 32).map (BitVec.ofNat 64), timef := 0, iss := { i.s.iss with pc := spc } }
    trap := if i.tfv then i.trap.ofBytes f.trap else i.trap
    v := { regs := linesOf f.vregs 64, masks := i.vMasks, preds := i.vPreds, affine := i.affine }
    m := { i.m with
      acc := if i.accv then linesOf f.acc 256 else List.replicate 256 0
      openTiles := if i.accv then i.m.openTiles else 0
      corr := BitVec.ofNat 2048 (leNat f.corr), retiredAt := now - i.m.retiredAt, injectSince := now
      statPairs := x.m.statPairs, statQfull := x.m.statQfull, statLevee := x.m.statLevee, statIdle := x.m.statIdle, statSplit := x.m.statSplit }
    c := { x.c with sb := i.sb, db := i.db, lastLoad := i.lastLoad, landOut := i.landOut }
    ev := i.ev.resume (idx.take 8) now, em := i.em.resume ((idx.drop 8).take 8) now, ec := i.ec.resume (idx.drop 16) now
    tokens := (elemsOf f.tokens 2 32).map (BitVec.ofNat 16)
    shutters := (List.range 128).map fun t => if tiles.contains t then shut.getD t 0 else codeFree
    tensors := (elemsOf f.tensors 64 256).map (BitVec.ofNat 512)
    wickets := i.wickets.map fun k => { k with timef := 0 }
    pageRegs := List.replicate 7 (none, none)
    res := { x.res with image := .active } }

end Sys2Proof.Machine
end

