-- ==== Sys2Proof/Machine/EventsTask.lean ====
section
/-! DEFINITION. The events of a task on its cell: restore, stop, save, retirement and pre-emption (R31, R32, R279,
R297 to R302, R329, R330). -/

namespace Sys2Proof.Machine

/-! ### Restore -/

/-- Replays the loads of the banks from number `k` on (R279): a bank whose load meets a fault stays invalid; the
address of a NOTPRESENT ends the replay. -/
def State.replayBanks (s : State) (w : Who) (k : Nat) (l : List (Option CbLoad)) : State × Option Nat :=
  match l with
  | [] => (s, none)
  | none :: r => s.replayBanks w (k + 1) r
  | some b :: r =>
    let d := descOf b.desc
    if !d.bookOk b.count then s.replayBanks w (k + 1) r else
    match s.loadBook w k d b.first b.count with
    | .ok (s, _) => s.replayBanks w (k + 1) r
    | .trap t => if t.cause = cNOTPRESENT then (s, some t.info.toNat) else s.replayBanks w (k + 1) r
    | .stall => s.replayBanks w (k + 1) r

/-- The cell of a task that leaves it with its image kept: packets stay in the landing buffer (R299, R410). -/
def Cell.leave (x : Cell) : Cell :=
  { x with
    s := { x.s with packet := none, iss := {}, owed := 0 }
    wickets := x.wickets.map fun k => { k with running := false, packet := none, iss := {} }
    res := { x.res with task := none, image := .none, stop := none, lastCtx := x.res.ctx } }

/-- A cell whose restore is abandoned. -/
def Cell.abandon (x : Cell) : Cell := { x with res := { x.res with task := none, image := .none, stop := none } }

/-- The resident task is being cancelled. -/
def Cell.cancelled (x : Cell) : Bool := x.res.stop.any fun p => p.reason = .cancel

/-- `CODEBOOK_REPLAY` (R279, R297): NOTPRESENT abandons the restore, with a notice (R385). -/
def execCodebookReplay (cell : Nat) (s : State) : Host.Outcome State Fault Refusal :=
  let x := s.cell cell
  .next (if x.res.image ≠ .restoring ∨ x.res.replayed then s else
    match x.res.task with
    | none => s
    | some n =>
      match s.task n with
      | none => s
      | some t =>
        match t.image with
        | none => s
        | some i =>
          let s := s.modCell cell fun x => { x with c := { x.c with banks := x.c.banks.map fun e => (e.1, false) } }
          match s.replayBanks { cell := cell, ag := .stream .c, ctx := t.record.ctxid, super := i.s.super } 0 i.lastLoad with
          | (s, none) => s.modCell cell fun x => { x with res := { x.res with replayed := true } }
          | (s, some va) =>
            let page := va / 65536 * 65536
            let t := { t with image := some { i with res := { i.res with energy := x.res.energy, esat := x.res.esat, ea := x.res.ea, rc := x.res.rc } } }
            let s := s.modCell cell Cell.abandon
            let s := (s.abandonRestore n t cNOTPRESENT page).notice t.record.ctxid cNOTPRESENT 3 cell t.record.taskid.toNat (BitVec.ofNat 64 va) (BitVec.ofNat 64 page)
            if x.cancelled || t.cancelReq then s.finishTask n true else s)

/-- `RESTORE_COMPLETE` (R297, R300): the image becomes ACTIVE, the task RUNNING. A fault in the frame leaves the task
suspended and makes its context FAULTED (R295, notes/assumptions/30). -/
def execRestoreComplete (cell : Nat) (s : State) : Host.Outcome State Fault Refusal :=
  let x := s.cell cell
  .next (if x.res.image ≠ .restoring then s else
    match x.res.task with
    | none => s
    | some n =>
      match s.task n with
      | none => s
      | some t =>
        match t.image with
        | none => s
        | some i =>
          if !x.res.replayed && i.lastLoad.any Option.isSome then s else
          let (_, h) := s.taskKernel t
          match s.readFrame cell t.record.ctxid t.record.frame.toNat i (declaredTiles h) with
          | .error (e, va) =>
            if e = cWAIT then s.dmiss t.record.ctxid va 1 e else
            let s := ((s.modCell cell Cell.abandon).abandonRestore n t 0 0).frameFault cell t e va
            if x.cancelled || t.cancelReq then s.finishTask n true else s
          | .ok (s, f) =>
            let s := if i.lastLoad.any Option.isSome then s else s.modCell cell fun x => { x with c := { x.c with banks := x.c.banks.map fun e => (e.1, false) } }
            let s := s.clearErrors cell ((s.cell cell).clearedTiles t.record.ctxid (declaredTiles h) ++ declaredTiles h)
            let s := s.modCell cell fun x => x.restore i f h t.record.spc s.cycle
            let s := s.setTask n { t with state := .running, image := none }
            -- a cancel or a FAULTED context during the restore acts now (R302)
            if t.cancelReq then s.beginStop cell .cancel 0 0 0
            else if (s.context t.record.ctxid).state = .faulted then s.beginStop cell .faulted 0 0 0 else s)

/-! ### Stop -/

/-- A stop that the debugger does not hold back: a cancel goes on (R432). -/
def Cell.mayStop (x : Cell) (p : Stop) : Bool := x.res.image = .active && (p.reason = .cancel || !x.dbg.holds)

/-- `M_QUIESCE_STOP` (R227, R258, R301): for a pre-emption or a `YIELD` at an accumulator retirement, else at the
next fault point, with `MROWP` set when a command is to resume. -/
def execMQuiesceStop (cell : Nat) (s : State) : Host.Outcome State Fault Refusal :=
  let x := s.cell cell
  .next (match x.res.stop with
    | none => s
    | some p =>
      let wantsRetirement := p.reason = .preempt ∨ p.reason = .yield ∨ p.reason = .yieldLand
      if p.mDone || !x.mayStop p || !x.em.inprog.isEmpty then s
      else if wantsRetirement ∧ (x.m.openTiles ≠ 0 ∨ x.em.nextStep ≠ 0) then s
      else
        let m := if x.em.nextStep ≠ 0 then { x.m with rowNext := BitVec.ofNat 24 x.em.nextStep, rowValid := true } else x.m
        s.setCell cell { x with m := m, em := { x.em with quiesced := true }, res := { x.res with stop := some { p with mDone := true } } })

/-- `TASK_STOP` (R301): once M has stopped, V and C stop, and S and the wickets are captured. -/
def execTaskStop (cell : Nat) (s : State) : Host.Outcome State Fault Refusal :=
  let x := s.cell cell
  .next (match x.res.stop with
    | none => s
    | some p =>
      if !p.mDone || !x.mayStop p then s
      else s.setCell cell { x with ev := { x.ev with quiesced := true }, ec := { x.ec with quiesced := true } })

/-- The agents of a cell. -/
def agentsOf : List Agent := [.stream .s, .stream .v, .stream .m, .stream .c, .wicket 0, .wicket 1, .wicket 2]

/-- The accesses outside the replay queues are complete and performed at DIE scope (R301). -/
def State.accessesDone (s : State) (c : Nat) : Bool :=
  let x := s.cell c
  !x.s.iss.unfinished.any (·.sent) && !(x.wickets.any fun k => k.iss.unfinished.any fun u => u.sent) &&
  agentsOf.all fun ag => s.performedDie (c, ag)

/-- The save that a pre-emption on cell `c` asked for is over: nothing is outstanding on behalf of another task (R329). -/
def State.clearWants (s : State) (c : Nat) : State :=
  { s with disp := { s.disp with
      tasks := s.disp.tasks.map fun (j, (k : Task)) => (j, if k.wants = some c then { k with wants := none } else k)
      queues := s.disp.queues.map fun (q, (x : RQueue)) =>
        (q, { x with puts := x.puts.map fun (p : SlotPut) => if p.wants = some c then { p with wants := none } else p }) } }

/-- `TASK_STOPPED` (R31, R301): the image enters SAVING, or a cancelled task ends without a save; it clears a debug
stop (R432). -/
def execTaskStopped (cell : Nat) (s : State) : Host.Outcome State Fault Refusal :=
  let x := s.cell cell
  .next (match x.res.stop, x.res.task with
    | some p, some n =>
      if !p.mDone || !x.mayStop p || !x.ev.quiesced || !x.ec.quiesced || !s.accessesDone cell then s
      else if p.reason = .cancel then ((s.modCell cell fun x => x.resume s.cycle).clearWants cell).finishTask n true
      else s.setCell cell (x.capture p s.cycle)
    | _, _ => s)

/-! ### Save -/

/-- Suspension kind and cause of a stop (R26, R31). -/
def Stop.kind (p : Stop) : BitVec 8 × BitVec 8 :=
  match p.reason with
  | .fault => (1, p.cause)
  | .faulted => (1, 0)
  | .yield => (2, 0)
  | .yieldLand => (3, 0)
  | .preempt => (4, 0)
  | .cancel => (6, 0)

/-- The state of a task whose save is complete, before it may become READY. -/
def Stop.suspended (p : Stop) : TaskState :=
  match p.reason with
  | .fault | .faulted => .suspFault
  | .yieldLand => .suspLand
  | .yield => .suspYield
  | _ => .suspPreempt

/-- Poison of saved tiles goes with their bytes (R423). -/
def State.carryPoison (s : State) (c : Nat) (ctx : BitVec 16) (base : Nat) (tiles : List Nat) : State :=
  let bad := s.mem.poison ++ s.mem.uncorr.filterMap fun x => (siteSpan x).map Prod.fst
  (List.range tiles.length).foldl (fun (s : State) k =>
    let t := padPa c (tiles.getD k 0 * 16384)
    (bad.filter fun b => t ≤ b && b < t + 16384).foldl (fun (s : State) b =>
      match s.dplace ctx (base + 0x19400 + 16384 * k + (b - t)) 1 { wr := true } with
      | .ok pa => { s with mem := s.mem.mark [pa / granule pa * granule pa] }
      | .error _ => s) s) s

/-- After a save: the task waits or returns to READY (R31, R32, R385). -/
def State.afterSave (s : State) (n : Nat) (p : Stop) : State :=
  match s.task n with
  | none => s
  | some t =>
    if t.cancelReq then s.finishTask n true else
    match p.reason with
    | .fault => if t.woken then s.makeReady n else s
    | .faulted => if (s.context t.record.ctxid).state = .active then s.makeReady n else s
    | .yieldLand => s
    | _ => s.makeReady n

/-- The record of a captured task with its streams' program counters: S goes on at `SPC`, and an engine stream that has been
started is fetched again from its head (R25, R31, R300). -/
def Cell.savedPcs (x : Cell) (r : Record) : Record :=
  { r with
    spc := x.s.iss.pc, vpc := if x.ev.started then x.ev.fpc else r.vpc
    mpc := if x.em.started then x.em.fpc else r.mpc, cpc := if x.ec.started then x.ec.fpc else r.cpc }

/-- `SAVE_COMPLETE` (R297 to R301): the frame and the record are written. A fault in either makes the context
FAULTED, and the task, which cannot be kept, is cancelled (R295, notes/assumptions/30). -/
def execSaveComplete (cell : Nat) (s : State) : Host.Outcome State Fault Refusal :=
  let x := s.cell cell
  .next (match x.res.image, x.res.stop, x.res.task with
    | .saving, some p, some n =>
      match s.task n with
      | none => s
      | some t =>
        let k := s.context t.record.ctxid
        let base := k.fpool + (t.slot.getD 0) * k.fsize * 65536
        let (_, h) := s.taskKernel t
        let tiles := declaredTiles h
        let lost := fun (s : State) (e : BitVec 8) (va : Nat) =>
          ((s.groupErr t.record.launchid).frameFault cell t e va).finishTask n true
        match s.writeRegions cell t.record.ctxid base (x.frameRegions p t.argBlock (frameUnits h) tiles) with
        | .error (e, va) => lost s e va
        | .ok s =>
          match s.writePrivate cell t.record.ctxid base privateRegions with
          | .error (e, va) => lost s e va
          | .ok s =>
            let s := s.carryPoison cell t.record.ctxid base tiles
            let (kind, cause) := p.kind
            let r := { (x.savedPcs t.record) with frame := BitVec.ofNat 64 base, skind := kind, scause := cause
                                                  sinfo := if p.reason = .yieldLand then p.tag else 0 }
            match (s.chargeVa cell t.record.ctxid t.va 64).dstore t.record.ctxid t.va r.bytes with
            | .error e => lost s e t.va
            | .ok s =>
              let i := (s.cell cell).image p
              let s := s.setTask n { t with record := r, state := p.suspended, cell := none, page := p.page, image := some i, order := s.cycle }
              ((s.modCell cell Cell.leave).clearWants cell).afterSave n p
    | _, _, _ => s)

/-! ### Retirement -/

/-- `TASK_RETIRE` (R31, R355): every access of the task is complete and performed at PACKAGE scope. -/
def execTaskRetire (cell : Nat) (s : State) : Host.Outcome State Fault Refusal :=
  let x := s.cell cell
  .next (match x.res.task with
    | none => s
    | some n =>
      if x.res.image ≠ .active ∨ !x.s.ended ∨ !x.enginesEnded ∨ !x.s.iss.unfinished.isEmpty ∨
          !(engines.all fun st => (x.engine st).inprog.isEmpty) ∨ !(agentsOf.all fun ag => s.performedAll (cell, ag)) then s
      else s.finishTask n false)

/-! ### Pre-emption -/

/-- The cells whose task a pre-emption may stop, with their tasks (R329). -/
def State.stoppable (s : State) : List (Nat × Task) :=
  (List.range Config.cells).filterMap fun c =>
    let x := s.cell c
    match x.res.task.bind s.task with
    | some t => if x.res.image = .active ∧ !x.s.ended ∧ !s.slotless c then some (c, t) else none
    | none => none

/-- The READY tasks without an outstanding request: those of the pool, and those in untaken slots by queue and place. -/
def State.preempting (s : State) : List (Task × (Nat ⊕ (Nat × Nat))) :=
  (s.disp.tasks.filterMap fun (n, t) => if s.eligible t && t.wants.isNone then some (t, .inl n) else none) ++
  s.disp.queues.flatMap fun (q, x) =>
    if !(x.state = qOPEN || x.state = qDRAINING) then [] else
    (List.range x.puts.length).filterMap fun i => match x.puts[i]? with
      | some p => let t := x.slotTask q p
        if s.eligible t && t.wants.isNone then some (t, .inr (q, i)) else none
      | none => none

/-- Marks a pre-emption on cell `c` as outstanding on behalf of a READY task (R329). -/
def State.wantsCell (s : State) (who : Nat ⊕ (Nat × Nat)) (c : Nat) : State :=
  match who with
  | .inl n => (match s.task n with
    | some t => s.setTask n { t with wants := some c }
    | none => s)
  | .inr (q, i) => { s with disp := { s.disp with queues := s.disp.queues.map fun (k, (x : RQueue)) =>
      (k, if k = q then { x with puts := modAt x.puts i fun p => { p with wants := some c } } else x) } }

/-- `PREEMPT_EVAL` (R329): when a task has entered READY, and every 1,024 cycles: on behalf of the first READY task without
an outstanding request, when no cell is free. -/
def execPreemptEval (s : State) : Host.Outcome State Fault Refusal :=
  let due := s.timers.preempt + 1024 ≤ s.cycle
  .next (if (!s.disp.entered ∧ !due) ∨ s.dev.halted then s else
    let s := { s with disp := { s.disp with entered := false }, timers := { s.timers with preempt := if due then s.cycle else s.timers.preempt } }
    if !s.freeCells.isEmpty then s else
    match firstBy (fun (t, _) => s.rank false t) s.preempting with
    | none => s
    | some (t, who) =>
      let p := s.effective t.record (s.waited t)
      let target := fun (c : Nat) (k : Task) =>
        if k.record.weir then decide (1 ≤ p)
        else s.disp.preemptDelta ≠ 0 && decide ((s.cell c).res.prio.toNat + s.disp.preemptDelta.toNat ≤ p)
      match firstBy (fun (c, k) => [64 - (s.cell c).res.prio.toNat, k.dispatchedAt, c]) (s.stoppable.filter fun (c, k) => target c k) with
      | none => s
      | some (c, _) => (s.beginStop c .preempt 0 0 0).wantsCell who c)

/-- A pre-emption request on the weir task dispatched most recently (R330). -/
def State.preemptWeir (s : State) : State :=
  match firstBy (fun (c, k) => [k.dispatchedAt, c]) (s.stoppable.filter fun (_, k) => k.record.weir) with
  | none => s
  | some (c, _) => s.beginStop c .preempt 0 0 0

/-- `WEIR_SAMPLE` (R330, R456, R457), every 30,000 cycles, with the power measured over them; a hot die or stack counts as power at the setpoint. -/
def execWeirSample (p : BitVec 12) (s : State) : Host.Outcome State Fault Refusal :=
  .next (if s.cycle < s.timers.weir + 30000 then s else
    let s := { s with timers := { s.timers with weir := s.cycle }, dev := { s.dev with pwr := p } }
    let p := s.dev.pwr.toNat
    let sp := s.dev.weirSp.toNat
    let set := fun (b : Bool) => { s with disp := { s.disp with weirRel := b } }
    if sp ≤ p ∨ s.dev.tpoint.any (fun t => 2 ≤ t.toNat) ∨ s.dev.rfx.any (· = 3) then (set false).preemptWeir
    else if !s.disp.weirRel ∧ p + s.dev.weirHys.toNat < sp then set true else s)

end Sys2Proof.Machine
end

