-- ==== Sys2Proof/Machine/EventsFabric.lean ====
section
/-! DEFINITION. The events of the fabric: stealing (R331, R332), groups of other modules (R348 to R357), landing
packets and wickets (R40, R41, R409 to R411), peer stores, losses and collectives (R92, R104, R281, R406, R413). -/

namespace Sys2Proof.Machine

/-! ### Stealing -/

/-- Occupancy (R331): READY ordinary tasks, untaken slots included. -/
def State.occupancyOf (s : State) : Nat :=
  let pool := (s.disp.tasks.filter fun (_, t) => t.state = .ready && t.stolenTo.isNone && !t.record.weir).length
  let slots := (s.disp.queues.map fun (_, x) => if (x.state = qOPEN ∨ x.state = qDRAINING) ∧ x.level ≠ 0 then (x.put - x.take).toNat else 0).foldl (· + ·) 0
  min (pool + slots) (2 ^ 32 - 1)

/-- The live port whose neighbour has the most above `HIGH_MARK`, the first in the port order among equals (R331). -/
def State.stealFrom (s : State) : Option Nat :=
  let excess := fun (p : Nat) => (s.disp.occupancy.getD p 0).toNat - s.disp.highMark.toNat
  ((List.range 6).filter fun p => excess p ≠ 0 && (s.link.ports.getD p {}).live && s.neighbour p ≠ s.moduleNumber).foldl
    (fun best p => match best with
      | some q => if excess q < excess p then some p else some q
      | none => some p) none

/-- `OCCUPANCY_PUBLISH` (R331), every 3,000 cycles: the module's own occupancy goes to its six neighbours, and theirs comes;
then at most one request. -/
def execOccupancyPublish (nbr : List (BitVec 32)) (s : State) : Host.Outcome State Fault Refusal :=
  .next (if s.cycle < s.timers.occupancy + 3000 then s else
    let occ := (List.range 6).map fun p => if (s.link.ports.getD p {}).live then nbr.getD p 0 else s.disp.occupancy.getD p 0
    let s := { s with timers := { s.timers with occupancy := s.cycle }, disp := { s.disp with occupancy := occ, published := BitVec.ofNat 32 s.occupancyOf } }
    if !s.disp.stealEn ∨ s.disp.lowMark.toNat ≤ s.occupancyOf ∨ s.disp.stealPort.isSome then s else
    match s.stealFrom with
    | none => s
    | some p => ({ s with disp := { s.disp with stealPort := some p } } : State).tell (s.neighbour p) p .stealRequest)

/-- The element whose rank comes last. -/
def lastBy {α : Type} (rank : α → List Nat) (l : List α) : Option α :=
  l.foldl (fun worst a => match worst with
    | none => some a
    | some b => if rankBefore (rank b) (rank a) then some a else some b) none

/-- A task that may be granted (R332). -/
def Task.grantable (t : Task) : Bool :=
  t.state = .ready && t.stolenTo.isNone && t.record.stealable && t.record.skind = 0 && !t.wasStolen

/-- Takes up to `n` tasks from the end of the dispatch order for module `m` (R332); each stays out of the pool until
the thief has acknowledged it. -/
def State.grantTasks (s : State) (m n : Nat) : State × List StolenRecord :=
  match n with
  | 0 => (s, [])
  | n + 1 =>
    match lastBy (fun (_, t) => s.rank true t) (s.disp.tasks.filter fun (_, t) => t.grantable) with
    | none => (s, [])
    | some (k, t) =>
      let (khdr, h) := s.taskKernel t
      let (s, l) := (s.setTask k { t with stolenTo := some m, granted := true, wasStolen := true }).grantTasks m n
      (s, ⟨t.va, t.record.bytes, khdr, h⟩ :: l)

/-- `STEAL_REQUEST` (R332): a neighbour's request arrives on a port. -/
def execStealRequest (port : Nat) (s : State) : Host.Outcome State Fault Refusal :=
  .next (if !(s.link.ports.getD port {}).live then s else
    let n := min s.disp.stealMax.toNat (s.occupancyOf - s.disp.highMark.toNat)
    let (s, l) := s.grantTasks (s.neighbour port) n
    s.tell (s.neighbour port) port (.steal l))

/-- One stolen task arrives: it enters the pool with no wait time, or goes back when the thief has no ACTIVE context
for it (R332). -/
def State.acceptStolen (s : State) (m port : Nat) (r : StolenRecord) : State :=
  let rec_ := recordOf r.bytes
  if (s.context rec_.ctxid).state ≠ .active then s.tell m port (.stealReturn r.va) else
  let n := s.disp.nextTask
  let t : Task := { record := rec_, va := r.va, state := .ready, argBlock := rec_.frame, stolenFrom := some m, wasStolen := true
                    order := n, kernel := some (r.khdr, r.header) }
  (((({ s with disp := { s.disp with nextTask := n + 1 } } : State).setTask n t).makeReady n)).tell m port (.stealAck r.va)

/-- `STEAL_GRANT` (R332): the answer to this module's request. -/
def execStealGrant (port : Nat) (recs : List StolenRecord) (s : State) : Host.Outcome State Fault Refusal :=
  .next (if s.disp.stealPort ≠ some port then s else
    let s := { s with
      disp := { s.disp with stealPort := none }
      link := { s.link with out := s.link.out.filter fun p => p.payload ≠ .stealRequest } }
    recs.foldl (fun s r => s.acceptStolen (s.neighbour port) port r) s)

/-- Grants whose every task has been answered for are acknowledged. -/
def State.dropGrants (s : State) : State :=
  let open_ := fun (r : StolenRecord) => s.disp.tasks.any fun (_, t) => t.granted && t.va = r.va
  { s with link := { s.link with out := s.link.out.filter fun p => match p.payload with
      | .steal l => l.any open_
      | _ => true } }

/-- The granted task of a record address. -/
def State.grantedTask (s : State) (rec : Nat) : Option (Nat × Task) := s.disp.tasks.find? fun (_, t) => t.granted && t.va = rec

/-- `STEAL_ACK` (R332): the task belongs to the thief, which is asked to cancel it when a cancel has come meanwhile. -/
def execStealAck (rec : Nat) (s : State) : Host.Outcome State Fault Refusal :=
  .next (match s.grantedTask rec with
    | none => s
    | some (n, t) =>
      let s := (s.setTask n { t with granted := false, state := .dispatched }).dropGrants
      match t.cancelReq, t.stolenTo with
      | true, some m => s.cancelAt m t.record.launchid t.record.ctxid
      | _, _ => s)

/-- A task comes back to the victim's pool with its wait time intact (R332); a cancel that has come meanwhile reaches it now. -/
def State.takeBack (s : State) (n : Nat) (t : Task) : State :=
  let s := s.setTask n { t with granted := false, stolenTo := none, wasStolen := false, state := .ready }
  let s := { s with disp := { s.disp with entered := true } }
  if t.cancelReq then s.cancelTask n else s

/-- `STOLEN_TASK_RETURN` (R332). -/
def execStolenTaskReturn (rec : Nat) (s : State) : Host.Outcome State Fault Refusal :=
  .next (match s.grantedTask rec with
    | none => s
    | some (n, t) => (s.takeBack n t).dropGrants)

/-! ### Groups of other modules -/

/-- A task that a thief had is over: it leaves the tables and is counted out of its launch (R332). -/
def State.stolenOver (s : State) (launch : BitVec 32) (cancelled : Bool) : State :=
  let mine := s.disp.tasks.find? fun (_, t) => t.stolenTo.isSome && !t.granted && t.record.launchid = launch
  match mine with
  | none => s
  | some (n, _) =>
    let s : State := { s with disp := { s.disp with tasks := drop s.disp.tasks n } }
    if cancelled then s.cancelOut launch else s.countOut 5 launch

/-- Cancels what this module holds of a launch of another one: its tasks, stolen or put here, are cancelled, and its
untaken slots are written off (R332, R352, R354). -/
def State.cancelFar (s : State) (launch : BitVec 32) (ctx : BitVec 16) : State :=
  let hit := fun (x : RQueue) (p : SlotPut) => x.ctx = ctx && p.launch = launch && !p.gone
  let n := (s.disp.queues.map fun (_, (x : RQueue)) => (x.puts.filter (hit x)).length).sum
  let s := { s with disp := { s.disp with queues := s.disp.queues.map fun (q, (x : RQueue)) =>
    (q, { x with puts := x.puts.map fun p => if hit x p then { p with gone := true } else p }) } }
  let s := ((s.disp.tasks.filter fun (_, t) => t.record.launchid = launch && t.record.ctxid = ctx && t.state ≠ .retired &&
    t.state ≠ .cancelled).map Prod.fst).foldl State.cancelTask s
  s.countOuts n launch

/-- A group of another module with a parent here is terminal (R350 to R352, R357). -/
def State.childOver (s : State) (parent gid : BitVec 32) (err : Bool) : State :=
  match s.group parent with
  | none => s
  | some p =>
    let p := { p with err := p.err || err, nodes := p.nodes.map fun (n, k) =>
      (n, if k.launch ≠ gid then k else if err then { k with launch := 0 } else { k with complete := true }) }
    (((s.setGroup (gidSlot parent) p).countOut 5 parent).unhold parent).sendGroup gid (.countedOut gid)

/-- A launch of another module enters CANCELLING: its graph gets `ERR`, and its successors are cancelled (R351, R357). -/
def State.childCancelled (s : State) (parent gid : BitVec 32) : State :=
  match s.group parent with
  | none => s
  | some g =>
    let s := s.groupErr parent
    let next := g.edges.filterMap fun (a, b) => if (look g.nodes a).any (fun (k : GNode) => k.launch = gid) then look g.nodes b else none
    next.foldl (fun (s : State) (k : GNode) =>
      if k.launch = 0 ∨ k.complete then s
      else if s.homed k.launch then (if (s.groupAt (gidSlot k.launch)).terminal then s else s.cancelGroup k.launch)
      else s.sendGroup k.launch (.cancel k.launch g.ctx)) s

/-- A group of another module asks to join a parent here under the number `n` (R353, R357): 1 accepted, 2 accepted and
held, or 2^63 and a status of R360. -/
def State.joinRemote (s : State) (parent : BitVec 32) (level : Nat) (ctx : BitVec 16) (n : Nat) : DWord × State :=
  let st := s.joinStatus parent level ctx n
  match s.group parent with
  | none => (refused 1, s)
  | some g =>
    if st ≠ 0 then (refused st, s) else
    let held := level = 1 && g.holds n
    let was := if g.count = 0 then g.state else gDRAINED
    let s := s.setGroup (gidSlot parent) { g with nodes := store g.nodes n { launch := 0, held := held, was := was } }
    (if held then 2 else 1, s.countIn parent)

/-- The group that joined under the number `n` has its id: a hold that has ended and a cancel that has come meanwhile
reach it now (R352, R357). -/
def State.joinedRemote (s : State) (parent gid : BitVec 32) (n : Nat) : State :=
  match s.group parent with
  | none => s
  | some g =>
    match look g.nodes n with
    | none => s
    | some k =>
      let place := if g.level = 1 then n else 2 ^ 40 + gid.toNat
      let s := s.setGroup (gidSlot parent) { g with nodes := store (drop g.nodes n) place { k with launch := gid } }
      if g.state = gCANCELLING then s.sendGroup gid (.cancel gid g.ctx)
      else if k.held ∨ g.level ≠ 1 then s else s.sendGroup gid (.release gid)

/-- A group that joined under the number `n` is not created after all: its parent is as before (R346). -/
def State.leftRemote (s : State) (parent : BitVec 32) (n : Nat) : State :=
  match s.group parent with
  | none => s
  | some g =>
    match look g.nodes n with
    | none => s
    | some k =>
      let g := { g with nodes := drop g.nodes n }
      if g.count = 1 ∧ g.state = gOPEN then s.setGroup (gidSlot parent) { g with count := 0, state := k.was }
      else (s.setGroup (gidSlot parent) g).countOut 5 parent

/-- Counts a member of a launch that module `src` holds in or out (R351, R354). -/
def State.afar (s : State) (g : BitVec 32) (src : Nat) (out : Bool) : State :=
  match s.group g with
  | none => s
  | some x =>
    let n := (look x.afar src).getD 0
    s.setGroup (gidSlot g) { x with afar := if out then (if n ≤ 1 then drop x.afar src else store x.afar src (n - 1)) else store x.afar src (n + 1) }

/-- A task is put on module `src` into a launch here (R335, R353). -/
def State.admitRemote (s : State) (src cell : Nat) (launch : BitVec 32) : State :=
  let say := fun (s : State) (v : DWord) (khdr : Nat) (h : BitVec 512) =>
    s.tell src ((s.route src).getD (s.firstTried src)) (.group (.admitted cell v khdr h))
  match s.group launch with
  | none => say s 0 0 0
  | some g =>
    if g.level = 0 ∧ g.accepts ∧ !g.full then say ((s.countIn launch).afar launch src false) (if g.held then 2 else 1) g.bval.toNat g.header
    else say s 0 0 0

/-- Answers a form of a cell of another module; a dispatcher's own message has no answer. -/
def State.answer (s : State) (src cell : Nat) (r : DWord × State) : State :=
  if cell < Config.cells then r.2.tell src ((s.route src).getD (s.firstTried src)) (.reply cell r.1) else r.2

/-- A WAIT of another module: it is answered when the group is terminal (R360). -/
def State.waitGroup (s : State) (src cell : Nat) (gid : BitVec 32) (ctx : BitVec 16) : State :=
  match s.group gid with
  | none => s.answer src cell (refused 1, s)
  | some g =>
    if g.ctx ≠ ctx then s.answer src cell (refused 3, s)
    else if g.terminal then s.answer src cell (s.queryGroup gid (some ctx) false)
    else s.setGroup (gidSlot gid) { g with waiters := g.waiters ++ [(src, cell)] }

/-- The agent of a cell whose form waits for another module's answer. -/
def Cell.asking (x : Cell) : Option Agent :=
  ([.stream .s, .wicket 0, .wicket 1, .wicket 2] : List Agent).find? fun ag =>
    (x.issue ag).wait.isSome && (x.issue ag).unfinished.getLast?.any fun u => u.sent && u.value.isNone &&
      (match u.instr with | .gctlClose .. | .gctlWait .. | .gctlCancel .. | .gctlQuery .. | .gctlOpen .. | .launch .. | .qput .. => true | _ => false)

/-- The value goes to the form of a cell that waits for another module's answer, with bytes behind what it has read; its
question is answered. -/
def State.giveAnswer (s : State) (cell : Nat) (v : DWord) (bs : List Byte) : State :=
  match (s.cell cell).asking with
  | none => s
  | some ag =>
    let s := s.modIssue cell ag fun i => match i.unfinished.getLast? with
      | some u => i.setLast { u with value := some v, got := u.got ++ bs }
      | none => i
    { s with link := { s.link with out := s.link.out.filter fun p =>
        !((p.cell, p.agent) = (cell, ag) && (match p.payload with | .group _ => true | _ => false)) } }

/-- A launch's home answers to a put on this module (R335, R353): a cell's `QPUT`, or the host's PUT, which ends now. -/
def State.admitted (s : State) (cell : Nat) (v : DWord) (khdr : Nat) (h : BitVec 512) : State :=
  let kernel := leBytes 8 khdr ++ leBytes 64 h.toNat
  if cell < Config.cells then s.giveAnswer cell v kernel else
  match s.disp.farPut with
  | none => s
  | some (q, va, bs) =>
    let r := recordOf bs
    let s := { s with
      disp := { s.disp with farPut := none, qbusy := false }
      link := { s.link with out := s.link.out.filter fun p => p.payload ≠ Payload.group (.enlist r.launchid) || decide (p.cell < Config.cells) } }
    let (st, s) := if v = 0 then (if s.putStatus q r none = 0 then 4 else s.putStatus q r none, s)
      else s.put q va r none (farPutOf r.launchid v kernel)
    { s with disp := { s.disp with qresult := BitVec.ofNat 3 st } }

/-- `REMOTE_GROUP_MESSAGE` (R348): from cell `cell` of module `src`, or from its dispatcher. -/
def execRemoteGroupMessage (src cell : Nat) (msg : GroupMsg) (s : State) : Host.Outcome State Fault Refusal :=
  .next (match msg with
    | .retired l => s.stolenOver l false
    | .cancelled l => s.stolenOver l true
    | .memberAdded g => if s.homed g && !(s.group g).any Group.full then (s.countIn g).afar g src false else s
    | .memberGone g => if s.homed g then (s.afar g src true).countOut 5 g else s
    | .err g => if s.homed g then s.groupErr g else s
    | .childTerminal p g e => s.childOver p g e
    | .childCancelling p g => s.childCancelled p g
    | .countedOut g => (match s.group g with
        | some x => if x.terminal then s.setGroup (gidSlot g) { x with state := gFREE } else s
        | none => s)
    | .release g => if (s.group g).isSome then s.releaseLaunch g else s.wakeLaunch g
    | .join p level ctx n => s.answer src cell (s.joinRemote p level ctx n)
    | .joined p g n => s.joinedRemote p g n
    | .leave p n => s.leftRemote p n
    | .enlist g => s.admitRemote src cell g
    | .admitted cell v khdr h => s.admitted cell v khdr h
    | .close g ctx b v => s.answer src cell (s.closeGroup g (some ctx) b v)
    | .wait g ctx => s.waitGroup src cell g ctx
    | .cancel g ctx => if s.homed g then s.answer src cell (s.cancelOp g (some ctx)) else s.cancelFar g ctx
    | .query g ctx p => s.answer src cell (s.queryGroup g (some ctx) p))

/-- `REMOTE_GROUP_REPLY` (R348): the value goes to the form that waits, which then finishes. -/
def execRemoteGroupReply (cell : Nat) (v : DWord) (s : State) : Host.Outcome State Fault Refusal := .next (s.giveAnswer cell v [])

/-! ### Landing packets -/

/-- Loopback packets to a cell that have a slot of its buffer and have not arrived. -/
def State.loopLandings (s : State) (cell : Nat) : Nat :=
  (s.link.out.filter fun p => p.dst = s.moduleNumber && !p.applied && (match p.payload with | .landing k _ => k = cell | _ => false)).length

/-- Free slots of a landing buffer. -/
def Cell.landingRoom (x : Cell) : Nat := (x.landing.filter Option.isNone).length

/-- Discards a packet with its event (R410, R425, R427). -/
def State.discardPacket (s : State) (c k : Nat) : State :=
  match (s.cell c).landing.getD k none with
  | none => s
  | some l => (s.modCell c fun x => x.freeSlot (some k)).event 0x0206 (.cell c) l.packet.ctx l.packet.handler.toNat l.packet.sender.toNat

/-- Puts a packet into the first free slot, behind those that have arrived. -/
def Cell.placePacket (x : Cell) (p : Packet) : Cell :=
  match x.landing.findIdx? Option.isNone with
  | none => x
  | some k =>
    let next := x.landing.foldl (fun n l => match l with | some y => max n (y.order + 1) | none => n) 0
    { x with landing := x.landing.set k (some { packet := p, order := next }) }

/-- `LANDING_ARRIVAL` (R409): from another module, or the oldest packet of this module on its way to the cell. A
fenced cell discards it (R427). -/
def execLandingArrival (cell : Nat) (p : Packet) (s : State) : Host.Outcome State Fault Refusal :=
  let x := s.cell cell
  .next (if Config.cells ≤ cell ∨ x.landingRoom = 0 then s else
    let enter := fun (s : State) =>
      if x.res.fenced then s.event 0x0206 (.cell cell) p.ctx p.handler.toNat p.sender.toNat else s.modCell cell fun x => x.placePacket p
    if p.sender.toNat ≠ s.moduleNumber then enter s else
    let mine := fun (o : OutPacket) => o.dst = s.moduleNumber && !o.applied && o.cell = p.scell.toNat && (match o.payload with | .landing .. => true | _ => false)
    match s.link.out.findIdx? mine with
    | none => s
    | some k =>
      match s.link.out[k]? with
      | some o => if o.payload = .landing cell p then enter { s with link := { s.link with out := s.link.out.set k { o with applied := true } } } else s
      | none => s)

/-- The packets that wait to be served, in arrival order. -/
def Cell.waitingPackets (x : Cell) : List (Nat × LandSlot) :=
  let l := (List.range x.landing.length).filterMap fun k => match x.landing.getD k none with
    | some y => if y.held || y.served then none else some (k, y)
    | none => none
  l.foldl (fun (acc : List (Nat × LandSlot)) e => acc.takeWhile (fun a => a.2.order < e.2.order) ++ [e] ++ acc.dropWhile (fun a => a.2.order < e.2.order)) []

/-- Marks a packet as held by a task, or by the wicket whose handler starts on it. -/
def Cell.holdPacket (x : Cell) (k : Nat) (byWicket : Bool) : Cell :=
  { x with landing := modAt x.landing k fun l => l.map fun y => { y with held := true, served := byWicket } }

/-- The oldest task that waits on this cell for a packet (R410). -/
def State.landingTask (s : State) (c : Nat) (p : Packet) : Option (Nat × Task) :=
  (s.disp.tasks.filter fun (_, t) => t.state = .suspLand && t.lastCell = c && t.record.ctxid = p.ctx && t.record.sinfo = p.tag &&
      t.image.any fun i => i.s.packet.isNone).foldl
    (fun best t => match best with
      | some b => if t.2.order < b.2.order then some t else some b
      | none => some t) none

/-- The resident task is executing `yield.land` with the packet's tag (R410). -/
def Cell.yieldsFor (x : Cell) (p : Packet) : Bool :=
  x.res.image = .active && x.res.ctx = p.ctx && x.s.packet.isNone && x.res.stop.any (fun t => t.reason = .yieldLand && t.tag = p.tag)

/-- A frame slot taken for a first suspension that does not take place goes back. -/
def State.releaseSlot (s : State) (n : Nat) (t : Task) : State :=
  let k := s.context t.record.ctxid
  (s.setContext t.record.ctxid { k with slots := k.slots.filter fun x => some x ≠ t.slot }).setTask n { t with slot := none }

/-- The `yield.land` of a cell completes with 1 and the packet is held for the task (R313, R410); the stop it had
begun is given up. -/
def State.completeYield (s : State) (c k : Nat) : State :=
  let run := fun (g : Engine) => { g with quiesced := false }
  let s := s.modCell c fun x => { (x.holdPacket k false) with
    res := { x.res with stop := none }, s := { x.s with packet := some k }, ev := run x.ev, em := run x.em, ec := run x.ec }
  let s := match (s.cell c).res.task with
    | none => s
    | some n => (match s.task n with
      | some t => if t.record.skind = 0 then s.releaseSlot n t else s
      | none => s)
  match (s.cell c).s.iss.unfinished.getLast? with
  | none => s
  | some u => s.conclude c (.stream .s) (.done (s.setReg c (.stream .s) u.dest 1) none)

/-- Starts an idle wicket on a packet (R40, R411). -/
def Cell.startWicket (x : Cell) (w k : Nat) (p : Packet) (now : Nat) : Cell :=
  let regs := (((List.replicate 16 (0 : DWord)).set 1 (p.tag.setWidth 64)).set 2 (BitVec.ofNat 64 p.payload.length)).set 3
    (BitVec.ofNat 64 (p.sender.toNat + 2 ^ 12 * p.scell.toNat + 2 ^ 20 * p.ctx.toNat))
  let y : Wicket := { running := true, regs := regs, iss := { pc := p.handler }, ctx := p.ctx, packet := some k, start := now, alone := x.res.task.isNone }
  { (x.holdPacket k true) with wickets := x.wickets.set w y }

/-- A wicket may start for a packet (R410): not during a save or restore, nor while the cell is stopping or stopped
(R40, R432). -/
def State.mayStartWicket (s : State) (c : Nat) (p : Packet) : Bool :=
  let x := s.cell c
  !x.res.fenced && !x.dbg.holds && !x.captured && !s.dev.halted &&
  match x.res.image with
  | .active => x.res.ctx = p.ctx
  | .none => (s.context p.ctx).state = .active
  | _ => false

/-- Serves packet `k` in the first way of R410 that applies; none when it cannot be served yet. -/
def State.servePacket (s : State) (c k : Nat) (p : Packet) : Option State :=
  let x := s.cell c
  match s.landingTask c p with
  | some (n, t) =>
    let t := { t with image := t.image.map fun (i : Image) => { i with s := { i.s with packet := some k } } }
    some (((s.setTask n t).makeReady n).modCell c fun x => x.holdPacket k false)
  | none =>
    if x.yieldsFor p then some (s.completeYield c k)
    else match (if s.mayStartWicket c p then x.wickets.findIdx? fun w => !w.running else none) with
      | some w => some ((s.creditWickets c (.wicket w)).modCell c fun x => x.startWicket w k p s.cycle)
      | none => if x.res.image = .none ∧ (s.context p.ctx).state ≠ .active then some (s.discardPacket c k) else none

/-- `LANDING_SERVE` (R410): the first packet in arrival order that can be served. -/
def execLandingServe (cell : Nat) (s : State) : Host.Outcome State Fault Refusal :=
  .next (if (s.cell cell).res.fenced then s
    else ((s.cell cell).waitingPackets.findSome? fun (k, l) => s.servePacket cell k l.packet).getD s)

/-- `WICKET_OVERRUN` (R41): the wicket is stopped with BOUND, as by a trap (R308). -/
def execWicketOverrun (cell w : Nat) (s : State) : Host.Outcome State Fault Refusal :=
  let k := (s.cell cell).wicket w
  .next (if !k.running ∨ !k.alone ∨ s.cycle ≤ k.start + 65536 ∨ (s.cell cell).dbg.holds then s else
    let h := match k.packet.bind fun i => ((s.cell cell).landing.getD i none) with
      | some p => p.packet.handler.toNat
      | none => 0
    (s.wicketTrap cell w ⟨cBOUND, boundInfo 3 7⟩).event 0x0202 (.cell cell) k.ctx h w)

/-! ### Peer stores, losses, collectives -/

/-- The cause with which a peer store is refused, or the physical address it writes (R413). -/
def State.peerPlace (s : State) (p : PeerStore) : Except (BitVec 8) Nat :=
  if (s.context p.ctx).state ≠ .active then .error cNOTPRESENT else
  match s.walkFrom (agentDie (portAgent (p.port % 6)).1) p.ctx p.va with
  | .leaf e large _ => if !leafWR e || leafSUP e || !leafPIN e then .error cPERM else .ok (leafPa e large p.va)
  | _ => .error cNOTPRESENT

/-- A peer store is written by its arrival side (R103, R413); a closed scratchpad holds it (R21). -/
def State.peerWrite (s : State) (p : PeerStore) (pa : Nat) : State :=
  let ag := portAgent (p.port % 6)
  let bs := leBytes p.size (bitsAt p.data.toNat 0 (8 * p.size))
  match place pa with
  | .window c off =>
    if off < 0x200000 && !s.portOpen ag pa then (s.bar ag pa).modCell c fun x => { x with winWaits := x.winWaits ++
      [{ agent := ag, off := off, size := p.size, wr := some bs, since := s.cycle, via := some { ctx := p.ctx, va := p.va } }] }
    else s.writePa (agentDie ag.1) ag pa bs
  | _ => s.writePa (agentDie ag.1) ag pa bs

/-- A store is acknowledged: it ends its count in its launch; a refused one sets `ERR` and is reported to the sender's
context (R104, R351, R413). -/
def State.storeDone (s : State) (k : Nat) (o : OutPacket) (va : Nat) (cause : BitVec 8) : State :=
  let s := { s with link := { s.link with out := s.link.out.eraseIdx k } }
  let s := if cause = 0 then s else
    (s.groupErr o.launch).notice o.ctx cause 3 o.cell 0 (BitVec.ofNat 64 va) (BitVec.ofNat 64 (va / 65536 * 65536))
  s.countOut 5 o.launch

/-- A store that came through a port waits on a shutter: later ones of the port stay behind it (R103). -/
def State.portHeld (s : State) (port : Nat) : Bool := s.cells.any fun x => x.winWaits.any fun a => a.agent = portAgent (port % 6)

/-- `PEER_STORE_ARRIVAL` (R103, R413): on a port from another module; on port 6 the oldest store of this module to
itself (R404). -/
def execPeerStoreArrival (p : PeerStore) (s : State) : Host.Outcome State Fault Refusal :=
  .next (if !(p.size = 1 || p.size = 2 || p.size = 4 || p.size = 8) || p.va % p.size ≠ 0 || s.portHeld p.port then s
    else if p.port < 6 then
      (if !(s.link.ports.getD p.port {}).live then s else
       match s.peerPlace p with
       | .ok pa => s.peerWrite p pa
       | .error _ => s)
    else
      let mine := fun (o : OutPacket) => o.dst = s.moduleNumber && !o.applied && (match o.payload with
        | .store va n v _ => o.ctx = p.ctx && va = p.va && n = p.size && v = p.data
        | _ => false)
      match s.link.out.findIdx? mine with
      | none => s
      | some k =>
        match s.link.out[k]? with
        | none => s
        | some o =>
          if (s.link.out.take k).any (fun e => e.dst = o.dst && !e.applied && e.cell = o.cell && e.payload.channel = o.payload.channel) then s else
          match s.peerPlace p with
          | .ok pa => ({ s with link := { s.link with out := s.link.out.set k { o with applied := true } } } : State).peerWrite p pa
          | .error c => s.storeDone k o p.va c)

/-- `PEER_STORE_ACK` (R104): entry `k` of the packets sent; one to this module itself once it is applied everywhere. -/
def execPeerStoreAck (k : Nat) (cause : BitVec 8) (s : State) : Host.Outcome State Fault Refusal :=
  .next (match s.link.out[k]? with
    | none => s
    | some o =>
      match o.payload with
      | .store va _ _ _ =>
        if o.dst ≠ s.moduleNumber then s.storeDone k o va cause
        else if o.applied && s.performedAll (portAgent 0) then s.storeDone k o va 0 else s
      | _ => s)

/-- A fence of an agent that waited on a lost store raises LINKDOWN, as it completes, when the destination is out of reach
(R92). -/
def State.failFences (s : State) (o : OutPacket) : State :=
  if (s.route o.dst).isSome && (o.port = 6 || (s.link.ports.getD o.port {}).live) then s else
  let l := ((s.cell o.cell).issue o.agent).unfinished
  (List.range l.length).foldl (fun (s : State) i => match l[i]? with
    | some u => (match u.instr with
        | .fence _ _ sc _ => if 6 ≤ sc.toNat && s.counted o.cell sc.toNat o.dst && u.trap.isNone then
            s.modIssue o.cell o.agent fun k => { k with unfinished := modAt k.unfinished i fun v => { v with lost := some (s.firstTried o.dst) } } else s
        | _ => s)
    | none => s) s

/-- The effects of a loss (R332, R351, R406). A lost form is sent again, or raises LINKDOWN when it has no route
(notes/assumptions/33); a lost question of the host's PUT ends it with status 4. -/
def State.lose (s : State) (o : OutPacket) : State :=
  match o.payload with
  | .store .. => (((s.groupErr o.launch).countOut 5 o.launch)).failFences o
  | .landing _ p => s.notice o.ctx cLINKDOWN 3 o.cell 0 (BitVec.ofNat 64 o.port) p.handler
  | .steal l => (l.foldl (fun (s : State) r => match s.grantedTask r.va with
      | some (n, t) => s.takeBack n t
      | none => s) s)
  | .stealRequest => { s with disp := { s.disp with stealPort := none } }
  | .group _ =>
    if Config.cells ≤ o.cell then
      (match o.payload with
       | .group (.enlist _) => if s.disp.farPut.isNone then s
         else { s with disp := { s.disp with farPut := none, qbusy := false, qresult := 4 } }
       | _ => s)
    else s.modIssue o.cell o.agent fun i => match i.unfinished.getLast? with
      | some u => if u.sent && u.value.isNone then i.setLast { u with sent := false } else i
      | none => i
  | _ => s

/-- `PACKET_LOSS_DECLARE` (R406): no earlier than 200 µs after its sending, since the port that went DOWN may be any on
its route; counted in `LOSTPK` of the first port. -/
def execPacketLossDeclare (k : Nat) (s : State) : Host.Outcome State Fault Refusal :=
  .next (match s.link.out[k]? with
    | none => s
    | some o =>
      if s.cycle < o.sentAt + 600000 then s else
      let s := { s with link := { s.link with
        out := s.link.out.eraseIdx k
        ports := modAt s.link.ports o.port fun p => { p with lostpk := p.lostpk + 1 } } }
      s.lose o)

/-- `COLL_CHUNK_ARRIVAL` (R281): from the neighbour on a port, for a cell's `COLL` to take by tag, with the
numbers of its poisoned 32-byte parts. -/
def execCollChunkArrival (cell : Nat) (port : BitVec 3) (ctx : BitVec 16) (tag : BitVec 8) (lines : List Line) (bad : List Nat) (s : State) : Host.Outcome State Fault Refusal :=
  .next (if Config.cells ≤ cell ∨ !(s.link.ports.getD port.toNat {}).live ∨ lines.isEmpty ∨ 64 < lines.length then s
    else s.modCell cell fun x => { x with c := { x.c with chunks := x.c.chunks ++ [⟨port, ctx, tag, lines, bad.filter fun k => decide (k < 8 * lines.length)⟩] } })

end Sys2Proof.Machine
end

