-- ==== Sys2Proof/Machine/EventsPage.lean ====
section
/-! DEFINITION. Barriers and phases (R354, R366, R367), migration (R387 to R393), host invalidation (R399), the release
of a context (R293) and residency (R316). -/

namespace Sys2Proof.Machine

/-- `BARRIER_ARRIVAL` (R366, R367): the arrival that reached the unit first. -/
def execBarrierArrival (s : State) : Host.Outcome State Fault Refusal :=
  .next (match s.disp.arrivals with
    | [] => s
    | a :: r => ({ s with disp := { s.disp with arrivals := r } } : State).applyArrival a)

/-- `PHASE_TIME_BOUNDARY` (R354). -/
def execPhaseTimeBoundary (slot : Nat) (s : State) : Host.Outcome State Fault Refusal :=
  .next (if (s.groupAt slot).level = 2 then s.recheck (s.gidOf 2 slot) else s)

/-! ### Migration -/

/-- The two dies' agents of a copy: a write is made by the die of the source home (R388). -/
def State.copyGranule (s : State) (d src dst : Nat) : State :=
  let x := s.readPa d src 64
  let s := if absent src then s.holeAccess engineAgent.1 src else s
  s.writeMem d engineAgent { addr := dst, bytes := x.bytes } x.bad.isSome

/-- Messages on their way to a die that write bytes of a range are applied first (notes/assumptions/5). -/
def State.catchUp (s : State) (d pa n : Nat) : State :=
  if s.mem.pend.any fun w => w.dst = d && w.touches pa n then { s with mem := s.mem.flush d } else s

/-- The entry `k` of the sluice table. -/
def State.sluiceEntry (s : State) (k : Nat) : Option Sluice := s.page.sluice[k]?

/-- Replaces an entry of the sluice table. -/
def State.setSluice (s : State) (k : Nat) (e : Sluice) : State := { s with page := { s.page with sluice := s.page.sluice.set k e } }

/-- `MIGRATION_LINE_COPY` (R388): line f, at the source home, then f + 1. -/
def execMigrationLineCopy (k : Nat) (s : State) : Host.Outcome State Fault Refusal :=
  .next (match s.sluiceEntry k with
    | none => s
    | some e =>
      if e.state ≠ .sluice ∨ 256 ≤ e.f ∨ s.dev.halted then s else
      let d := homeDie e.src
      let src := e.src + 256 * e.f
      let dst := e.dst + 256 * e.f
      let s := s.catchUp d src 256
      ((List.range 4).foldl (fun s i => s.copyGranule d (src + 64 * i) (dst + 64 * i)) s).setSluice k { e with f := e.f + 1 })

/-- The leaf of a page after the switch (R392). -/
def switchedLeaf (e : DWord) (dst : Nat) : DWord :=
  let e := e &&& ~~~sluBit
  let e := setField e 6 (BitVec.ofNat 2 ((place dst).tier.getD 0))
  setField e 16 (BitVec.ofNat 34 (dst / 65536))

/-- Every cell of the module. -/
def allCells : List Nat := List.range Config.cells

/-- `SWITCH_OVER` (R392). -/
def execSwitchOver (k : Nat) (s : State) : Host.Outcome State Fault Refusal :=
  .next (match s.sluiceEntry k with
    | none => s
    | some e =>
      if e.state ≠ .sluice ∨ e.f ≠ 256 ∨ s.dev.halted then s else
      let s := s.storePte e.pte (switchedLeaf (s.readPte e.pte) e.dst)
      (s.setSluice k { e with state := .switching }).invalidate allCells e.ctx (e.va, 65536))

/-- The invalidation of a page in the sluice is complete (R106, R398): no access that used its translation, and no
write to either frame on its way. -/
def State.shotDown (s : State) (e : Sluice) : Bool :=
  !s.usesRange allCells e.ctx (e.va, 65536) &&
  !s.mem.pend.any fun w => w.touches e.src 65536 || w.touches e.dst 65536

/-- Writes a migration's `CWORD` (R396). -/
def State.writeCword (s : State) (e : Sluice) (v : Nat) : State := s.dwrite e.cword (leBytes 8 v)

/-- Removes an entry of the sluice table. -/
def State.dropSluice (s : State) (k : Nat) : State := { s with page := { s.page with sluice := s.page.sluice.eraseIdx k } }

/-- `MIGRATION_SHOOTDOWN_COMPLETE` (R387, R392, R394). -/
def execMigrationShootdownComplete (k : Nat) (s : State) : Host.Outcome State Fault Refusal :=
  .next (match s.sluiceEntry k with
    | none => s
    | some e =>
      if e.state ≠ .switching ∨ !s.shotDown e ∨ s.dev.halted then s else
      let s := if s.page.hotEn ∧ e.src < 0x140000000000 ∧ e.dst < 0x140000000000 then (let (n, s) := s.hotRead e.src; (s.hotWrite e.dst n).hotWrite e.src 0) else s
      (s.dropSluice k).writeCword e 1)

/-- `MIGRATION_ABORT` (R393) for a destination that fails (1) or a destroyed context (4). An invalidation aborts the pinned
pages that it covers (2) as it completes, and `MIGR` CANCEL makes its own (3). -/
def execMigrationAbort (k : Nat) (reason : Nat) (s : State) : Host.Outcome State Fault Refusal :=
  .next (match s.sluiceEntry k with
    | none => s
    | some e =>
      if !s.dev.halted ∧ (reason = 1 ∨ (reason = 4 ∧ (s.context e.ctx).state = .destroyed)) then s.abortMigration k reason else s)

/-- `ABORT_SHOOTDOWN_COMPLETE` (R387, R393). -/
def execAbortShootdownComplete (k : Nat) (s : State) : Host.Outcome State Fault Refusal :=
  .next (match s.sluiceEntry k with
    | none => s
    | some e =>
      if e.state ≠ .aborting ∨ !s.shotDown e ∨ s.dev.halted then s else
      let s := (s.dropSluice k).writeCword e (2 + 256 * e.reason)
      if e.reason = 4 then s else s.notice e.ctx cMIGABORT 0 0 0 (BitVec.ofNat 64 e.reason) (BitVec.ofNat 64 e.va))

/-! ### Host invalidation -/

/-- A register write of a chapter other than those of R447: in the safe state it is ignored. -/
def State.unlessSafe (s t : State) : State := if s.dev.mstate = 2 then s else t

/-- Ends a host invalidation once the accesses it waits for are complete (R398, R399). -/
def State.finishPginv (s : State) : State :=
  match s.page.pginv with
  | none => s
  | some p =>
    let r : VRange := (p.base, p.size)
    if s.usesRange allCells p.ctx r ∨ s.mem.pend.any (fun w => w.seq < p.mark) then s
    else ((({ s with page := { s.page with pginv := none } } : State).invalidate allCells p.ctx r).abortPinned p.ctx r).wakePages p.ctx r

/-- `PGINV_CMD` (R399): as `INVPG` at PACKAGE scope. -/
def execPginvCmd (ctx : BitVec 16) (kind : BitVec 2) (s : State) : Host.Outcome State Fault Refusal :=
  .next (s.unlessSafe <| if s.page.pginv.isSome ∨ kind = 3 ∨ (s.context ctx).state ≠ .active then s else
    let (b, n) := invRange kind.toNat (sext52 s.page.pginvVa.toNat)
    let s := s.invalidate allCells ctx (b, n)
    ({ s with page := { s.page with pginv := some { ctx := ctx, base := b, size := n, mark := s.mem.nextSeq } } } : State).finishPginv)

/-! ### Contexts and residency -/

/-- Nothing of a context is left on the module (R293, R474). -/
def State.contextEmpty (s : State) (ctx : BitVec 16) : Bool :=
  let gone := fun (t : Task) => t.record.ctxid ≠ ctx || t.state = .retired || t.state = .cancelled
  (s.disp.tasks.all fun (_, t) => gone t) && (s.context ctx).slots.isEmpty && !s.usesRange allCells ctx allAddrs &&
  s.cells.all (fun x => (x.res.image = .none || x.res.ctx ≠ ctx) && !x.wickets.any fun k => k.running && k.ctx = ctx) &&
  !s.quads.any fun q => q.requests.any fun r => r.ctx = ctx

/-- `CONTEXT_RELEASE` (R293). -/
def execContextRelease (ctx : BitVec 16) (s : State) : Host.Outcome State Fault Refusal :=
  .next (if (s.context ctx).state ≠ .destroyed ∨ !s.contextEmpty ctx then s else
    let s := (s.modContext ctx fun k => { k with state := .free }).invalidate allCells ctx allAddrs
    s.event 0x0204 .dispatcher ctx 0 0)

/-- `RESIDENCY_PERIOD` (R316): the cycle in which the residency count of a cell reaches 1,024. -/
def execResidencyPeriod (cell : Nat) (s : State) : Host.Outcome State Fault Refusal :=
  .next (if (s.cell cell).res.image ≠ .none ∧ (s.cell cell).res.rc = 1023 then s.tick else s)

end Sys2Proof.Machine
end

