-- ==== Sys2Proof/Machine/EventsHost.lean ====
section
/-! DEFINITION. Commands of the host and the management core to the dispatcher: contexts (R291 to R294), queues (R319 to
R326, R335), groups and job starts (R357 to R359), barriers (R363, R365). A command is complete when its event ends, unless
a slot or record that it needs waits on a shutter (R21) or a launch's home has to answer (R353): its `BUSY` bit then reads 1
until it goes on, and further commands are ignored. -/

namespace Sys2Proof.Machine

/-- A base register's value under its mask of low bits (R291, R321, R357, R362, R399). -/
def baseField (v : DWord) (low : Nat) : BitVec 50 := BitVec.ofNat 50 (bitsAt v.toNat low (50 - low) * 2 ^ low)

/-! ### Contexts -/

/-- Every context is FREE. -/
def State.allFree (s : State) : Bool := s.disp.contexts.all fun (_, k) => k.state = .free

/-- `CTXTBL_WRITE` (R292). -/
def execCtxtblWrite (v : DWord) (s : State) : Host.Outcome State Fault Refusal :=
  .next (s.unlessSafe (if s.allFree && !s.disp.ctxBusy then { s with disp := { s.disp with ctxtbl := baseField v 22, contexts := [] } } else s))

/-- The result of a context command. -/
def State.ctxResult (s : State) (r : BitVec 3) : State := { s with disp := { s.disp with ctxResult := r } }

/-- An entry that CREATE rejects (R294). -/
def ctxEntryBad (e : List Byte) : Bool :=
  let f := bytesAt e
  bitsAt (f 40 1) 5 3 ≠ 0 || bitsAt (f 41 1) 5 3 ≠ 0 || f 43 5 ≠ 0 || f 60 4 ≠ 0 ||
  f 0 8 % 4096 ≠ 0 || place (f 0 8) = .hole ||
  !canonical (f 16 8) || f 16 8 % 65536 ≠ 0 || !canonical (f 32 8) || f 32 8 % 4096 ≠ 0 ||
  65536 < f 24 4 || f 28 4 < 2 || 35 < f 28 4

/-- The dispatcher's copy of a context from its entry (R290, R293). -/
def contextOf (e : List Byte) : Context :=
  let f := bytesAt e
  { state := .active, ptroot := f 0 8, tvec0 := BitVec.ofNat 64 (f 8 8), fpool := f 16 8, fslots := f 24 4, fsize := f 28 4
    nrbase := f 32 8, nrlog := f 40 1 % 16, supok := (f 40 1).testBit 4, esc := BitVec.ofNat 5 (f 41 1) }

/-- Sets the 256 barriers of a context to IDLE (R365). -/
def State.clearBarriers (s : State) (ctx : BitVec 16) : State :=
  let s := { s with disp := { s.disp with barriers := s.disp.barriers.filter fun (k, _) => k / 256 ≠ ctx.toNat } }
  s.dwrite (s.disp.btbl.toNat + 8192 * ctx.toNat) (List.replicate 8192 0)

/-- `CTX_CREATE` (R293, R294, R365). An entry that reads poisoned is rejected (notes/assumptions/34). -/
def execCtxCreate (ctx : BitVec 16) (s : State) : Host.Outcome State Fault Refusal :=
  .next (s.unlessSafe (if s.disp.ctxBusy then s else if ctx = 0 then s.ctxResult 3
    else if (s.context ctx).state ≠ .free then s.ctxResult 1 else
    let d := s.readPa 0 (s.ctxEntry ctx) 64
    if d.bad.isSome then (s.badRead dispatcherAgent false (s.ctxEntry ctx) 64).ctxResult 2
    else if ctxEntryBad d.bytes then s.ctxResult 2
    else ((s.clearBarriers ctx).modContext ctx fun _ => contextOf d.bytes).ctxResult 0))

/-- Cancels one untaken slot of a queue (R324): the state, and how much it counts in `NCANCEL`; none while it waits on a
shutter. A launch that a cancel has reached has written its untaken slots off already (R354). -/
def State.cancelSlot (s : State) (x : RQueue) (p : Nat) (u : SlotPut) : State × Option Nat :=
  match s.dread x.ctx (x.slotVa p) 16 with
  | .error c => (s.dmiss x.ctx (x.slotVa p) 16 c, if c = cWAIT then none else some 0)
  | .ok bs =>
    let va := sext52 (bytesAt bs 0 8)
    let launch := s.ownLaunch x u (BitVec.ofNat 32 (bytesAt bs 8 4))
    let s := s.dcame x.ctx (x.slotVa p)
    let out := fun (s : State) => if u.gone || s.launchGone launch then s else s.cancelOut launch
    match s.dread x.ctx va 64 with
    | .error c =>
      let s := s.dmiss x.ctx va 64 c
      if c = cWAIT then (s, none) else (out (s.event 0x0201 .dispatcher x.ctx va 0), some 1)
    | .ok rb => (out ((s.dcame x.ctx va).writeLast x.ctx va (recordOf rb) 6), some 1)

/-- Cancels slots from `p` on: the state, the next slot, those that are left when one waits, and the sum for `NCANCEL`. -/
def State.cancelSlots (s : State) (x : RQueue) (p : Nat) (l : List SlotPut) (done : Nat) : State × Nat × List SlotPut × Nat :=
  match l with
  | [] => (s, p, [], done)
  | u :: r =>
    match s.cancelSlot x p u with
    | (s, none) => (s, p, u :: r, done)
    | (s, some n) => s.cancelSlots x (p + 1) r (done + n)

/-- Goes on with the destruction of a queue (R322, R324). -/
def State.cancelFrom (s : State) (k : SlotCancel) : State :=
  let (s, p, l, n) := s.cancelSlots (s.queue k.qid) k.next k.left k.done
  let s := s.setQueue k.qid { (s.queue k.qid) with state := qDESTROYED, ncancel := BitVec.ofNat 32 n, puts := [] }
  if l.isEmpty then s
  else { s with disp := { s.disp with cancels := s.disp.cancels ++ [{ k with next := p, left := l, done := n }], qbusy := true
                                      ctxBusy := s.disp.ctxBusy || k.byCtx } }

/-- The untaken slots of a queue. -/
def RQueue.untaken (x : RQueue) : List SlotPut :=
  let n := (x.put - x.take).toNat
  (x.puts ++ List.replicate (n - x.puts.length) ({} : SlotPut)).take n

/-- DESTROYS a queue that is not DESTROYED (R322, R324). -/
def State.destroyQueue (s : State) (q : Nat) (byCtx : Bool := false) : State :=
  let x := s.queue q
  if x.state = qDESTROYED then s else s.cancelFrom ⟨q, x.take.toNat, x.untaken, 0, byCtx⟩

/-- DESTROYS a context (R293): its queues are destroyed, its tasks cancelled, its migrations aborted. -/
def State.destroyContext (s : State) (ctx : BitVec 16) : State :=
  let s := s.modContext ctx fun k => { k with state := .destroyed }
  let s := ((s.disp.queues.filter fun (_, x) => x.ctx = ctx && x.state ≠ qDESTROYED).map Prod.fst).foldl (fun (s : State) q => s.destroyQueue q true) s
  let s := ((s.disp.tasks.filter fun (_, t) => t.record.ctxid = ctx && t.state ≠ .retired && t.state ≠ .cancelled).map Prod.fst).foldl State.cancelTask s
  (List.range s.page.sluice.length).foldl (fun (s : State) k => match s.sluiceEntry k with
    | some e => if e.ctx = ctx then s.abortMigration k 4 else s
    | none => s) s

/-- `CTX_DESTROY` (R293). -/
def execCtxDestroy (ctx : BitVec 16) (s : State) : Host.Outcome State Fault Refusal :=
  .next (s.unlessSafe (if s.disp.ctxBusy then s else if ctx = 0 then s.ctxResult 3
    else if (s.context ctx).state = .active ∨ (s.context ctx).state = .faulted then (s.destroyContext ctx).ctxResult 0
    else s.ctxResult 1))

/-- `CTX_FAULT` (R293). -/
def execCtxFault (ctx : BitVec 16) (s : State) : Host.Outcome State Fault Refusal :=
  .next (s.unlessSafe (if s.disp.ctxBusy then s else if ctx = 0 then s.ctxResult 3
    else if (s.context ctx).state = .active then (s.faultContext ctx 0 Config.cells).ctxResult 0 else s.ctxResult 1))

/-- `CTX_RESUME` (R293): the tasks that FAULTED stopped become READY. -/
def execCtxResume (ctx : BitVec 16) (s : State) : Host.Outcome State Fault Refusal :=
  .next (s.unlessSafe (if s.disp.ctxBusy then s else if ctx = 0 then s.ctxResult 3
    else if (s.context ctx).state ≠ .faulted then s.ctxResult 1 else
    let s := s.modContext ctx fun k => { k with state := .active }
    let l := (s.disp.tasks.filter fun (_, t) => t.record.ctxid = ctx && t.state = .suspFault && t.record.scause = 0).map Prod.fst
    (l.foldl State.makeReady s).ctxResult 0))

/-! ### Queues -/

/-- `QTBL_WRITE` (R319). -/
def execQtblWrite (v : DWord) (s : State) : Host.Outcome State Fault Refusal :=
  .next (s.unlessSafe { s with disp := { s.disp with qtbl := baseField v 17, queues := [], cancels := [], qbusy := s.disp.farPut.isSome } })

/-- The result of a queue command. -/
def State.qResult (s : State) (r : Nat) : State := { s with disp := { s.disp with qresult := BitVec.ofNat 3 r } }

/-- A queue from its table entry; none when CREATE rejects it (R323). -/
def State.queueOf (s : State) (q : Nat) : Option RQueue :=
  let d := s.readPa 0 (s.disp.qtbl.toNat + 64 * q) 64
  let f := bytesAt d.bytes
  let ctx := BitVec.ofNat 16 (f 10 2)
  if d.bad.isSome || bitsAt (f 8 1) 5 3 ≠ 0 || bitsAt (f 9 1) 6 2 ≠ 0 || f 13 3 ≠ 0 || leNat (d.bytes.drop 28) ≠ 0 ||
      !canonical (f 0 8) || f 0 8 % 4096 ≠ 0 || f 8 1 % 32 < 4 || 20 < f 8 1 % 32 || (s.context ctx).state ≠ .active then none
  else some { state := qCREATED, base := f 0 8, rlog := f 8 1 % 32, level := BitVec.ofNat 6 (f 9 1), ctx := ctx }

/-- `QUEUE_CREATE` (R322, R323). -/
def execQueueCreate (qid : BitVec 11) (s : State) : Host.Outcome State Fault Refusal :=
  let q := qid.toNat
  .next (s.unlessSafe (if s.disp.qbusy then s else if q = 0 then s.qResult 3
    else if (s.queue q).state ≠ qDESTROYED then s.qResult 1
    else match s.queueOf q with
      | none =>
        let e := s.disp.qtbl.toNat + 64 * q
        (if (s.readPa 0 e 64).bad.isSome then s.badRead dispatcherAgent false e 64 else s).qResult 2
      | some x => (s.setQueue q x).qResult 0))

/-- `QUEUE_OPEN` (R322). -/
def execQueueOpen (qid : BitVec 11) (s : State) : Host.Outcome State Fault Refusal :=
  let q := qid.toNat
  let x := s.queue q
  .next (s.unlessSafe (if s.disp.qbusy then s else if q = 0 then s.qResult 3
    else if x.state = qCREATED ∨ x.state = qCLOSED then (s.setQueue q { x with state := qOPEN }).qResult 0 else s.qResult 1))

/-- `QUEUE_CLOSE` (R322). -/
def execQueueClose (qid : BitVec 11) (s : State) : Host.Outcome State Fault Refusal :=
  let q := qid.toNat
  let x := s.queue q
  .next (s.unlessSafe (if s.disp.qbusy then s else if q = 0 then s.qResult 3
    else if x.state = qCREATED then (s.setQueue q { x with state := qCLOSED }).qResult 0
    else if x.state = qOPEN then (s.setQueue q ({ x with state := qDRAINING } : RQueue).drained).qResult 0
    else s.qResult 1))

/-- `QUEUE_DESTROY` (R322, R324). -/
def execQueueDestroy (qid : BitVec 11) (s : State) : Host.Outcome State Fault Refusal :=
  let q := qid.toNat
  .next (s.unlessSafe (if s.disp.qbusy then s else if q = 0 then s.qResult 3
    else if (s.queue q).state = qDESTROYED then s.qResult 1 else (s.destroyQueue q).qResult 0))

/-- A PUT of the host ends with a status. -/
def State.endPut (s : State) (r : Nat) : State :=
  ({ s with disp := { s.disp with farPut := none, qbusy := !s.disp.cancels.isEmpty } } : State).qResult r

/-- Tries the host's PUT of the record at `va` (R321, R335): it waits for a record behind a shutter (R21), and asks the home
of a launch of another module (R353). -/
def State.hostPut (s : State) (q va : Nat) : State :=
  let ctx := (s.queue q).ctx
  let wait := fun (s : State) (bs : List Byte) => { s with disp := { s.disp with farPut := some (q, va, bs), qbusy := true } }
  match s.dread ctx va 64 with
  | .error c => if c = cWAIT then wait (s.dmiss ctx va 64 c) [] else (s.dmiss ctx va 64 c).endPut 7
  | .ok bs =>
    let s := s.dcame ctx va
    let r := recordOf bs
    if s.putStatus q r none ≠ 0 ∨ s.homed r.launchid then (let (st, s) := s.put q va r none; s.endPut st)
    else match s.route (gidHome r.launchid) with
      | none => s.endPut 4
      | some _ => wait (s.sendGroup r.launchid (.enlist r.launchid)) bs

/-- `QUEUE_PUT` (R321, R335): status 1 for a queue that does not exist, 7 for a record that cannot be read. -/
def execQueuePut (qid : BitVec 11) (s : State) : Host.Outcome State Fault Refusal :=
  let q := qid.toNat
  let va := sext52 s.disp.qcmdArg.toNat
  .next (s.unlessSafe (if s.disp.qbusy then s
    else if q = 0 ∨ (s.queue q).state = qDESTROYED then s.qResult 1
    else if va % 64 ≠ 0 ∨ !canonical va then s.qResult 7
    else s.hostPut q va))

/-! ### Groups and jobs -/

/-- Every group slot is FREE. -/
def State.groupsFree (s : State) : Bool := s.disp.groups.all fun (_, g) => g.state = gFREE

/-- `GTBL_WRITE` (R358). -/
def execGtblWrite (v : DWord) (s : State) : Host.Outcome State Fault Refusal :=
  .next (s.unlessSafe (if s.groupsFree then { s with disp := { s.disp with gtbl := baseField v 24, groups := [], lastSlot := 0 } } else s))

/-- `GFREE` (R350, R357). -/
def execGfree (slot : BitVec 18) (s : State) : Host.Outcome State Fault Refusal :=
  let g := s.groupAt slot.toNat
  .next (s.unlessSafe (if g.terminal ∧ g.parent = 0 then s.setGroup slot.toNat { g with state := gFREE } else s))

/-- The status registers of a job start. -/
def State.jsResult (s : State) (stat kst : Nat) : State :=
  { s with disp := { s.disp with jsStat := BitVec.ofNat 3 stat, jsKst := BitVec.ofNat 4 kst, jsBusy := false } }

/-- The status of a job start's put before anything is created (R335, R359): 6 when the slot cannot be written, 7 when
fewer than four group slots are free. -/
def State.jobStatus (s : State) (q : Nat) (r : Record) : Nat :=
  let x := s.queue q
  if q = 0 ∨ x.state ≠ qOPEN then 1
  else if (x.put - x.take).toNat = 2 ^ x.rlog then 2
  else if r.ctxid ≠ x.ctx ∨ r.skind ≠ 0 ∨ (r.weir != (x.level = 0)) ∨ (!r.weir ∧ bitsAt r.basepri.toNat 0 6 ≠ x.level.toNat) then 5
  else if 2 ^ 18 - 1 < (s.disp.groups.filter fun (_, g) => g.state ≠ gFREE).length + 4 then 7
  else 0

/-- A group created for a job start, and its id; nothing happens when the table is full, which `jobStatus` rules out. -/
def State.makeGroup (s : State) (g : Group) : BitVec 32 × State := (s.createGroup g).getD (0, s)

/-- Creates the job, the phase, the graph and the launch of a job start, and puts its record (R359). -/
def State.startJob (s : State) (ctx : BitVec 16) (va khdr : Nat) (r : Record) (h : BitVec 512) : State :=
  let (job, s) := s.makeGroup { state := gOPEN, level := 3, ctx := ctx, garg := s.disp.jsPart.setWidth 64 }
  let (phase, s) := s.makeGroup { state := gOPEN, level := 2, ctx := ctx, parent := job }
  let (graph, s) := s.makeGroup { state := gOPEN, level := 1, ctx := ctx, parent := phase, node := 1 }
  let (launch, s) := s.makeGroup { state := gCLOSING, level := 0, ctx := ctx, parent := graph, bval := BitVec.ofNat 64 khdr, header := h, bound := true }
  let s := (s.klive (s.groupAt (gidSlot launch)) 1).joinGraph graph launch 0
  let r := { r with spc := entryPoint h khdr .s, vpc := entryPoint h khdr .v, mpc := entryPoint h khdr .m, cpc := entryPoint h khdr .c, launchid := launch }
  let s := match s.dstore ctx va r.bytes with
    | .ok s => s
    | .error c => s.dmiss ctx va 64 c
  let (_, s) := s.put s.disp.jsQid.toNat va r none
  { s with disp := { s.disp with jsJob := job } }

/-- Tries a job start with the record at `va`: the record, the header and the put are checked before anything is written
(R359); it waits for what a shutter keeps away (R21). -/
def State.tryJob (s : State) (va : Nat) (ctx : BitVec 16) : State :=
  let khdr := sext52 s.disp.jsKhdr.toNat
  let q := s.disp.jsQid.toNat
  let fail := fun (at_ : Nat) (c : BitVec 8) (kst : Nat) =>
    let s := s.dmiss ctx at_ 64 c
    if c = cWAIT then { s with disp := { s.disp with jsBusy := true, jobWait := some (va, ctx) } } else s.jsResult 0 kst
  match s.dread ctx va 64, s.dread ctx khdr 64 with
  | .error c, _ => fail va c 9
  | .ok _, .error c => fail khdr c 8
  | .ok rb, .ok hb =>
    let s := (s.dcame ctx va).dcame ctx khdr
    let h : BitVec 512 := BitVec.ofNat 512 (leNat hb)
    let r := recordOf rb
    let kst := headerStatus h (s.context ctx).fsize
    if kst ≠ 0 then s.jsResult 0 kst else
    let st := s.jobStatus q r
    if st ≠ 0 then s.jsResult st 0 else
    let slot := (s.queue q).slotVa (s.queue q).put.toNat
    match s.dplace (s.queue q).ctx slot 16 { wr := true } with
    | .error c => (s.breakQueue q c slot).jsResult 6 0
    | .ok _ => (s.startJob ctx va khdr r h).jsResult 0 0

/-- `JOBSTART` (R359), ignored while a job start is in progress. -/
def execJobstart (rec : BitVec 46) (ctx : BitVec 16) (s : State) : Host.Outcome State Fault Refusal :=
  .next (s.unlessSafe (if s.disp.jsBusy then s else s.tryJob (sext52 (rec.toNat * 64)) ctx))

/-- Commands that wait go on: destructions of queues, a PUT of the host and a job start (R322, R335, R359). -/
def State.drainCommands (s : State) : State :=
  let s := if s.disp.cancels.isEmpty then s else
    let l := s.disp.cancels
    let s := l.foldl State.cancelFrom { s with disp := { s.disp with cancels := [] } }
    if s.disp.cancels.isEmpty then { s with disp := { s.disp with qbusy := s.disp.farPut.isSome, ctxBusy := false } } else s
  let s := match s.disp.farPut with
    | some (q, va, []) => s.hostPut q va
    | _ => s
  match s.disp.jobWait with
  | some (va, ctx) => ({ s with disp := { s.disp with jobWait := none, jsBusy := false } } : State).tryJob va ctx
  | none => s

/-! ### Barriers -/

/-- `BTBL_WRITE` (R363). -/
def execBtblWrite (v : DWord) (s : State) : Host.Outcome State Fault Refusal :=
  .next (s.unlessSafe (if s.allFree then { s with disp := { s.disp with btbl := baseField v 29, barriers := [] } } else s))

end Sys2Proof.Machine
end

