-- ==== Sys2Proof/Machine/EventsLink.lean ====
section
/-! DEFINITION. The torus ports (R401 to R403), time (R415 to R417), the host port (R419), the completion of engine
commands (R38, R227, R230, R259) and the credits of landing packets (R409). -/

namespace Sys2Proof.Machine

/-! ### Ports -/

/-- States of a port (R402). -/
def pDOWN : BitVec 3 := 0
def pTRAINING : BitVec 3 := 1
def pUP : BitVec 3 := 2
def pDETERMINISTIC : BitVec 3 := 3
def pDEGRADED : BitVec 3 := 4

/-- A port. -/
def State.port (s : State) (p : Nat) : Port := s.link.ports.getD p {}

/-- Replaces a port. -/
def State.setPort (s : State) (p : Nat) (x : Port) : State := { s with link := { s.link with ports := s.link.ports.set p x } }

/-- `LOCK` becomes 0 (R417). -/
def State.unlock (s : State) : State :=
  { s with link := { s.link with lock := false, skewbound := BitVec.allOnes 32, syncGood := 0 } }

/-- A link has gone DOWN under a `COLL` whose lines have been sent (R281). -/
def Cell.collLost (x : Cell) (p : Nat) : Cell :=
  match x.headInstr .c with
  | some (.coll _ _ _ q _) =>
    if x.ec.progress.1 = 1 ∧ (p = q.toNat ∨ p = otherWay q.toNat) then { x with ec := { x.ec with progress := (2, p) } } else x
  | _ => x

/-- A port enters another state, with its event (R403); time loses its lock when the port towards the parent stops
being live (R417). -/
def State.enterPort (s : State) (p : Nat) (st : BitVec 3) : State :=
  let x := s.port p
  if st = x.state then s else
  let s := s.setPort p { x with state := st, since := s.cycle, retrains := if st = pTRAINING then x.retrains + 1 else x.retrains }
  let s := if s.link.parent = some p ∧ st.toNat < 2 then s.unlock else s
  let s := if st = 0 then { s with cells := s.cells.map fun x => x.collLost p } else s
  s.event 0x0301 (.port p) 0 (x.state.toNat + 8 * st.toNat) p

/-- The coordinates lie in the torus (R400). -/
def State.coordinatesOk (s : State) : Bool := s.inTorus s.moduleNumber

/-- `PORT_CONTROL_WRITE` (R402, R403): `EN` 0 takes a port DOWN, a write of `DETREQ` takes a DEGRADED one back to
TRAINING (notes/assumptions/35), and `DETREQ` 0 ends DETERMINISTIC. -/
def execPortControlWrite (port : Nat) (v : DWord) (s : State) : Host.Outcome State Fault Refusal :=
  .next (if 6 ≤ port then s else s.unlessSafe (
    let en := v.getLsbD 0
    let s := s.setPort port { (s.port port) with en := en, detreq := v.getLsbD 1, ptprole := if field v 2 2 = (3 : BitVec 2) then 0 else field v 2 2 }
    let st := (s.port port).state
    if !en then s.enterPort port pDOWN
    else if st = pDEGRADED then s.enterPort port pTRAINING
    else if st = pDETERMINISTIC && !v.getLsbD 1 then s.enterPort port pUP else s))

/-- `PORT_PARTNER_DETECT` (R403). -/
def execPortPartnerDetect (port : Nat) (s : State) : Host.Outcome State Fault Refusal :=
  .next (if port < 6 ∧ (s.port port).en ∧ (s.port port).state = pDOWN ∧ s.coordinatesOk then s.enterPort port pTRAINING else s)

/-- 10 ms in cycles (R403). -/
def trainingLimit : Nat := 30000000

/-- `PORT_TRAINED` (R403), at full or half width. -/
def execPortTrained (port : Nat) (full : Bool) (s : State) : Host.Outcome State Fault Refusal :=
  .next (if (s.port port).state = pTRAINING ∧ s.cycle ≤ (s.port port).since + trainingLimit then
    s.enterPort port (if full then pUP else pDEGRADED) else s)

/-- `PORT_TRAINING_TIMEOUT` (R403). -/
def execPortTrainingTimeout (port : Nat) (s : State) : Host.Outcome State Fault Refusal :=
  .next (if (s.port port).state = pTRAINING ∧ (s.port port).since + trainingLimit ≤ s.cycle then s.enterPort port pDOWN else s)

/-- `PORT_CALIBRATION` (R403): a measured hop lies in the window, with `DETREQ` 1 at the other end too, or leaves it. -/
def execPortCalibration (port : Nat) (inWindow : Bool) (s : State) : Host.Outcome State Fault Refusal :=
  let x := s.port port
  .next (if x.state = pUP && x.detreq && inWindow then s.enterPort port pDETERMINISTIC
    else if x.state = pDETERMINISTIC && !inWindow then s.enterPort port pUP else s)

/-- `PORT_LANE_FAILURE` (R403): a failure in UP or DETERMINISTIC, a recovery in DEGRADED. -/
def execPortLaneFailure (port : Nat) (s : State) : Host.Outcome State Fault Refusal :=
  .next (if (s.port port).live then s.enterPort port pTRAINING else s)

/-- `PORT_SIGNAL_LOSS` (R403). -/
def execPortSignalLoss (port : Nat) (s : State) : Host.Outcome State Fault Refusal :=
  .next (if (s.port port).live then s.enterPort port pDOWN else s)

/-- `FLIT_CRC_FAIL` (R401): the link replays the flit, and nothing is lost. -/
def execFlitCrcFail (_port : Nat) (s : State) : Host.Outcome State Fault Refusal := .next s

/-! ### Time -/

/-- The servo's increment per array cycle, in units of 2^-32 ns: a third of a nanosecond at full clock, scaled with
die 0's clock (R453) and slewed by at most 100 parts per million (R415, notes/assumptions/16). -/
def timeIncrement (pct : Nat) (rate : Int) : BitVec 96 :=
  BitVec.ofInt 96 ((2 ^ 32 * 100 / (3 * (pct : Int))) * (1000000 + max (-100) (min 100 rate)) / 1000000)

/-- Sets the increment from the servo's rate and die 0's clock. -/
def State.slew (s : State) : State :=
  { s with link := { s.link with timeIncr := timeIncrement (s.dev.clkpct.getD 0 100).toNat s.link.rate } }

/-- A step of `TIME` by `d` nanoseconds (R415). -/
def State.stepTime (s : State) (d : Int) : State :=
  let s := { s with link := { s.link with time := s.link.time + BitVec.ofInt 96 (d * 2 ^ 32), stepped := true } }
  s.unlock.event 0x0302 .core 0 (BitVec.ofInt 64 d).toNat 0

/-- `SYNC_MESSAGE` (R415 to R417): a timing message of the parent on a port, with the servo's offset estimate in
nanoseconds, its rate in parts per million, and the computed bound. -/
def execSyncMessage (port : Nat) (offset rate : Int) (bound : Word) (s : State) : Host.Outcome State Fault Refusal :=
  .next (if !s.link.tsEn ∨ (port < 6 ∧ !(s.port port).live) then s else
    let s := ({ s with link := { s.link with parent := some port, rate := rate } } : State).slew
    if 10000 < offset.natAbs then s.stepTime offset else
    let good := if 4 * offset.natAbs ≤ bound.toNat then min 16 (s.link.syncGood + 1) else 0
    let lock := s.link.lock || good = 16
    { s with link := { s.link with
        syncGood := good, lock := lock, skewbound := if lock then BitVec.ofNat 32 (2 * bound.toNat) else BitVec.allOnes 32 } })

/-- `LOCK_TIMEOUT` (R417): eight sync intervals without a message of the parent. -/
def execLockTimeout (s : State) : Host.Outcome State Fault Refusal := .next s.unlock

/-! ### The host port -/

/-- `HOST_PORT_LANE_FAILURE` (R419): ×8 or ×4. -/
def execHostPortLaneFailure (width : Nat) (s : State) : Host.Outcome State Fault Refusal :=
  .next (if (width = 8 ∨ width = 4) ∧ width < s.dev.hostWidth then { s with dev := { s.dev with hostWidth := width } } else s)

/-! ### Engine commands -/

/-- The tiles of `acc` that a command's completion opens and closes (R227). -/
def tilesOpened (i : Instr) : BitVec 4 × BitVec 4 :=
  let one := fun (c : BitVec 2) => (1 : BitVec 4) <<< c.toNat
  match i with
  | .mma _ c .. | .mmaExt _ c .. | .mspb _ c .. | .mspbExt _ c .. | .mscr _ c .. | .mscrExt _ c .. | .mscn _ c .. | .mscnExt _ c .. => (one c, 0)
  | .mzero _ m => (0, m)
  | .mdrain _ c _ => (0, one c)
  | .mdrainExt _ c _ x => (0, if x.cr = 1 then 0 else one c)
  | .mdrainQ _ c _ _ x => (0, match x with
    | some x => if x.cr = 1 then 0 else one c
    | none => one c)
  | _ => (0, 0)

/-- The oldest M command in progress completes: `MROWP` is cleared unless it tells where a stopped command resumes, tiles open
and close, and with none open an accumulator retirement is reached (R224, R227). -/
def Cell.completeM (x : Cell) (k : Command) (now : Nat) : Cell :=
  let (o, c) := tilesOpened k.instr
  let open_ := (x.m.openTiles ||| o) &&& ~~~c
  let x := x.modEngine .m Engine.complete
  { x with m := { x.m with
      openTiles := open_, rowNext := if x.m.rowValid then x.m.rowNext else 0
      retiredAt := if open_ = 0 ∧ x.em.inprog.isEmpty ∧ x.em.nextStep = 0 then now else x.m.retiredAt } }

/-- The oldest C command in progress completes, when it may: `COPY.F` waits for the injection slot (R38), `LAND` for
its credit (R409). -/
def Cell.completeC (x : Cell) (k : Command) (now : Nat) : Option Cell :=
  let x := x.modEngine .c Engine.complete
  match k.instr with
  | .copyF _ _ _ _ inner =>
    if x.m.inject.isSome then none
    else some { x with m := { x.m with inject := some { pc := k.entry.pc, word := inner, tag := k.entry.tag, inj := true }, injectSince := now } }
  | .land .. => if x.c.landOut.isSome then none else some x
  | _ => some x

/-- `COMMAND_COMPLETION` (R230, R259): in program order. -/
def execCommandCompletion (cell : Nat) (st : Stream) (s : State) : Host.Outcome State Fault Refusal :=
  let x := s.cell cell
  .next (match st, (x.engine st).inprog with
    | .m, k :: _ => s.setCell cell (x.completeM k s.cycle)
    | .c, k :: _ => (match x.completeC k s.cycle with
        | some y => s.setCell cell y
        | none => s)
    | _, _ => s)

/-- The packet of a `LAND` leaves once it holds a slot of its destination's buffer; on this module that slot must be free (R409). -/
def State.landCredit (s : State) (c : Nat) : State :=
  match (s.cell c).c.landOut with
  | none => s
  | some (dst, dcell, p) =>
    let room : Bool := dst ≠ s.moduleNumber || s.loopLandings dcell < (s.cell dcell).landingRoom
    match s.route dst with
    | none => s
    | some port =>
      if !room || s.routeHeld c dst port 2 then s else
      let s := s.modCell c fun x => { x with c := { x.c with landOut := none } }.charge (x.weights.linkB.toNat * p.payload.length)
      s.send { dst := dst, port := port, cell := c, agent := .stream .c, ctx := p.ctx, sentAt := s.cycle, payload := .landing dcell p }

/-- A packet whose acknowledgement has no further effect (R406). -/
def OutPacket.plain (p : OutPacket) (home : Nat) : Bool :=
  match p.payload with
  | .landing .. => p.dst ≠ home || p.applied
  | .group _ => Config.cells ≤ p.cell
  | .chunk _ | .reply .. | .stealAck _ | .stealReturn _ => true
  | _ => false

/-- `LANDING_CREDIT` (R406, R409): the credit for the `LAND` of a cell, or the acknowledgement of sent packet `k`. -/
def execLandingCredit (cell k : Nat) (acked : Bool) (s : State) : Host.Outcome State Fault Refusal :=
  .next (if !acked then s.landCredit cell else
    match s.link.out[k]? with
    | some p => if p.plain s.moduleNumber then { s with link := { s.link with out := s.link.out.eraseIdx k } } else s
    | none => s)

end Sys2Proof.Machine
end

