-- ==== Sys2Proof/Machine/EventsDebug.lean ====
section
/-! DEFINITION. The debugger's stops, steps and breakpoints (R430 to R434), the stall classes and samples (R436 to R438),
fenced cells and the module halt (R427, R428), correctable errors (R426) and the black box's registers (R442). -/

namespace Sys2Proof.Machine

/-! ### Stopping -/

/-- The first debug register with `HALT` as given and its other fields unchanged (R430). -/
def Debug.control (d : Debug) (halt : Bool) : DWord := BitVec.ofNat 64 (bit halt + 4 * d.sstrm.toNat + 16 * bit d.brken)

/-- `CELL_HALT` (R431). -/
def execCellHalt (cell : Nat) (s : State) : Host.Outcome State Fault Refusal :=
  .next (if cell < Config.cells then s.haltWrite cell ((s.cell cell).dbg.control true) else s)

/-- `CELL_RESUME` (R432). -/
def execCellResume (cell : Nat) (s : State) : Host.Outcome State Fault Refusal :=
  .next (if (s.cell cell).dbg.stopped then s.haltWrite cell ((s.cell cell).dbg.control false) else s)

/-- Waits that a stop abandons (R431). -/
def abandoned (i : Instr) : Bool :=
  match i with
  | .waitc .. | .twait .. | .fence .. | .waitt .. | .barrWait .. | .gctlWait .. => true
  | _ => false

/-- The wait of S or of a wicket is given up: its instruction has not issued (R431). -/
def Issue.abandon (i : Issue) : Issue :=
  match i.wait, i.unfinished.getLast? with
  | some _, some u =>
    if !abandoned u.instr then i
    else if u.replayed then { i with unfinished := i.unfinished.dropLast, wait := none, replay := { u with sent := false, value := none } :: i.replay }
    else { i with unfinished := i.unfinished.dropLast, wait := none, pc := u.pc }
  | _, _ => i

/-- An issued signal or shutter pass that has not taken effect. -/
def Unfinished.passes (u : Unfinished) : Bool :=
  match u.finish with
  | .signal .. | .pass .. => true
  | _ => false

/-- S and the wickets. -/
def issuers : List Agent := [.stream .s, .wicket 0, .wicket 1, .wicket 2]

/-- Finishes the signals and passes of an agent that may finish, `fuel` at most. -/
def State.passAll (s : State) (c : Nat) (ag : Agent) (fuel : Nat) : State :=
  match fuel with
  | 0 => s
  | fuel + 1 =>
    match ((s.cell c).issue ag).unfinished.findIdx? Unfinished.passes with
    | none => s
    | some k => (s.finishEntry c ag k).passAll c ag fuel

/-- Sets a cell STOPPED at a cut (R431): waits are given up, and an M command that has begun keeps its next step in
`MROWP`. -/
def Cell.stopNow (x : Cell) (why : BitVec 3) : Cell :=
  let m := if x.em.nextStep = 0 then x.m else { x.m with rowNext := BitVec.ofNat 24 x.em.nextStep, rowValid := true }
  { x with
    dbg := { x.dbg with stopped := true, stopping := none, stepping := none, why := why }
    m := m, s := { x.s with iss := x.s.iss.abandon }, wickets := x.wickets.map fun k => { k with iss := k.iss.abandon } }

/-- `CELL_STOP_COMPLETE` (R431): every signal and pass of an issued entry has taken effect. -/
def execCellStopComplete (cell : Nat) (s : State) : Host.Outcome State Fault Refusal :=
  .next (match (s.cell cell).dbg.stopping with
    | none => s
    | some why =>
      let s := issuers.foldl (fun (s : State) ag => s.passAll cell ag 8) s
      if issuers.any fun ag => ((s.cell cell).issue ag).unfinished.any Unfinished.passes then s
      else s.modCell cell fun x => x.stopNow why)

/-- `CELL_STEP` (R433): stream `st` makes its move in the next step of the model. -/
def execCellStep (cell : Nat) (st : Stream) (s : State) : Host.Outcome State Fault Refusal :=
  let x := s.cell cell
  .next (if !x.dbg.stopped || x.dbg.why = 4 || x.dbg.stepping.isSome then s else
    let s := s.setCell cell { x with dbg := { x.dbg with stepping := some st, stepblk := false } }
    { s with agenda := .agent cell (.stream st) :: s.agenda })

/-- The end of a debug step (R433). -/
def State.endStep (s : State) (c : Nat) (blocked : Bool) : State :=
  s.modCell c fun x => let y := x.stopNow 3; { y with dbg := { y.dbg with stepblk := blocked } }

/-! ### Breakpoints -/

/-- Program counter and iteration tag of the entry at a stream's point of issue (R434); none for one that has begun,
waits, or is injected. -/
def Cell.issuePoint (x : Cell) (st : Stream) : Option (DWord × Nat) :=
  match st with
  | .s => if x.s.ended || x.s.iss.wait.isSome || x.s.iss.blocked then none else some (x.s.iss.nextPc, 0)
  | st =>
    let g := x.engine st
    if !g.started || g.ended || g.stopped || g.quiesced || g.nextStep ≠ 0 then none
    else (x.head st).bind fun h => if h.inj then none else some (h.pc, h.tag)

/-- A breakpoint register matches an entry of a stream (R434). -/
def Breakpoint.hit (b : Breakpoint) (st : Stream) (p : DWord × Nat) : Bool :=
  b.en && b.strm.toNat = streamNumber st && pcwPc (b.pcw.setWidth 64 <<< 2) = p.1 && (b.anyTag || b.tag.toNat = p.2)

/-- The lowest breakpoint that matches at a stream's point of issue (R434). -/
def Cell.breakpoint (x : Cell) (st : Stream) : Option Nat :=
  if !x.dbg.brken || x.dbg.holds || x.dbg.bpSkip = some st || x.res.image ≠ .active then none
  else (x.issuePoint st).bind fun p => x.dbg.bps.findIdx? fun b => b.hit st p

/-- BREAK: the cell begins to stop (R434). -/
def State.takeBreak (s : State) (c : Nat) (st : Stream) (n : Nat) : State :=
  (s.modCell c fun x => { x with dbg := { x.dbg with
    stopping := some 2, bstrm := BitVec.ofNat 2 (streamNumber st), bnum := BitVec.ofNat 2 n, bpSkip := some st } }).interrupt 1

/-- `BREAKPOINT_MATCH` (R434). -/
def execBreakpointMatch (cell : Nat) (s : State) : Host.Outcome State Fault Refusal :=
  let x := s.cell cell
  let hits := ([Stream.s, .v, .m, .c].filterMap fun st => (x.breakpoint st).map fun n => (n, st))
  .next (match hits.foldl (fun best h => match best with
      | some b => if h.1 < b.1 then some h else some b
      | none => some h) none with
    | some (n, st) => s.takeBreak cell st n
    | none => s)

/-! ### Stall classes and samples -/

/-- The token and count that the head of an engine stream waits for. -/
def Cell.tokenLack (x : Cell) (st : Stream) : Option Nat :=
  let lack := fun (k : BitVec 5) (n : BitVec 12) => if x.token k.toNat < n.toNat then some k.toNat else none
  match x.headInstr st with
  | some (.vtwait _ _ k n) => lack k n
  | some (.mtwait _ k n) => lack k n
  | some (.ctwait _ k n) => lack k n
  | _ => none

/-- The head of an engine stream is stalled on a shutter or in a pop. -/
def Cell.tileLack (x : Cell) (st : Stream) : Bool :=
  let closed := fun (t : Nat) => decide (x.shutter t ≠ agentCode (.stream st))
  match x.headInstr st with
  | some (.vld _ _ t _ _) | some (.vst _ _ t _ _) | some (.vqnt _ _ _ _ t) | some (.vshut _ _ t _) | some (.mshut _ t _) | some (.cshut _ t _) => closed t.toNat
  | some (.vsld _ _ n _) | some (.vsst _ _ n _) =>
    let a := x.v.stream n
    a.bound && closed (a.pos / 64)
  | some i => (x.closedTile st (tileOperands i)).isSome
  | none => false

/-- The class of the head of an engine stream that issues nothing in this cycle (R436). -/
def Cell.idleClass (x : Cell) (st : Stream) : BitVec 2 :=
  if (x.head st).isNone then 3 else if (x.tokenLack st).isSome || x.tileLack st then 1 else 2

/-- A stream in a wait on a token, with the token (R436). -/
def Cell.tokenWaits (x : Cell) : List Nat :=
  (x.waitsOn .s).toList ++ engines.filterMap x.tokenLack

/-- Counts one cycle of a cell (R436, R437). `issued` is the engine stream whose head entry has issued in it. -/
def Cell.countCycle (x : Cell) (issued : Option Stream) : Cell :=
  if x.res.image ≠ .active || x.res.task.isNone || x.dbg.holds then x else
  let cls := engines.map fun st => if issued = some st then 0 else x.idleClass st
  let runs := engines.map fun st => (x.engine st).started && !(x.engine st).ended
  let hc := mapFrom 0 (fun i (v : DWord) => if runs.getD (i / 4) false && (cls.getD (i / 4) 0).toNat = i % 4 then v + 1 else v) x.dbg.hc
  let tw := x.tokenWaits.foldl (fun (l : List DWord) k => modAt l k fun v => v + 1) x.dbg.tw
  { x with dbg := { x.dbg with hc := hc, tw := tw, cls := cls } }

/-- `SAMPLE_LATCH` (R438): at the end of a period, while the cell is neither stopped nor idle. -/
def execSampleLatch (cell : Nat) (s : State) : Host.Outcome State Fault Refusal :=
  let x := s.cell cell
  let d := x.dbg
  .next (if d.smpPer = 0 ∨ s.cycle < d.smpAt + 1024 * d.smpPer.toNat ∨ d.holds ∨ x.res.image ≠ .active ∨ x.res.task.isNone then s
    else s.setCell cell { x with dbg := { d with
      smp := [x.s.iss.nextPc, x.headPos .v, x.headPos .m, x.headPos .c]
      smpCls := BitVec.ofNat 6 ((d.cls.getD 0 0).toNat + 4 * (d.cls.getD 1 0).toNat + 16 * (d.cls.getD 2 0).toNat)
      smpCnt := d.smpCnt + 1, smpAt := s.cycle } })

/-! ### Fences and the module halt -/

/-- A fenced cell (R427): nothing moves in it, and no packet stays in its landing buffer. -/
def Cell.fence (x : Cell) : Cell :=
  { x with
    res := { x.res with fenced := true, task := none, image := .none, stop := none }
    ev := { x.ev with started := false }, em := { x.em with started := false }, ec := { x.ec with started := false }
    wickets := x.wickets.map fun k => { k with running := false, packet := none, iss := {}, alone := false } }

/-- Fences a cell without a record of it in the black box (R427, R446). -/
def State.fenceCell (s : State) (c : Nat) : State :=
  let s := (List.range 16).foldl (fun (s : State) k => s.discardPacket c k) s
  let s := s.modCell c Cell.fence
  { s with dev := { s.dev with degr := true } }

/-- `CELL_FENCE` (R427, R429): the task is cancelled without a save, its context becomes FAULTED, then the event is written. -/
def execCellFence (cell : Nat) (structure_ : DWord) (s : State) : Host.Outcome State Fault Refusal :=
  let x := s.cell cell
  .next (if Config.cells ≤ cell ∨ x.res.fenced then s else
    let task := x.res.task.bind fun n => (s.task n).map fun t => (n, t)
    let s := match task with
      | some (n, t) => ((s.groupErr t.record.launchid).finishTask n true)
      | none => s
    let s := s.fenceCell cell
    let s := match task with
      | some (_, t) => let (v, s) := s.takeFree; s.faultContext t.record.ctxid v.toNat cell
      | none => s
    let id := match task with
      | some (_, t) => t.record.taskid.toNat
      | none => 0
    (s.event 0x0401 (.cell cell) x.res.ctx structure_.toNat id).interrupt 0)

/-- A cell's stop by a module halt (R428, R431): a cell with a signal or pass that has not taken effect is stopping until
it has. -/
def Cell.haltStop (x : Cell) : Cell :=
  if issuers.any fun ag => (x.issue ag).unfinished.any Unfinished.passes then { x with dbg := { x.dbg with stopping := some 4 } } else x.stopNow 4

/-- Halts the module (R428, R447): cells stop with `WHY` 4, ACTIVE contexts become FAULTED, then the event is written. -/
def State.haltModule (s : State) (structure_ die : Nat) : State :=
  if s.dev.halted then s else
  let s := { s with
    cells := s.cells.map Cell.haltStop
    dev := { s.dev with halted := true, mstate := 2 } }
  let active := (s.disp.contexts.filter fun (_, k) => k.state = .active).map Prod.fst
  let s := active.foldl (fun (s : State) c => let (v, s) := s.takeFree; s.faultContext (BitVec.ofNat 16 c) v.toNat Config.cells) s
  (s.event 0x0402 (.die die) 0 structure_ die).interrupt 0

/-- `MODULE_HALT` (R428, R429). -/
def execModuleHalt (structure_ : DWord) (die : Nat) (s : State) : Host.Outcome State Fault Refusal :=
  .next (s.haltModule structure_.toNat die)

/-- `CORRECTABLE_ERROR` (R426): the first of each period of a die writes the count of the period before. -/
def execCorrectableError (die : Nat) (s : State) : Host.Outcome State Fault Refusal :=
  .next (if Config.dies ≤ die then s else
    let now := s.cycle / 3000000 + 1
    let last := s.timers.correctable.getD die 0
    let n := s.dev.ceCounts.getD die 0
    if last = now then { s with dev := { s.dev with ceCounts := s.dev.ceCounts.set die (n + 1) } } else
    let s := { s with
      dev := { s.dev with ceCounts := s.dev.ceCounts.set die 1 }
      timers := { s.timers with correctable := s.timers.correctable.set die now } }
    s.event 0x0104 (.die die) 0 (if last + 1 = now then n else 0) 0)

/-! ### The black box -/

/-- `BLACK_BOX_FREEZE` (R442). -/
def execBlackBoxFreeze (s : State) : Host.Outcome State Fault Refusal :=
  .next { s with bb := { s.bb with freeze := true, frozen := true } }

/-- `BLACK_BOX_UNFREEZE` (R442). -/
def execBlackBoxUnfreeze (s : State) : Host.Outcome State Fault Refusal :=
  .next { s with bb := { s.bb with freeze := false, frozen := false, lost := 0 } }

/-- The four doublewords of a record (R439). -/
def BbRecord.data (r : BbRecord) : List DWord :=
  [r.time,
   BitVec.ofNat 64 (r.seq.toNat + 2 ^ 32 * r.code.toNat + 2 ^ 48 * r.sev.toNat + 2 ^ 56 * r.srck.toNat),
   BitVec.ofNat 64 (r.srcn.toNat + 2 ^ 16 * r.ctx.toNat + 2 ^ 32 * r.info2.toNat),
   r.info]

/-- `BB_RIDX` (R440, R442): the newest record of the slot; a slot that holds none reads 0. -/
def execBbRidx (v : BitVec 12) (s : State) : Host.Outcome State Fault Refusal :=
  .next { s with bb := { s.bb with
    ridx := v, data := ((s.bb.records.find? fun r => r.seq.toNat % 4096 = v.toNat).getD {}).data } }

end Sys2Proof.Machine
end

