-- ==== Sys2Proof/Machine/EventsDevice.lean ====
section
/-! DEFINITION. Power-on and warm reset (R440, R445, R446), firmware and attestation (R448 to R450), temperatures, clocks
and coolant (R451 to R455), uncorrectable errors (R422, R425), and the management register block (R443 to R457). -/

namespace Sys2Proof.Machine

/-! ### Reset -/

/-- Failed steps of the self-test, one bit a step (R444, R445): an image older than the fused minimum fails step 2 (R448). -/
def failedSteps (t : SelfTest) (fusedMin : Word) : BitVec 16 := if t.imageVersion < fusedMin then t.badSteps ||| 4 else t.badSteps

/-- The events of the eight steps (R445): the die, and the units that a failing step names, are left free
(notes/assumptions/100). -/
def State.testEvents (s : State) (bad : BitVec 16) (n : Nat) : State :=
  match n with
  | 0 => s
  | n + 1 =>
    let s := s.testEvents bad n
    let (d, s) := s.takeFree
    if bad.getLsbD (n + 1) then (let (v, s) := s.takeFree; s.event 0x0601 .core 0 v.toNat d.toNat) else s.event 0x0601 .core 0 0 d.toNat

/-- The digest of a measurement register extended with `d` (R449). -/
def extend (m d : BitVec 512) : BitVec 512 := Config.digest (leBytes 64 m.toNat ++ leBytes 64 d.toNat)

/-- The weights that the core loads into a cell (R315, R445). -/
def loadWeights (t : SelfTest) (c : Nat) : Weights :=
  let w := (List.range 9).foldl (fun (w : Weights) k => w.put k (t.weights.getD k 0)) {}
  w.put 9 (t.staticW.getD (dieOf c) 0)

/-- The self-test and its outcome (R445, R446, R448, R449): READY with failed cells fenced, or SAFE. An image that is both old
and badly signed is reported as old (notes/assumptions/100). -/
def State.selfTest (s : State) (t : SelfTest) : State :=
  let bad := failedSteps t s.dev.fusedMin
  let other := bad &&& ~~~(0x40 : BitVec 16)
  let cells := (List.range Config.cells).filter fun c => t.badCells.contains c
  let s := s.testEvents (if cells.isEmpty then other else other ||| 0x40) 8
  let step := ((List.range 9).find? fun n => other.getLsbD n).getD 8
  let detail : BitVec 16 := if step ≠ 2 then t.detail else if t.imageVersion < s.dev.fusedMin then 2 else 1
  let ok := other = 0 && cells.length < Config.cells
  let post := (List.range 3).map fun i => BitVec.ofNat 64 (((List.range 64).filter fun j => cells.contains (64 * i + j)).foldl (fun a j => a + 2 ^ j) 0)
  { s with
    cells := mapFrom 0 (fun c (x : Cell) => { x with weights := loadWeights t c, res := { x.res with fenced := cells.contains c } }) s.cells
    dev := { s.dev with
      mstate := if ok then 1 else 2, postUnits := other, postCells := post, degr := !cells.isEmpty
      mbox := s.dev.mbox.set 0 (BitVec.ofNat 64 (step + 65536 * detail.toNat))
      imageVersion := t.imageVersion
      meas := if other.getLsbD 2 then [0, 0] else [extend 0 t.imageDigest, 0] } }

/-- The module at power-on or after a reset: what is fused, and the free values not used yet, stay. -/
def State.restarted (s : State) : State :=
  { State.reset with free := s.free, dev := { State.reset.dev with fusedMin := s.dev.fusedMin } }

/-- `POWER_ON` (R445). -/
def execPowerOn (t : SelfTest) (s : State) : Host.Outcome State Fault Refusal := .next (s.restarted.selfTest t)

/-- `RSTCMD` (R440, R444, R445): 0x5A makes a warm reset, which keeps the black box and writes event 0x0602. Memory
starts as at power-on (notes/assumptions/36). -/
def execRstcmd (v : BitVec 8) (t : SelfTest) (s : State) : Host.Outcome State Fault Refusal :=
  .next (if v ≠ 0x5A then s else
    let r := s.restarted
    let r := { r with bb := { s.bb with fresh := 0 }, dev := { r.dev with warm := true, hostWidth := s.dev.hostWidth } }
    (r.event 0x0602 .core 0 s.bb.seq.toNat 0).selfTest t)

/-- `POWER_LOSS` (R440). -/
def execPowerLoss (s : State) : Host.Outcome State Fault Refusal := .next s.restarted

/-! ### Attestation -/

/-- `MGMT_ID` (R444). -/
def mgmtId : Nat := 0x9602

/-- `ATT_GO` (R450). -/
def execAttGo (s : State) : Host.Outcome State Fault Refusal :=
  let d := s.dev
  .next (if d.attBusy then s else
    { s with dev := { d with
      attBusy := true, attDone := false
      report := leBytes 32 d.attNonce.toNat ++ leBytes 8 mgmtId ++ leBytes 64 (d.meas.getD 0 0).toNat ++ leBytes 64 (d.meas.getD 1 0).toNat } })

/-- `ATTESTATION_SIGN_COMPLETE` (R450). -/
def execAttestationSignComplete (s : State) : Host.Outcome State Fault Refusal :=
  .next (if s.dev.attBusy then { s with dev := { s.dev with attBusy := false, attDone := true } } else s)

/-- Doubleword `k` of the report (R449, R450): the snapshot, then the signature; 0 while no report is ready and beyond it. -/
def Device.attData (d : Device) (k : Nat) : DWord :=
  if !d.attDone || 3745 ≤ k then 0
  else BitVec.ofNat 64 (leNat ((List.range 8).map fun i =>
    let o := 8 * k + i
    if o < 168 then d.report.getD o 0 else Config.signature d.report (o - 168)))

/-- `CONFIG_BLOCK_ACCEPT` (R449). -/
def execConfigBlockAccept (digest : BitVec 512) (s : State) : Host.Outcome State Fault Refusal :=
  .next { s with dev := { s.dev with meas := [s.dev.meas.getD 0 0, extend (s.dev.meas.getD 1 0) digest] } }

/-- `FUSED_MINIMUM_RAISE` (R448): of an image that step 2 accepted. -/
def execFusedMinimumRaise (s : State) : Host.Outcome State Fault Refusal :=
  .next (if s.dev.postUnits.getLsbD 2 ∨ s.dev.mstate = 0 then s
    else { s with dev := { s.dev with fusedMin := if s.dev.fusedMin < s.dev.imageVersion then s.dev.imageVersion else s.dev.fusedMin } })

/-! ### Temperatures and clocks -/

/-- Thresholds of the points WARN, SOFT, HARD and TRIP, in 1/16 °C (R452). -/
def thermalThreshold (p : Nat) : Int :=
  match p with
  | 1 => 1600
  | 2 => 1680
  | 3 => 1792
  | _ => 1920

/-- A point is in force at a temperature, after `old` was the highest point in force (R452). -/
def pointInForce (old p : Nat) (t : Int) : Bool := thermalThreshold p ≤ t || (p ≤ old && thermalThreshold p - 48 ≤ t)

/-- The highest reading and the sensor that gave it. -/
def hottest (l : List (BitVec 12)) : Int × Nat :=
  (List.range l.length).foldl (fun (b : Int × Nat) k => if b.1 < (l.getD k 0).toInt then ((l.getD k 0).toInt, k) else b) ((l.getD 0 0).toInt, 0)

/-- `THERMAL_SENSOR_UPDATE` (R451 to R453), every 10 µs of a die: eight readings, and the `STATIC_W` that the core
writes for the die's temperature. TRIP halts the module. -/
def execThermalSensorUpdate (die : Nat) (tj : List (BitVec 12)) (staticW : BitVec 16) (s : State) : Host.Outcome State Fault Refusal :=
  .next (if Config.dies ≤ die ∨ s.cycle < s.timers.thermal.getD die 0 + 30000 then s else
    let l := (List.range 8).map fun k => tj.getD k 0
    let (t, sensor) := hottest l
    let old := (s.dev.tpoint.getD die 0).toNat
    let force := [1, 2, 3, 4].filter fun p => pointInForce old p t
    let top := force.foldl max 0
    let s := { s with
      timers := { s.timers with thermal := s.timers.thermal.set die s.cycle }
      cells := mapFrom 0 (fun c (x : Cell) => if dieOf c = die then { x with weights := x.weights.put 9 staticW } else x) s.cells
      dev := { s.dev with
        tj := mapFrom 0 (fun k (v : BitVec 12) => if k / 8 = die then l.getD (k % 8) 0 else v) s.dev.tj
        tpoint := s.dev.tpoint.set die (BitVec.ofNat 3 top) } }
    let s := (force.filter fun p => old < p).foldl (fun (s : State) p => s.event 0x0501 (.die die) 0 p sensor) s
    if top = 4 ∧ old < 4 then s.haltModule 0xFF die else s)

/-- `CLOCK_STEP` (R452), every 100 µs of a die: 5 percent down while SOFT is in force, 5 percent up after. -/
def execClockStep (die : Nat) (s : State) : Host.Outcome State Fault Refusal :=
  .next (if Config.dies ≤ die ∨ s.cycle < s.timers.clock.getD die 0 + 300000 then s else
    let p := (s.dev.clkpct.getD die 100).toNat
    let q := if 2 ≤ (s.dev.tpoint.getD die 0).toNat then max 50 (p - 5) else min 100 (p + 5)
    ({ s with
      timers := { s.timers with clock := s.timers.clock.set die s.cycle }
      dev := { s.dev with clkpct := s.dev.clkpct.set die (BitVec.ofNat 7 q) } } : State).slew)

/-- The lower bound of a refresh band, in 1/16 °C (R454). -/
def bandBound (b : Nat) : Int :=
  match b with
  | 1 => 1360
  | 2 => 1520
  | _ => 1680

/-- The refresh band at a temperature, from band `old` (R454). -/
def refreshBand (old : Nat) (t : Int) : Nat :=
  ([1, 2, 3].filter fun b => decide (bandBound b < t) || (b ≤ old && decide (bandBound b - 32 < t))).foldl max 0

/-- `HBM_TEMP_UPDATE` (R454). -/
def execHbmTempUpdate (stack : Nat) (t : BitVec 12) (s : State) : Host.Outcome State Fault Refusal :=
  .next (if 12 ≤ stack then s else
    { s with dev := { s.dev with
      hbmT := s.dev.hbmT.set stack t
      rfx := s.dev.rfx.set stack (BitVec.ofNat 2 (refreshBand (s.dev.rfx.getD stack 0).toNat t.toInt)) } })

/-- `COOLANT_SAMPLE` (R455): an inlet that reaches 58.5 °C writes event 0x0501 with point 5. -/
def execCoolantSample (inlet outlet : BitVec 12) (s : State) : Host.Outcome State Fault Refusal :=
  let t := { s with dev := { s.dev with inlet := inlet, outlet := outlet } }
  .next (if 936 ≤ inlet.toInt ∧ s.dev.inlet.toInt < 936 then t.event 0x0501 .core 0 5 0xFFFF else t)

/-! ### Uncorrectable errors -/

/-- Source and address of the event of an error (R441). -/
def siteReport (x : ErrorSite) : Src × Nat :=
  let win := fun (c off : Nat) => (Src.cell c, windowBase + c * 2 ^ 24 + off)
  match x with
  | .dram pa | .block pa | .sidecar pa | .tolerant pa => (.controller (homeDie pa), pa)
  | .cluster pa => (.quad (homeQuad pa), pa)
  | .pad c off => win c off
  | .scalarReg c r => win c (0x910000 + 8 * r)
  | .vectorReg c r => win c (0x900000 + 256 * r)
  | .accRow c r => win c (0x800000 + 256 * r)
  | .codebook c e => win c (0x920000 + 8 * e)
  | .landing c _ => win c 0

/-- The number in the event of an error (R14, R16, R440): the stack of an HBM address, which is one of its die's three, the
port of a CXL address; the package or structure is free, and so is which of a die's stacks it is. -/
def siteNumber (x : ErrorSite) (free : Nat) : Nat :=
  match x with
  | .dram pa | .block pa | .sidecar pa | .tolerant pa =>
    (match place pa with
     | .hbm => homeDie pa * 3 + free % 3
     | .lpd => free % 24
     | .cxl => homeDie pa - 1
     | _ => free % 2 ^ 32)
  | _ => free % 2 ^ 32

/-- No one holds slot `k` of a cell's landing buffer any longer. -/
def Cell.forgetPacket (x : Cell) (k : Nat) : Cell :=
  let keep := fun (p : Option Nat) => p.filter fun i => i ≠ k
  { x with s := { x.s with packet := keep x.s.packet }, wickets := x.wickets.map fun w => { w with packet := keep w.packet } }

/-- `UNCORRECTABLE_DATA_ERROR` (R279, R422, R425): the location fails its reads from now on; a codebook entry becomes
invalid, a landing packet is discarded. On a tolerant page nothing detects it: the byte takes a free value (R288,
notes/assumptions/115). The event is written when the error strikes (notes/assumptions/38). -/
def execUncorrectableDataError (site : ErrorSite) (s : State) : Host.Outcome State Fault Refusal :=
  .next (match site with
    | .landing c k => (s.discardPacket c k).modCell c fun x => x.forgetPacket k
    | .tolerant pa =>
      let (v, s) := s.takeFree
      { s with mem := { s.mem with views := s.mem.views.map fun m => m.write pa (BitVec.ofNat 8 v.toNat) } }
    | site =>
      let (v, s) := s.takeFree
      let (src, addr) := siteReport site
      let s := s.event (match site with | .dram _ | .block _ | .sidecar _ => 0x0103 | _ => 0x0105) src 0 addr (siteNumber site v.toNat)
      match site with
      | .codebook c e => s.modCell c fun x => { x with c := { x.c with banks := modAt x.c.banks e fun b => (b.1, false) } }
      | site => { s with mem := { s.mem with uncorr := s.mem.uncorr ++ [site] } })

/-! ### Management registers -/

/-- Registers that the safe state keeps (R447). -/
def safeRegister (off : Nat) : Bool :=
  off < 0x80 || (0x300 ≤ off && off < 0x340) || (0x400 ≤ off && off < 0x5A8) || (0x600 ≤ off && off < 0x700)

/-- A register's value from its fields: low bit and value. -/
def fields (l : List (Nat × Nat)) : Nat := l.foldl (fun a (o, v) => a + v * 2 ^ o) 0

/-- Registers of the identity, the dispatcher and the page engine (R291, R321, R357, R362, R399, R444). -/
def State.mgmtDispatch (s : State) (off : Nat) : Nat :=
  let d := s.disp
  match off with
  | 0x0100 => d.ctxtbl.toNat
  | 0x0110 => fields [(0, bit d.ctxBusy), (1, d.ctxResult.toNat)]
  | 0x0118 => d.qtbl.toNat
  | 0x0128 => d.qcmdArg.toNat
  | 0x0130 => fields [(0, bit d.qbusy), (1, d.qresult.toNat)]
  | 0x0138 => d.spillbase.toNat
  | 0x0140 => d.ageStep.toNat
  | 0x0148 => d.preemptDelta.toNat
  | 0x0150 => fields [(0, d.lowMark.toNat), (16, d.highMark.toNat), (32, d.stealMax.toNat), (40, bit d.stealEn)]
  | 0x0158 => fields [(0, bit d.weirRel), (16, (d.tasks.filter fun (_, t) => t.state = .running && t.record.weir).length % 65536)]
  | 0x0160 => s.poolCount
  | 0x0168 => d.gtbl.toNat
  | 0x0178 => fields [(0, d.jsQid.toNat), (11, d.jsPart.toNat)]
  | 0x0180 => fields [(0, bit d.jsBusy), (1, d.jsStat.toNat), (4, d.jsKst.toNat), (32, d.jsJob.toNat)]
  | 0x0190 => d.btbl.toNat
  | 0x0198 => s.page.hotbase.toNat
  | 0x01A0 => fields [(0, bit s.page.hotEn), (8, s.page.decay.toNat)]
  | 0x01A8 => s.page.skipPinned.toNat
  | 0x01B0 => s.page.pginvVa.toNat
  | 0x01C0 => fields [(0, bit s.page.pginv.isSome), (8, s.page.sluice.length)]
  | 0x01C8 => d.jsKhdr.toNat
  | _ => 0

/-- Registers of the link, of time and of the black box (R400, R402, R408, R418, R442). -/
def State.mgmtLink (s : State) (off : Nat) : Nat :=
  let l := s.link
  if 0x0200 ≤ off ∧ off < 0x0260 then
    let p := s.port ((off - 0x200) / 16)
    if off % 16 = 0 then fields [(0, bit p.en), (1, bit p.detreq), (2, p.ptprole.toNat)]
    else fields [(0, p.state.toNat), (16, p.retrains.toNat), (32, p.lostpk.toNat)]
  else match off with
  | 0x0260 => fields [(0, l.mx.toNat), (4, l.my.toNat), (8, l.mz.toNat), (12, l.dxm.toNat), (16, l.dym.toNat), (20, l.dzm.toNat)]
  | 0x0268 => fields [(0, l.detrate.toNat), (32, l.detOvr.toNat)]
  | 0x0270 => fields [(0, bit l.tsEn), (1, bit l.gm), (2, l.domain.toNat), (10, bit l.tsrc), (11, bit l.twostep)]
  | 0x0278 => fields [(0, bit l.lock), (1, bit l.stepped), (32, l.skewbound.toNat)]
  | 0x0300 => fields [(0, s.bb.seq.toNat), (32, bit s.bb.frozen)]
  | 0x0308 => bit s.bb.freeze
  | 0x0310 => s.bb.lost.toNat
  | 0x0318 => s.bb.ridx.toNat
  | _ => if 0x0320 ≤ off ∧ off < 0x0340 then (s.bb.data.getD ((off - 0x320) / 8) 0).toNat else 0

/-- Registers of the device (R444, R449, R451, R454 to R456). -/
def Device.mgmt (d : Device) (off : Nat) : Nat :=
  if off = 0x0000 then mgmtId
  else if off = 0x0008 then fields [(0, d.mstate.toNat), (2, bit d.warm), (3, bit d.degr)]
  else if off = 0x0018 then d.postUnits.toNat
  else if 0x0020 ≤ off ∧ off < 0x0038 then (d.postCells.getD ((off - 0x20) / 8) 0).toNat
  else if 0x0040 ≤ off ∧ off < 0x0080 then (d.mbox.getD ((off - 0x40) / 8) 0).toNat
  else if 0x0400 ≤ off ∧ off < 0x0500 then (d.tj.getD ((off - 0x400) / 8) 0).toNat
  else if 0x0500 ≤ off ∧ off < 0x0520 then fields [(0, (d.tpoint.getD ((off - 0x500) / 8) 0).toNat), (4, (d.clkpct.getD ((off - 0x500) / 8) 0).toNat)]
  else if 0x0540 ≤ off ∧ off < 0x05A0 then fields [(0, (d.hbmT.getD ((off - 0x540) / 8) 0).toNat), (12, (d.rfx.getD ((off - 0x540) / 8) 0).toNat)]
  else if off = 0x05A0 then fields [(0, d.inlet.toNat), (16, d.outlet.toNat)]
  else if off = 0x05A8 then d.pwr.toNat
  else if off = 0x05B0 then fields [(0, d.weirSp.toNat), (16, d.weirHys.toNat)]
  else if 0x0600 ≤ off ∧ off < 0x0620 then bitsAt d.attNonce.toNat (64 * ((off - 0x600) / 8)) 64
  else if off = 0x0628 then fields [(0, bit d.attBusy), (1, bit d.attDone)]
  else if off = 0x0630 then d.attRidx.toNat
  else if off = 0x0638 then (d.attData d.attRidx.toNat).toNat
  else if 0x0680 ≤ off ∧ off < 0x06C0 then bitsAt (d.meas.getD 0 0).toNat (64 * ((off - 0x680) / 8)) 64
  else if 0x06C0 ≤ off ∧ off < 0x0700 then bitsAt (d.meas.getD 1 0).toNat (64 * ((off - 0x6C0) / 8)) 64
  else 0

/-- WHAT A REGISTER OF THE MANAGEMENT BLOCK READS (R443 to R447); offsets that are not listed read 0. -/
def State.mgmtRead (s : State) (off : Nat) : Nat :=
  if off % 8 ≠ 0 ∨ (s.dev.mstate = 2 ∧ !safeRegister off) then 0
  else if off < 0x0100 ∨ 0x0400 ≤ off then s.dev.mgmt off
  else if off < 0x0200 then s.mgmtDispatch off else s.mgmtLink off

/-- A write to a dispatcher or page register without a row of its own (R291, R321, R357, R399). -/
def State.writeDispatch (s : State) (off : Nat) (v : DWord) : State :=
  let d := s.disp
  match off with
  | 0x0128 => { s with disp := { d with qcmdArg := field v 0 52 } }
  | 0x0138 => { s with disp := { d with spillbase := baseField v 24 } }
  | 0x0140 => { s with disp := { d with ageStep := if bitsAt v.toNat 0 24 < 1024 then 1024 else field v 0 24 } }
  | 0x0148 => { s with disp := { d with preemptDelta := field v 0 6 } }
  | 0x0150 => { s with disp := { d with lowMark := field v 0 16, highMark := field v 16 16, stealMax := field v 32 8, stealEn := v.getLsbD 40 } }
  | 0x0178 => { s with disp := { d with jsQid := field v 0 11, jsPart := field v 11 25 } }
  | 0x0198 => { s with page := { s.page with hotbase := baseField v 29 } }
  | 0x01A0 => { s with page := { s.page with hotEn := v.getLsbD 0, decay := field v 8 8 } }
  | 0x01A8 => { s with page := { s.page with skipPinned := v } }
  | 0x01B0 => { s with page := { s.page with pginvVa := field v 0 52 } }
  | 0x01C8 => { s with disp := { d with jsKhdr := field v 0 52 } }
  | _ => s

/-- A write to a register of the link, of time or of the device without a row of its own (R400, R408, R418, R449, R456). -/
def State.writeLink (s : State) (off : Nat) (v : DWord) : State :=
  let l := s.link
  match off with
  | 0x0260 =>
    let t : State := { s with link := { l with mx := field v 0 4, my := field v 4 4, mz := field v 8 4, dxm := field v 12 4, dym := field v 16 4, dzm := field v 20 4 } }
    if t.coordinatesOk then t else (List.range 6).foldl (fun (t : State) p => t.enterPort p pDOWN) t
  | 0x0268 => { s with link := { l with detrate := field v 0 16 } }
  | 0x0270 => { s with link := { l with tsEn := v.getLsbD 0, gm := v.getLsbD 1, domain := field v 2 8, tsrc := v.getLsbD 10, twostep := v.getLsbD 11 } }
  | 0x0278 => { s with link := { l with stepped := l.stepped && !v.getLsbD 1 } }
  | 0x05B0 => { s with dev := { s.dev with weirSp := if 3200 < bitsAt v.toNat 0 12 then 3200 else field v 0 12, weirHys := field v 16 10 } }
  | 0x0630 => { s with dev := { s.dev with attRidx := field v 0 12 } }
  | _ => if 0x0600 ≤ off ∧ off < 0x0620 ∧ off % 8 = 0 then
      { s with dev := { s.dev with attNonce := setField s.dev.attNonce (64 * ((off - 0x600) / 8)) v } } else s

/-- `REGISTER_WRITE` (R4, R20, R447): a cell control register by its offset in the window, or a register of the
management block. -/
def execRegisterWrite (r : RegTarget) (v : DWord) (s : State) : Host.Outcome State Fault Refusal :=
  .next (match r with
    | .cellReg c off =>
      if Config.cells ≤ c ∨ off < 0xF00000 ∨ 2 ^ 24 ≤ off ∨ off % 8 ≠ 0 ∨ (s.cell c).res.fenced then s else s.ctrlWrite8 c off v
    | .mgmtReg off =>
      if s.dev.mstate = 2 ∧ !safeRegister off then s
      else if off < 0x0200 then s.writeDispatch off v else s.writeLink off v)

end Sys2Proof.Machine
end

