-- ==== Sys2Proof/Machine/Dispatch.lean ====
section
/-! DEFINITION. The meaning of each instruction: one arm per row of the table of operations and events. -/

namespace Sys2Proof.Machine

def exec (i : Instr) (s : State) : Host.Outcome State Fault Refusal :=
  match i with
  | .add q d a b f => Sys2Proof.Machine.execAdd q d a b f s
  | .addImm q d a im => Sys2Proof.Machine.execAddImm q d a im s
  | .sub q d a b f => Sys2Proof.Machine.execSub q d a b f s
  | .subImm q d a im => Sys2Proof.Machine.execSubImm q d a im s
  | .mul q d a b f => Sys2Proof.Machine.execMul q d a b f s
  | .mulImm q d a im => Sys2Proof.Machine.execMulImm q d a im s
  | .mulh q d a b f => Sys2Proof.Machine.execMulh q d a b f s
  | .mulhImm q d a im => Sys2Proof.Machine.execMulhImm q d a im s
  | .div q d a b f => Sys2Proof.Machine.execDiv q d a b f s
  | .divImm q d a im => Sys2Proof.Machine.execDivImm q d a im s
  | .rem q d a b f => Sys2Proof.Machine.execRem q d a b f s
  | .remImm q d a im => Sys2Proof.Machine.execRemImm q d a im s
  | .and q d a b f => Sys2Proof.Machine.execAnd q d a b f s
  | .andImm q d a im => Sys2Proof.Machine.execAndImm q d a im s
  | .or q d a b f => Sys2Proof.Machine.execOr q d a b f s
  | .orImm q d a im => Sys2Proof.Machine.execOrImm q d a im s
  | .xor q d a b f => Sys2Proof.Machine.execXor q d a b f s
  | .xorImm q d a im => Sys2Proof.Machine.execXorImm q d a im s
  | .shl q d a b f => Sys2Proof.Machine.execShl q d a b f s
  | .shlImm q d a im => Sys2Proof.Machine.execShlImm q d a im s
  | .shr q d a b f => Sys2Proof.Machine.execShr q d a b f s
  | .shrImm q d a im => Sys2Proof.Machine.execShrImm q d a im s
  | .sra q d a b f => Sys2Proof.Machine.execSra q d a b f s
  | .sraImm q d a im => Sys2Proof.Machine.execSraImm q d a im s
  | .setc q d a b f => Sys2Proof.Machine.execSetc q d a b f s
  | .setcImm q d a im => Sys2Proof.Machine.execSetcImm q d a im s
  | .sel q d a b z c => Sys2Proof.Machine.execSel q d a b z c s
  | .limm q d im => Sys2Proof.Machine.execLimm q d im s
  | .limmSh q d im => Sys2Proof.Machine.execLimmSh q d im s
  | .ld z q d a o => Sys2Proof.Machine.execLd z q d a o s
  | .st z q d a o => Sys2Proof.Machine.execSt z q d a o s
  | .atom sc o d a b f => Sys2Proof.Machine.execAtom sc o d a b f s
  | .cas sc o d a b f => Sys2Proof.Machine.execCas sc o d a b f s
  | .br c a b o => Sys2Proof.Machine.execBr c a b o s
  | .jmp o => Sys2Proof.Machine.execJmp o s
  | .jmpL o => Sys2Proof.Machine.execJmpL o s
  | .jmpi q a => Sys2Proof.Machine.execJmpi q a s
  | .jmpiL q d a => Sys2Proof.Machine.execJmpiL q d a s
  | .loops a b o => Sys2Proof.Machine.execLoops a b o s
  | .loopsSet a => Sys2Proof.Machine.execLoopsSet a s
  | .waitc q b l sc c t => Sys2Proof.Machine.execWaitc q b l sc c t s
  | .tsig q k n c => Sys2Proof.Machine.execTsig q k n c s
  | .twait q b k n c => Sys2Proof.Machine.execTwait q b k n c s
  | .shut q t c => Sys2Proof.Machine.execShut q t c s
  | .fence q b sc k => Sys2Proof.Machine.execFence q b sc k s
  | .tdef q a t => Sys2Proof.Machine.execTdef q a t s
  | .rdsys q d x => Sys2Proof.Machine.execRdsys q d x s
  | .wrsys q a x => Sys2Proof.Machine.execWrsys q a x s
  | .trap q e => Sys2Proof.Machine.execTrap q e s
  | .tret q => Sys2Proof.Machine.execTret q s
  | .yield q d => Sys2Proof.Machine.execYield q d s
  | .yieldLand q d a => Sys2Proof.Machine.execYieldLand q d a s
  | .tend q => Sys2Proof.Machine.execTend q s
  | .qput q d a x => Sys2Proof.Machine.execQput q d a x s
  | .estart q a m => Sys2Proof.Machine.execEstart q a m s
  | .etruncImm q d c e => Sys2Proof.Machine.execEtruncImm q d c e s
  | .etruncReg q d a e => Sys2Proof.Machine.execEtruncReg q d a e s
  | .launch q d a => Sys2Proof.Machine.execLaunch q d a s
  | .ifence q => Sys2Proof.Machine.execIfence q s
  | .gctlOpen q d a l => Sys2Proof.Machine.execGctlOpen q d a l s
  | .gctlClose q d a k => Sys2Proof.Machine.execGctlClose q d a k s
  | .gctlWait q d a b => Sys2Proof.Machine.execGctlWait q d a b s
  | .gctlCancel q d a => Sys2Proof.Machine.execGctlCancel q d a s
  | .gctlQuery q d a p => Sys2Proof.Machine.execGctlQuery q d a p s
  | .barrArm q d a u n => Sys2Proof.Machine.execBarrArm q d a u n s
  | .barrArrive q a n => Sys2Proof.Machine.execBarrArrive q a n s
  | .barrWait q d a b => Sys2Proof.Machine.execBarrWait q d a b s
  | .waitt q d a b => Sys2Proof.Machine.execWaitt q d a b s
  | .migrStart q d a => Sys2Proof.Machine.execMigrStart q d a s
  | .migrCancel q d a => Sys2Proof.Machine.execMigrCancel q d a s
  | .migrQuery q d a => Sys2Proof.Machine.execMigrQuery q d a s
  | .invpg q a k sc => Sys2Proof.Machine.execInvpg q a k sc s
  | .pstf q d a b e z => Sys2Proof.Machine.execPstf q d a b e z s
  | .ldoneEnd q => Sys2Proof.Machine.execLdoneEnd q s
  | .ldoneRd q d a => Sys2Proof.Machine.execLdoneRd q d a s
  | .vadd q d a b t => Sys2Proof.Machine.execVadd q d a b t s
  | .vsub q d a b t => Sys2Proof.Machine.execVsub q d a b t s
  | .vmul q d a b t => Sys2Proof.Machine.execVmul q d a b t s
  | .vfma q d a b t => Sys2Proof.Machine.execVfma q d a b t s
  | .vmin q d a b t => Sys2Proof.Machine.execVmin q d a b t s
  | .vmax q d a b t => Sys2Proof.Machine.execVmax q d a b t s
  | .vrcp q d a t => Sys2Proof.Machine.execVrcp q d a t s
  | .vexp q d a t => Sys2Proof.Machine.execVexp q d a t s
  | .vcmp d a b t c => Sys2Proof.Machine.execVcmp d a b t c s
  | .vsel q d a b => Sys2Proof.Machine.execVsel q d a b s
  | .vbit q d a b o => Sys2Proof.Machine.execVbit q d a b o s
  | .vshf q d a b k w => Sys2Proof.Machine.execVshf q d a b k w s
  | .vcvt d a p sc r e f => Sys2Proof.Machine.execVcvt d a p sc r e f s
  | .vred d a o t => Sys2Proof.Machine.execVred d a o t s
  | .vperm q d a b => Sys2Proof.Machine.execVperm q d a b s
  | .vbcast d a e w => Sys2Proof.Machine.execVbcast d a e w s
  | .vli q d im => Sys2Proof.Machine.execVli q d im s
  | .vidx q d sc t => Sys2Proof.Machine.execVidx q d sc t s
  | .vld q d t l f => Sys2Proof.Machine.execVld q d t l f s
  | .vst q d t l f => Sys2Proof.Machine.execVst q d t l f s
  | .vsld q d n k => Sys2Proof.Machine.execVsld q d n k s
  | .vsst q d n k => Sys2Proof.Machine.execVsst q d n k s
  | .vsbind q d n t l => Sys2Proof.Machine.execVsbind q d n t l s
  | .vmpush a b q f c => Sys2Proof.Machine.execVmpush a b q f c s
  | .vminv q => Sys2Proof.Machine.execVminv q s
  | .vmpop q n => Sys2Proof.Machine.execVmpop q n s
  | .bru k o => Sys2Proof.Machine.execBru k o s
  | .loopv n e o => Sys2Proof.Machine.execLoopv n e o s
  | .loopvSet e => Sys2Proof.Machine.execLoopvSet e s
  | .vqnt d a r l t => Sys2Proof.Machine.execVqnt d a r l t s
  | .vpupdSgd d a p => Sys2Proof.Machine.execVpupdSgd d a p s
  | .vpupdMom d a p g => Sys2Proof.Machine.execVpupdMom d a p g s
  | .vpack d a p k => Sys2Proof.Machine.execVpack d a p k s
  | .vunpk d a sc p k => Sys2Proof.Machine.execVunpk d a sc p k s
  | .vtsig q k c => Sys2Proof.Machine.execVtsig q k c s
  | .vtwait q b k c => Sys2Proof.Machine.execVtwait q b k c s
  | .vshut q b t c => Sys2Proof.Machine.execVshut q b t c s
  | .vend q => Sys2Proof.Machine.execVend q s
  | .mzero b m => Sys2Proof.Machine.execMzero b m s
  | .mma b c a e f => Sys2Proof.Machine.execMma b c a e f s
  | .mmaExt b c a e f x => Sys2Proof.Machine.execMmaExt b c a e f x s
  | .mspb b c a e f => Sys2Proof.Machine.execMspb b c a e f s
  | .mspbExt b c a e f x => Sys2Proof.Machine.execMspbExt b c a e f x s
  | .mscr b c a e f => Sys2Proof.Machine.execMscr b c a e f s
  | .mscrExt b c a e f x => Sys2Proof.Machine.execMscrExt b c a e f x s
  | .mscn b c a e f => Sys2Proof.Machine.execMscn b c a e f s
  | .mscnExt b c a e f x => Sys2Proof.Machine.execMscnExt b c a e f x s
  | .mrsum b a e f => Sys2Proof.Machine.execMrsum b a e f s
  | .mdrain b c a => Sys2Proof.Machine.execMdrain b c a s
  | .mdrainExt b c a x => Sys2Proof.Machine.execMdrainExt b c a x s
  | .mdrainQ b c a e x => Sys2Proof.Machine.execMdrainQ b c a e x s
  | .mcfg b w x => Sys2Proof.Machine.execMcfg b w x s
  | .mloop l n im sc => Sys2Proof.Machine.execMloop l n im sc s
  | .mtsig k c => Sys2Proof.Machine.execMtsig k c s
  | .mtwait b k c => Sys2Proof.Machine.execMtwait b k c s
  | .mshut b t c => Sys2Proof.Machine.execMshut b t c s
  | .mend b => Sys2Proof.Machine.execMend b s
  | .copy b d sc t => Sys2Proof.Machine.execCopy b d sc t s
  | .copyExt b d sc t x => Sys2Proof.Machine.execCopyExt b d sc t x s
  | .copyF b d sc t inner => Sys2Proof.Machine.execCopyF b d sc t inner s
  | .gath b d sc x => Sys2Proof.Machine.execGath b d sc x s
  | .scat b d sc x => Sys2Proof.Machine.execScat b d sc x s
  | .enc b d sc => Sys2Proof.Machine.execEnc b d sc s
  | .encExt b d sc x => Sys2Proof.Machine.execEncExt b d sc x s
  | .dec b d sc => Sys2Proof.Machine.execDec b d sc s
  | .decExt b d sc x => Sys2Proof.Machine.execDecExt b d sc x s
  | .cbload b k t f c => Sys2Proof.Machine.execCbload b k t f c s
  | .fill b d x => Sys2Proof.Machine.execFill b d x s
  | .clone b d sc => Sys2Proof.Machine.execClone b d sc s
  | .cloneZero b d => Sys2Proof.Machine.execCloneZero b d s
  | .land b t l n h x => Sys2Proof.Machine.execLand b t l n h x s
  | .coll b t r p x => Sys2Proof.Machine.execColl b t r p x s
  | .cbar b n k im => Sys2Proof.Machine.execCbar b n k im s
  | .cloop l n im sc => Sys2Proof.Machine.execCloop l n im sc s
  | .ctsig k c => Sys2Proof.Machine.execCtsig k c s
  | .ctwait b k c => Sys2Proof.Machine.execCtwait b k c s
  | .cshut b t c => Sys2Proof.Machine.execCshut b t c s
  | .cend b => Sys2Proof.Machine.execCend b s
  | .injectedCommandIssue cell => Sys2Proof.Machine.execInjectedCommandIssue cell s
  | .engineFetch cell st => Sys2Proof.Machine.execEngineFetch cell st s
  | .trapTake cell ag => Sys2Proof.Machine.execTrapTake cell ag s
  | .engineTrapTake cell => Sys2Proof.Machine.execEngineTrapTake cell s
  | .cycleBoundExpiry cell ag => Sys2Proof.Machine.execCycleBoundExpiry cell ag s
  | .reductionLimit cell => Sys2Proof.Machine.execReductionLimit cell s
  | .tokenWaitSatisfied cell st => Sys2Proof.Machine.execTokenWaitSatisfied cell st s
  | .shutterStallRelease cell st => Sys2Proof.Machine.execShutterStallRelease cell st s
  | .waittTargetReached cell => Sys2Proof.Machine.execWaittTargetReached cell s
  | .barrierWaitRelease cell => Sys2Proof.Machine.execBarrierWaitRelease cell s
  | .loadDataReturn cell ag k => Sys2Proof.Machine.execLoadDataReturn cell ag k s
  | .writeApplyToView die k => Sys2Proof.Machine.execWriteApplyToView die k s
  | .atomicExecute quad k => Sys2Proof.Machine.execAtomicExecute quad k s
  | .cellWindowAccess cell off size wr byCore => Sys2Proof.Machine.execCellWindowAccess cell off size wr byCore s
  | .windowRegWriteApply cell => Sys2Proof.Machine.execWindowRegWriteApply cell s
  | .windowAccessTimeout cell => Sys2Proof.Machine.execWindowAccessTimeout cell s
  | .hostMemoryAccess pa size wr => Sys2Proof.Machine.execHostMemoryAccess pa size wr s
  | .pageWalk quad ctx va => Sys2Proof.Machine.execPageWalk quad ctx va s
  | .nextPageFill cell st k va => Sys2Proof.Machine.execNextPageFill cell st k va s
  | .hotDecay => Sys2Proof.Machine.execHotDecay s
  | .dispatchTask => Sys2Proof.Machine.execDispatchTask s
  | .codebookReplay cell => Sys2Proof.Machine.execCodebookReplay cell s
  | .restoreComplete cell => Sys2Proof.Machine.execRestoreComplete cell s
  | .taskStop cell => Sys2Proof.Machine.execTaskStop cell s
  | .mQuiesceStop cell => Sys2Proof.Machine.execMQuiesceStop cell s
  | .taskStopped cell => Sys2Proof.Machine.execTaskStopped cell s
  | .saveComplete cell => Sys2Proof.Machine.execSaveComplete cell s
  | .taskRetire cell => Sys2Proof.Machine.execTaskRetire cell s
  | .preemptEval => Sys2Proof.Machine.execPreemptEval s
  | .queueTake qid => Sys2Proof.Machine.execQueueTake qid s
  | .weirSample p => Sys2Proof.Machine.execWeirSample p s
  | .occupancyPublish nbr => Sys2Proof.Machine.execOccupancyPublish nbr s
  | .stealRequest port => Sys2Proof.Machine.execStealRequest port s
  | .stealGrant port recs => Sys2Proof.Machine.execStealGrant port recs s
  | .stealAck rec => Sys2Proof.Machine.execStealAck rec s
  | .remoteGroupMessage src cell msg => Sys2Proof.Machine.execRemoteGroupMessage src cell msg s
  | .landingArrival cell p => Sys2Proof.Machine.execLandingArrival cell p s
  | .landingServe cell => Sys2Proof.Machine.execLandingServe cell s
  | .wicketOverrun cell w => Sys2Proof.Machine.execWicketOverrun cell w s
  | .peerStoreArrival p => Sys2Proof.Machine.execPeerStoreArrival p s
  | .peerStoreAck k cause => Sys2Proof.Machine.execPeerStoreAck k cause s
  | .packetLossDeclare k => Sys2Proof.Machine.execPacketLossDeclare k s
  | .collChunkArrival cell port ctx tag lines bad => Sys2Proof.Machine.execCollChunkArrival cell port ctx tag lines bad s
  | .barrierArrival => Sys2Proof.Machine.execBarrierArrival s
  | .phaseTimeBoundary slot => Sys2Proof.Machine.execPhaseTimeBoundary slot s
  | .migrationLineCopy k => Sys2Proof.Machine.execMigrationLineCopy k s
  | .switchOver k => Sys2Proof.Machine.execSwitchOver k s
  | .migrationShootdownComplete k => Sys2Proof.Machine.execMigrationShootdownComplete k s
  | .migrationAbort k reason => Sys2Proof.Machine.execMigrationAbort k reason s
  | .abortShootdownComplete k => Sys2Proof.Machine.execAbortShootdownComplete k s
  | .contextRelease ctx => Sys2Proof.Machine.execContextRelease ctx s
  | .residencyPeriod cell => Sys2Proof.Machine.execResidencyPeriod cell s
  | .ctxtblWrite v => Sys2Proof.Machine.execCtxtblWrite v s
  | .ctxCreate ctx => Sys2Proof.Machine.execCtxCreate ctx s
  | .ctxDestroy ctx => Sys2Proof.Machine.execCtxDestroy ctx s
  | .ctxFault ctx => Sys2Proof.Machine.execCtxFault ctx s
  | .ctxResume ctx => Sys2Proof.Machine.execCtxResume ctx s
  | .qtblWrite v => Sys2Proof.Machine.execQtblWrite v s
  | .queueCreate qid => Sys2Proof.Machine.execQueueCreate qid s
  | .queueOpen qid => Sys2Proof.Machine.execQueueOpen qid s
  | .queueClose qid => Sys2Proof.Machine.execQueueClose qid s
  | .queueDestroy qid => Sys2Proof.Machine.execQueueDestroy qid s
  | .queuePut qid => Sys2Proof.Machine.execQueuePut qid s
  | .gtblWrite v => Sys2Proof.Machine.execGtblWrite v s
  | .jobstart rec ctx => Sys2Proof.Machine.execJobstart rec ctx s
  | .gfree slot => Sys2Proof.Machine.execGfree slot s
  | .btblWrite v => Sys2Proof.Machine.execBtblWrite v s
  | .pginvCmd ctx kind => Sys2Proof.Machine.execPginvCmd ctx kind s
  | .portControlWrite port v => Sys2Proof.Machine.execPortControlWrite port v s
  | .portPartnerDetect port => Sys2Proof.Machine.execPortPartnerDetect port s
  | .portTrained port full => Sys2Proof.Machine.execPortTrained port full s
  | .portTrainingTimeout port => Sys2Proof.Machine.execPortTrainingTimeout port s
  | .portCalibration port inWindow => Sys2Proof.Machine.execPortCalibration port inWindow s
  | .portLaneFailure port => Sys2Proof.Machine.execPortLaneFailure port s
  | .portSignalLoss port => Sys2Proof.Machine.execPortSignalLoss port s
  | .flitCrcFail port => Sys2Proof.Machine.execFlitCrcFail port s
  | .syncMessage port offset rate bound => Sys2Proof.Machine.execSyncMessage port offset rate bound s
  | .lockTimeout => Sys2Proof.Machine.execLockTimeout s
  | .cellHalt cell => Sys2Proof.Machine.execCellHalt cell s
  | .cellStopComplete cell => Sys2Proof.Machine.execCellStopComplete cell s
  | .cellResume cell => Sys2Proof.Machine.execCellResume cell s
  | .cellStep cell st => Sys2Proof.Machine.execCellStep cell st s
  | .breakpointMatch cell => Sys2Proof.Machine.execBreakpointMatch cell s
  | .sampleLatch cell => Sys2Proof.Machine.execSampleLatch cell s
  | .cellFence cell structure_ => Sys2Proof.Machine.execCellFence cell structure_ s
  | .moduleHalt structure_ die => Sys2Proof.Machine.execModuleHalt structure_ die s
  | .correctableError die => Sys2Proof.Machine.execCorrectableError die s
  | .blackBoxFreeze => Sys2Proof.Machine.execBlackBoxFreeze s
  | .blackBoxUnfreeze => Sys2Proof.Machine.execBlackBoxUnfreeze s
  | .bbRidx v => Sys2Proof.Machine.execBbRidx v s
  | .powerOn t => Sys2Proof.Machine.execPowerOn t s
  | .rstcmd v t => Sys2Proof.Machine.execRstcmd v t s
  | .powerLoss => Sys2Proof.Machine.execPowerLoss s
  | .attGo => Sys2Proof.Machine.execAttGo s
  | .attestationSignComplete => Sys2Proof.Machine.execAttestationSignComplete s
  | .configBlockAccept digest => Sys2Proof.Machine.execConfigBlockAccept digest s
  | .thermalSensorUpdate die tj staticW => Sys2Proof.Machine.execThermalSensorUpdate die tj staticW s
  | .clockStep die => Sys2Proof.Machine.execClockStep die s
  | .hbmTempUpdate stack t => Sys2Proof.Machine.execHbmTempUpdate stack t s
  | .coolantSample inlet outlet => Sys2Proof.Machine.execCoolantSample inlet outlet s
  | .registerWrite r v => Sys2Proof.Machine.execRegisterWrite r v s
  | .commandCompletion cell st => Sys2Proof.Machine.execCommandCompletion cell st s
  | .landingCredit cell k acked => Sys2Proof.Machine.execLandingCredit cell k acked s
  | .remoteGroupReply cell v => Sys2Proof.Machine.execRemoteGroupReply cell v s
  | .stolenTaskReturn rec => Sys2Proof.Machine.execStolenTaskReturn rec s
  | .hostPortLaneFailure width => Sys2Proof.Machine.execHostPortLaneFailure width s
  | .uncorrectableDataError site => Sys2Proof.Machine.execUncorrectableDataError site s
  | .fusedMinimumRaise => Sys2Proof.Machine.execFusedMinimumRaise s

end Sys2Proof.Machine
end

