-- ==== Sys2Proof/Machine/Run.lean ====
section
/-! DEFINITION. The moves that a step is made of: which instruction an agent executes next (R33, R139, R142, R259),
a cycle of the clock, the model's own choice of what moves when its agenda is empty (notes/assumptions/3), and the
placing of a word where the next step fetches (notes/assumptions/6). -/

namespace Sys2Proof.Machine

/-! ### The next instruction of an agent -/

/-- What an agent's move is: an instruction, or a move that executes none. -/
inductive Pick where
  | instr (i : Instr) (s : State)
  | still (s : State)

/-- A word that is no instruction raises ILLEGAL in its place in the issue order (R110). -/
def State.issueReject (s : State) (c : Nat) (ag : Agent) (w : Word) : State :=
  let iss := (s.cell c).issue ag
  if maxUnfinished ag ≤ iss.unfinished.length then s.stall
  else
    let u : Unfinished := { instr := .tend 0, word := w, pc := iss.pc }
    (s.issued c ag u false).conclude c ag (.trap ⟨cILLEGAL, wordInfo w 0⟩ u)

/-- A fault in fetching the next S or wicket word, taken when nothing is unfinished (notes/assumptions/20). -/
def State.fetchFault (s : State) (c : Nat) (ag : Agent) (t : TrapInfo) : State :=
  let iss := (s.cell c).issue ag
  if !iss.unfinished.isEmpty then s.stall else
  let s := s.badAt { s.whoOf c ag with ag := .stream .s } true 4 t
  match ag with
  | .wicket w => s.wicketTrap c w t
  | .stream _ =>
    if t.cause ≠ cNOTPRESENT then s.asyncTrap c t (eposOf .s iss.pc 0 false)
    else if (s.cell c).res.stop.any fun p => !p.givesWay || p.mDone then s.stall
    else s.absorb c t.info

/-- Fetches and decodes the word at the address of the next S or wicket instruction. -/
def State.pickFetch (s : State) (c : Nat) (ag : Agent) : Pick :=
  let iss := (s.cell c).issue ag
  match s.fetchWord c iss.pc (s.whoOf c ag) iss.fetchSince with
  | .stall => .still (s.modIssue c ag fun i => { i with fetchSince := some (i.fetchSince.getD s.cycle) }).stall
  | .trap t => .still (s.fetchFault c ag t)
  | .ok (s, w) =>
    let s := if iss.fetchSince.isSome then s.modIssue c ag fun i => { i with fetchSince := none } else s
    match decode .s w 0 with
    | .instr i => .instr i s
    | .reject _ => .still (s.issueReject c ag w)

/-- The next instruction of S or of a wicket: the one that waits, else the first of the replay queue, else the word
at its program counter (R139, R142). A re-injected word that is no instruction traps again. -/
def State.pickIssue (s : State) (c : Nat) (ag : Agent) : Pick :=
  let iss := (s.cell c).issue ag
  if iss.blocked || iss.acquires then .still s.stall
  else match iss.wait, iss.unfinished.getLast? with
    | some _, some u => .instr u.instr s
    | some _, none => .still s.stall
    | none, _ =>
      match iss.replay with
      | [] => s.pickFetch c ag
      | r :: _ =>
        if r.trap.isNone then .instr r.instr s
        else if maxUnfinished ag ≤ iss.unfinished.length then .still s.stall
        else .still ((s.issued c ag r true).trapTake c ag)

/-- The next instruction of an engine stream: the entry at its head (R259, R333). -/
def State.pickHead (s : State) (c : Nat) (st : Stream) : Pick :=
  match (s.cell c).head st with
  | none => .still s.stall
  | some h =>
    match decode st h.word h.ext with
    | .instr i => .instr i s
    | .reject _ => .still (s.eReject c st)

/-- THE NEXT INSTRUCTION of an agent. A breakpoint comes before the instruction it matches (R434). -/
def State.pick (s : State) (c : Nat) (ag : Agent) : Pick :=
  if !s.mayRun c ag then .still s.stall else
  match ag with
  | .wicket _ => s.pickIssue c ag
  | .stream st =>
    match (s.cell c).breakpoint st with
    | some n => .still (s.takeBreak c st n)
    | none => if st = .s then s.pickIssue c ag else s.pickHead c st

/-- The focus on an agent, with nothing stalled. -/
def State.aim (s : State) (c : Nat) (ag : Agent) : State := { s with focus := (c, ag), stalled := false }

/-- What follows an agent's move: the end of a debug step (R433), and of the passing over of a breakpoint once the
entry has issued (R434). `t` is the state before the move. -/
def State.afterMove (s : State) (c : Nat) (ag : Agent) (t : State) : State :=
  let s := s.creditWickets c ag
  match ag with
  | .wicket _ => s
  | .stream st =>
    let s := if (s.cell c).dbg.bpSkip = some st ∧ (t.cell c).dbg.bpSkip = some st ∧ !s.stalled then
        s.modCell c fun x => { x with dbg := { x.dbg with bpSkip := none } } else s
    if (s.cell c).dbg.stepping = some st then
      s.endStep c (s.stalled && ((s.cell c).engine st).nextStep = ((t.cell c).engine st).nextStep)
    else s

/-! ### A cycle -/

/-- What finishes by itself as time passes: window accesses and register writes that may go on or have reached their limit
(R21, R22), additions to `KLIVE` and commands of the host that waited (R322, R335, R340, R359), a host invalidation (R399), requests at the atomic engines (R95), and at
last the waits of the streams (R36, R99). -/
def State.upkeep (s : State) : State :=
  let s := if s.cells.any fun x => !x.winWaits.isEmpty || !x.winRegs.isEmpty then
      (List.range Config.cells).foldl (fun (s : State) c => ((s.drainWindow c).expireWindow c).drainRegs c) s else s
  let s := if s.disp.kliveWaits.isEmpty then s else s.drainKlive
  let s := s.drainCommands
  let s := s.finishPginv
  (State.serve) <| if s.quads.any fun q => !q.requests.isEmpty then
    (List.range Config.quads).foldl (fun (s : State) q => outcomeOr (execAtomicExecute q 0 s) s) s
  else s

/-- Counts a cycle in every cell but one (R436, R437). -/
def State.countCycles (s : State) (but : Option Nat) : State :=
  { s with cells := mapFrom 0 (fun c x => if but = some c then x else x.countCycle none) s.cells }

/-- The agent has moved in this cycle, or one behind it in the order of a cycle has. -/
def State.tooLate (s : State) (c : Nat) (ag : Agent) : Bool := (s.cell c).moved.any fun (t, n) => t = s.cycle && agentPlace ag ≤ n

/-- `n` cycles in which no agent moves. -/
def State.pass (s : State) (n : Nat) : State :=
  match n with
  | 0 => s
  | n + 1 => ((s.tick).upkeep.countCycles none).pass n

/-! ### The model's own choice of moves (notes/assumptions/3) -/

/-- Finishes the unfinished entries of an agent from entry `k` on, as far as they may. -/
def State.finishFrom (s : State) (c : Nat) (ag : Agent) (fuel k : Nat) : State :=
  match fuel with
  | 0 => s
  | fuel + 1 =>
    let n := ((s.cell c).issue ag).unfinished.length
    if n ≤ k then s else
    let t := s.finishEntry c ag k
    t.finishFrom c ag fuel (if ((t.cell c).issue ag).unfinished.length < n then k else k + 1)

/-- What an agent's unit does by itself when the agent can go no further: entries finish, traps are taken, commands
complete, the next entry is fetched, bounds run out. -/
def State.prepare (s : State) (c : Nat) (ag : Agent) : State :=
  if !s.mayRun c ag then s else
  let s := match ag with
    | .stream .s => outcomeOr (execEngineTrapTake c ((s.finishFrom c ag Config.maxUnfinished 0).trapTake c ag)) s
    | .wicket _ => (s.finishFrom c ag Config.maxUnfinished 0).trapTake c ag
    | .stream st =>
      let s := outcomeOr (execCommandCompletion c st (if st = .c then s.landCredit c else s)) s
      if ((s.cell c).engine st).queue.isEmpty then s.engineFetch c st else s
  let s := (outcomeOr (execCycleBoundExpiry c ag s) s).creditWickets c ag
  if ag = .stream .m then outcomeOr (execReductionLimit c s) s else s

/-- The agent after another in a cell. -/
def nextAgent (ag : Agent) : Agent :=
  match ag with
  | .stream .s => .stream .v
  | .stream .v => .stream .m
  | .stream .m => .stream .c
  | .stream .c => .wicket 0
  | .wicket 0 => .wicket 1
  | .wicket 1 => .wicket 2
  | .wicket _ => .stream .s

/-- An agent has something to do: S before its end, a running wicket, an engine that has started and not ended, whose
commands are in progress, or whose injection slot is full. -/
def State.live (s : State) (c : Nat) (ag : Agent) : Bool :=
  s.mayRun c ag && match ag with
  | .wicket _ | .stream .s => true
  | .stream st =>
    let g := (s.cell c).engine st
    (g.started && !g.ended) || !g.inprog.isEmpty || (s.cell c).fromSlot st

/-- The next live agent of a cell after `ag`, `fuel` agents at most; S when none is. -/
def State.nextLive (s : State) (c : Nat) (ag : Agent) (fuel : Nat) : Agent :=
  match fuel with
  | 0 => .stream .s
  | fuel + 1 => if s.live c (nextAgent ag) then nextAgent ag else s.nextLive c (nextAgent ag) fuel

/-- An agent moves in this cycle; after another that comes later in a cycle it moves in the next one. -/
def State.inOrder (s : State) (c : Nat) (ag : Agent) : State :=
  let s := if s.tooLate c ag then s.pass 1 else s
  s.modCell c fun x => { x with moved := some (s.cycle, agentPlace ag) }

/-- A stalled agent's unit does what it does by itself, and the turn passes to the next agent of the cell. -/
def State.rotate (s : State) : State :=
  let c := s.focus.1
  let t := s.prepare c s.focus.2
  t.aim c (t.nextLive c s.focus.2 7)

/-- The cycle before the focus moves. -/
def State.turn (s : State) : State := ((s.tick).upkeep.countCycles (some s.focus.1)).aim s.focus.1 s.focus.2

/-- The cycle of the focus's cell is counted after its move: an engine whose head has left issued in it (R436). -/
def State.countTurn (s : State) (c : Nat) (ag : Agent) (t : State) : State :=
  let issued := match ag with
    | .wicket _ => none
    | .stream st => if st ≠ .s ∧ (s.cell c).head st ≠ (t.cell c).head st then some st else none
  s.modCell c fun x => x.countCycle issued

/-! ### Placing a word -/

/-- An event of the table: a constructor that no word encodes. -/
def isEvent (i : Instr) : Bool := (encode i).isEmpty

/-- Cell 0 with a word next in a stream: behind S's program counter as a fetched word, or at the head of a started
engine's queue. -/
def Cell.place (x : Cell) (st : Stream) (word ext : Word) : Cell :=
  let x := { x with
    moved := none
    res := { x.res with image := .active, fenced := false, stop := none }
    dbg := { x.dbg with brken := false, stopped := false, stopping := none, stepping := none } }
  if st = .s then
    let pc := x.s.iss.pc
    { x with s := { x.s with ended := false, iss := { pc := pc } }, icache := ((x.res.ctx, pc), word) :: x.icache }
  else
    let x := x.modEngine st fun g => { started := true, phase := g.phase, queue := [{ pc := 0, word := word, ext := ext }] }
    if st = .m then { x with m := { x.m with inject := none } } else x

/-- Places a word of the table in cell 0, in S when no stream reads it, and names its stream as the next to move. -/
def State.placeWord (s : State) (nbits : Nat) (word ext : Word) : State :=
  let st := (tableStream nbits word ext).getD .s
  let s := { s with
    agenda := .agent 0 (.stream st) :: s.agenda
    dev := { s.dev with halted := false, tpoint := if st = Stream.m then s.dev.tpoint.set 0 0 else s.dev.tpoint } }
  s.modCell 0 fun x => x.place st word ext

end Sys2Proof.Machine
end

