-- ==== Sys2Proof/Machine/Step.lean ====
section
/-! DEFINITION. One step of the machine, and the placing of a word where the next step fetches. -/

namespace Sys2Proof.Machine

/-- An agent's move: its next instruction is executed. -/
def runAgent (c : Nat) (ag : Agent) (s : State) : Host.Outcome State Fault Refusal :=
  match s.pick c ag with
  | .still t => .next (t.afterMove c ag s)
  | .instr i t =>
    match exec i t with
    | .next u => .next (u.afterMove c ag s)
    | .fault r => .fault r
    | .refused r => .refused r

/-- ONE STEP: the first move of the agenda; with no agenda a cycle passes and the focus moves, or the turn passes on
when the focus is stalled (notes/assumptions/3). -/
def step (s : State) : Host.Outcome State Fault Refusal :=
  match s.agenda with
  | .event e :: r => if isEvent e then exec e { s with agenda := r } else .next { s with agenda := r }
  | .agent c ag :: r => runAgent c ag ((({ s with agenda := r } : State).inOrder c ag).aim c ag)
  | .cycles n :: r => .next (({ s with agenda := r } : State).pass n)
  | [] =>
    if Config.cells ≤ s.focus.1 then .fault .noSuchCell
    else if s.stalled then .next s.rotate
    else
      match runAgent s.focus.1 s.focus.2 s.turn with
      | .next u => .next (u.countTurn s.focus.1 s.focus.2 s.turn)
      | .fault r => .fault r
      | .refused r => .refused r

/-- `s` with an instruction's word where the next step fetches (notes/assumptions/6): bits above 31 are its extension
word. -/
def State.withFetchWord (s : State) (nbits w : Nat) : State :=
  s.placeWord nbits (BitVec.ofNat 32 w) (BitVec.ofNat 32 (w / 2 ^ 32))

end Sys2Proof.Machine
end

