-- ==== Sys2Proof/Safety.lean ====
section
/-! DEFINITION. What a safe run is, and the words in which the claims speak: a stream that is about to execute an
instruction, and the state in which an instruction of a stream has finished. -/

namespace Sys2Proof

/-- From `s`, `n` steps reach a state: none of them faults or is refused. -/
def SafeFor (n : Nat) (s : Machine.State) : Prop := ∃ t, core.run n s = .next t

namespace Machine

/-- The shape of a module: its cells, quads and views, with every memory in canonical form. -/
structure State.Sound (s : State) : Prop where
  cells : s.cells.length = 192
  quads : s.quads.length = 48
  views : s.mem.views.length = 4
  view : ∀ m ∈ s.mem.views, m.wf = true
  pad : ∀ x ∈ s.cells, x.pad.wf = true

/-- The cell of the focus. -/
abbrev State.here (s : State) : Cell := s.cell s.focus.1

/-- Register `r` of S in the cell of the focus. -/
abbrev State.sreg (s : State) (r : BitVec 5) : DWord := s.here.reg (.stream .s) r.toNat

/-- S of the focus's cell has nothing unfinished, nothing to replay and no wait, and executes an instruction that
is predicated by `q`; no register holds an uncorrectable error. -/
structure AtS (s : State) (q : BitVec 4) : Prop where
  agent : s.focus.2 = .stream .s
  cell : s.focus.1 < s.cells.length
  unfinished : s.here.s.iss.unfinished = []
  replay : s.here.s.iss.replay = []
  wait : s.here.s.iss.wait = none
  holds : predHolds s.here.s.preds q = true
  sound : s.mem.uncorr = []

/-- The cell with the instruction of S at the program counter passed. -/
def Cell.passed (x : Cell) : Cell :=
  { x with s := { x.s with iss := { x.s.iss with pc := x.s.iss.pc + 4, acquire := false } } }

/-- The state in which S of the focus's cell has finished an instruction: the address is passed, `f` is done to the
cell, issue goes on at `np` when it is given, and the instruction is charged (R315). Nothing else changes. -/
def State.retire (s : State) (f : Cell → Cell) (np : Option DWord := none) : State :=
  s.modCell s.focus.1 fun x =>
    let y := f x.passed
    ({ y with s := { y.s with iss := { y.s.iss with pc := np.getD y.s.iss.pc } } } : Cell).chargeScalar

/-- The state in which S has finished an instruction that writes `v` to register `d` and nothing else. -/
abbrev State.writes (s : State) (d : BitVec 5) (v : DWord) : State := s.retire fun x => x.setReg (.stream .s) d.toNat v

/-- `i` executes by writing `v` to register `d` of S. -/
abbrev Writes (s : State) (i : Instr) (d : BitVec 5) (v : DWord) : Prop := exec i s = .next (s.writes d v)

/-- The entry of instruction `i` that S issues at the boundary, with its operands captured (R142). -/
def State.entry (s : State) (i : Instr) (f : Form) : Unfinished :=
  newEntry s.here (.stream .s) i f s.here.s.iss.pc s.cycle

/-- The state with that entry issued and nothing else done. -/
def State.entered (s : State) (i : Instr) (f : Form) : State := s.issued s.focus.1 (.stream .s) (s.entry i f) false

/-- `i` executes at S by ending with the state `t` of its entry's own operation and `v` in register `d`. -/
def Gives (s : State) (i : Instr) (t : State) (d : BitVec 5) (v : DWord) : Prop :=
  exec i s = .next (t.conclude s.focus.1 (.stream .s) (.done (t.setReg s.focus.1 (.stream .s) d v) none))

/-- `i` executes at S by doing `f` to the cell (R315). -/
abbrev Retires (s : State) (i : Instr) (f : Cell → Cell) : Prop := exec i s = .next (s.retire f)

/-- `i` executes at S by taking the trap `t`: the frame takes `SPC` and `n` entries, the mode becomes SUPER, issue
goes on at `TVEC`, and no register of S changes (R304). -/
def Traps (s : State) (i : Instr) (t : TrapInfo) (ce : BitVec 4) (spc : DWord) (n : Nat) : Prop :=
  ∃ u, exec i s = .next u ∧ u.here.trap.inTrap = true ∧ u.here.trap.cause = t.cause ∧ u.here.trap.tfInfo = t.info ∧
    u.here.trap.tfCe = ce ∧ u.here.trap.tfSpc = spc ∧ u.here.trap.tfN.toNat = n ∧
    u.here.trap.epos = eposOf .s s.here.s.iss.pc 0 false ∧ u.here.trap.pmode = s.here.s.super ∧
    u.here.s.super = true ∧ u.here.s.iss.pc = s.here.trap.tvec ∧ u.here.s.iss.unfinished = [] ∧
    u.here.s.regs = s.here.s.regs ∧ u.mem = s.mem ∧ u.disp = s.disp

/-- The stream `st` of the focus's cell runs and its queue's head entry `h` is about to execute; no register holds
an uncorrectable error, nothing is poisoned. -/
structure AtHead (s : State) (st : Stream) (h : Entry) : Prop where
  cell : s.focus.1 < s.cells.length
  head : (s.here.engine st).queue.head? = some h
  free : h.held = none
  started : (s.here.engine st).started = true
  running : (s.here.engine st).ended = false ∧ (s.here.engine st).stopped = false ∧ (s.here.engine st).quiesced = false
  noSlot : s.here.m.inject = none ∨ st ≠ .m
  whole : (s.here.engine st).nextStep = 0
  table : (s.here.engine st).table = none
  sound : s.mem.uncorr = []

/-- The state in which the head entry of stream `st` has finished: `f` is done to the cell and the entry is out of
the queue. Nothing else changes. -/
def State.leave (s : State) (st : Stream) (f : Cell → Cell) : State :=
  s.modCell s.focus.1 fun x => (f x).leaveHead st s.cycle

/-- The state in which V has finished an instruction that does `f` to the vector unit (R315). -/
def State.vLeave (s : State) (f : VUnit → VUnit) : State :=
  s.leave .v fun x => ({ x with v := f x.v } : Cell).charge x.weights.vector.toNat

/-- `i` executes at V's head by writing to register `d`, element by element of width `w` where the top mask has the
element's lane, the elements `val`; every other element keeps its value (R176). -/
def VWrites (s : State) (i : Instr) (d : BitVec 6) (w : Nat) (val : Nat → Nat) : Prop :=
  ∃ l : Line, exec i s = .next (s.vLeave fun v => v.setReg d l) ∧
    ∀ e, e < 2048 / w → elem l w e = if s.here.v.top.getLsbD (e * w / 32) then val e % 2 ^ w else elem (s.here.v.reg d) w e

/-- `i` executes at V's head by doing `f` to the vector unit. -/
abbrev VDoes (s : State) (i : Instr) (f : VUnit → VUnit) : Prop := exec i s = .next (s.vLeave f)

/-- `i`, the entry `h` at the head of stream `st`, raises `t`: the stream stops at the entry, the trap waits for S, and
nothing else of the cell's state changes (R307). -/
def EngineTraps (s : State) (st : Stream) (h : Entry) (i : Instr) (t : TrapInfo) : Prop :=
  ∃ u, exec i s = .next u ∧ (u.here.engine st).stopped = true ∧ (u.here.engine st).queue = (s.here.engine st).queue ∧
    u.here.trap.pending = s.here.trap.pending ++ [⟨st, t, eposOf st h.pc h.tag h.inj⟩] ∧
    u.here.v = s.here.v ∧ u.here.m.acc = s.here.m.acc ∧ u.here.pad = s.here.pad ∧ u.here.s = s.here.s ∧ u.mem = s.mem ∧ u.disp = s.disp

/-- The steps of a command from `k` on, `n` of them: each finds its operands readable and its destinations writable, and
they lead from `s` to `t`. -/
def StepsTo (step : Nat → State → Acc State) (n k : Nat) (s t : State) : Prop :=
  match n with
  | 0 => s = t
  | n + 1 => ∃ u, step k s = .ok u ∧ StepsTo step n (k + 1) u t

/-- `i`, the entry `h` at the head of stream `st`, issues with all its `n` steps performed, which led to `t`. -/
def Begins (s : State) (st : Stream) (h : Entry) (i : Instr) (t : State) (n : Nat) : Prop :=
  exec i s = .next (t.eConclude s.focus.1 st i h (.issued t n))

/-- The entry has left the queue of stream `st` and its command is in progress, behind the others. -/
def Issued (s u : State) (st : Stream) (i : Instr) : Prop :=
  (u.here.engine st).queue = (s.here.engine st).queue.drop 1 ∧
  (u.here.engine st).inprog.map (·.instr) = (s.here.engine st).inprog.map (·.instr) ++ [i]

/-- A stream that may begin a command: nothing of its own is in progress, the debugger steps nothing, a bound of 15 is
permitted. -/
structure Free (s : State) (st : Stream) (b : BitVec 4) : Prop where
  idle : (s.here.engine st).inprog = []
  running : s.here.dbg.stepping = none
  bound : b = 15 → s.here.s.super = true
  clean : s.mem.poison = []

end Machine
end Sys2Proof
end

