-- ==== Sys2Proof/Certificates/Slice0/Obligations.lean ====
section
/-! DEFINITION. The statements for the provers. An instruction of S executes at a boundary (`AtS`), one of V, M or C
at the head of its queue (`AtHead`); `retire`, `writes` and `leave` are whole next states, so that they also say what
an instruction leaves unchanged. -/

open Sys2Proof Sys2Proof.Machine

/-! ### S: integer instructions -/

/-- R145, R146: `ADD` and `SUB` in every function and with an immediate. -/
def Sys2Proof.Claims.AddSubResults : Prop :=
  ∀ (s : State) (q : BitVec 4) (d a b : BitVec 5) (k : BitVec 11), AtS s q → qpOk q = true →
    let A := s.sreg a; let B := s.sreg b
    let a32 : Word := A.setWidth 32; let b32 : Word := B.setWidth 32
    Writes s (.add q d a b 0) d (A + B) ∧ Writes s (.sub q d a b 0) d (A - B) ∧
    Writes s (.add q d a b 1) d ((a32 + b32).signExtend 64) ∧ Writes s (.sub q d a b 1) d ((a32 - b32).signExtend 64) ∧
    Writes s (.add q d a b 2) d (BitVec.ofInt 64 (max (-2 ^ 63) (min (2 ^ 63 - 1) (A.toInt + B.toInt)))) ∧
    Writes s (.sub q d a b 2) d (BitVec.ofInt 64 (max (-2 ^ 63) (min (2 ^ 63 - 1) (A.toInt - B.toInt)))) ∧
    Writes s (.add q d a b 3) d (BitVec.ofInt 64 (max (-2 ^ 31) (min (2 ^ 31 - 1) (a32.toInt + b32.toInt)))) ∧
    Writes s (.sub q d a b 3) d (BitVec.ofInt 64 (max (-2 ^ 31) (min (2 ^ 31 - 1) (a32.toInt - b32.toInt)))) ∧
    Writes s (.add q d a b 4) d (BitVec.ofNat 64 (min (2 ^ 64 - 1) (A.toNat + B.toNat))) ∧
    Writes s (.sub q d a b 4) d (BitVec.ofNat 64 (A.toNat - B.toNat)) ∧
    Writes s (.add q d a b 5) d (BitVec.ofNat 64 (min (2 ^ 32 - 1) (a32.toNat + b32.toNat))) ∧
    Writes s (.sub q d a b 5) d (BitVec.ofNat 64 (a32.toNat - b32.toNat)) ∧
    Writes s (.addImm q d a k) d (A + k.signExtend 64) ∧ Writes s (.subImm q d a k) d (A - k.signExtend 64)

/-- R145, R147: `MUL` and `MULH`. -/
def Sys2Proof.Claims.MulResults : Prop :=
  ∀ (s : State) (q : BitVec 4) (d a b : BitVec 5) (k : BitVec 11), AtS s q → qpOk q = true →
    let A := s.sreg a; let B := s.sreg b; let K : DWord := k.signExtend 64
    Writes s (.mul q d a b 0) d (A * B) ∧
    Writes s (.mul q d a b 1) d ((A.setWidth 32 * B.setWidth 32 : Word).signExtend 64) ∧
    Writes s (.mulh q d a b 0) d ((A.signExtend 128 * B.signExtend 128).extractLsb' 64 64) ∧
    Writes s (.mulh q d a b 1) d ((A.setWidth 128 * B.setWidth 128).extractLsb' 64 64) ∧
    Writes s (.mulh q d a b 2) d ((A.signExtend 128 * B.setWidth 128).extractLsb' 64 64) ∧
    Writes s (.mulImm q d a k) d (A * K) ∧
    Writes s (.mulhImm q d a k) d ((A.signExtend 128 * K.signExtend 128).extractLsb' 64 64)

/-- R145, R147: `DIV` and `REM` by a divisor that is not 0, in every function. -/
def Sys2Proof.Claims.DivResults : Prop :=
  ∀ (s : State) (q : BitVec 4) (d a b : BitVec 5) (k : BitVec 11), AtS s q → qpOk q = true →
    let A := s.sreg a; let B := s.sreg b; let K : DWord := k.signExtend 64
    let a32 : Word := A.setWidth 32; let b32 : Word := B.setWidth 32
    (B ≠ 0 → Writes s (.div q d a b 0) d (A.sdiv B) ∧ Writes s (.rem q d a b 0) d (A.srem B) ∧
      Writes s (.div q d a b 1) d (A.udiv B) ∧ Writes s (.rem q d a b 1) d (A.umod B)) ∧
    (b32 ≠ 0 → Writes s (.div q d a b 2) d ((a32.sdiv b32).signExtend 64) ∧ Writes s (.rem q d a b 2) d ((a32.srem b32).signExtend 64) ∧
      Writes s (.div q d a b 3) d ((a32.udiv b32).setWidth 64) ∧ Writes s (.rem q d a b 3) d ((a32.umod b32).setWidth 64)) ∧
    (k ≠ 0 → Writes s (.divImm q d a k) d (A.sdiv K) ∧ Writes s (.remImm q d a k) d (A.srem K))

/-- R147: a divisor of 0 gives all ones of the operand width as the quotient and the dividend as the remainder. -/
def Sys2Proof.Claims.DivByZero : Prop :=
  ∀ (s : State) (q : BitVec 4) (d a b : BitVec 5), AtS s q → qpOk q = true → s.sreg b = 0 →
    let A := s.sreg a; let a32 : Word := A.setWidth 32
    Writes s (.div q d a b 0) d (BitVec.allOnes 64) ∧ Writes s (.div q d a b 1) d (BitVec.allOnes 64) ∧
    Writes s (.div q d a b 2) d (BitVec.allOnes 64) ∧ Writes s (.div q d a b 3) d 0xFFFFFFFF ∧
    Writes s (.rem q d a b 0) d A ∧ Writes s (.rem q d a b 1) d A ∧
    Writes s (.rem q d a b 2) d (a32.signExtend 64) ∧ Writes s (.rem q d a b 3) d (a32.setWidth 64) ∧
    Writes s (.divImm q d a 0) d (BitVec.allOnes 64) ∧ Writes s (.remImm q d a 0) d A

/-- R145 to R147: the arithmetic instructions of S. -/
def Obligations.IntegerArithmetic : Prop :=
  Claims.AddSubResults ∧ Claims.MulResults ∧ Claims.DivResults ∧ Claims.DivByZero

/-- R145, R148: the bit operations and the shifts, whose count is taken modulo the operand's width. -/
def Sys2Proof.Claims.LogicShiftResults : Prop :=
  ∀ (s : State) (q : BitVec 4) (d a b : BitVec 5) (k : BitVec 11), AtS s q → qpOk q = true →
    let A := s.sreg a; let B := s.sreg b; let K : DWord := k.signExtend 64
    let a32 : Word := A.setWidth 32
    let n := B.toNat % 64; let n32 := B.toNat % 32; let m := K.toNat % 64
    Writes s (.and q d a b 0) d (A &&& B) ∧ Writes s (.or q d a b 0) d (A ||| B) ∧ Writes s (.xor q d a b 0) d (A ^^^ B) ∧
    Writes s (.andImm q d a k) d (A &&& K) ∧ Writes s (.orImm q d a k) d (A ||| K) ∧ Writes s (.xorImm q d a k) d (A ^^^ K) ∧
    Writes s (.shl q d a b 0) d (A <<< n) ∧ Writes s (.shr q d a b 0) d (A >>> n) ∧ Writes s (.sra q d a b 0) d (A.sshiftRight n) ∧
    Writes s (.shl q d a b 1) d ((a32 <<< n32).signExtend 64) ∧ Writes s (.shr q d a b 1) d ((a32 >>> n32).setWidth 64) ∧
    Writes s (.sra q d a b 1) d ((a32.sshiftRight n32).signExtend 64) ∧
    Writes s (.shlImm q d a k) d (A <<< m) ∧ Writes s (.shrImm q d a k) d (A >>> m) ∧ Writes s (.sraImm q d a k) d (A.sshiftRight m)

/-- The six conditions of `SETC` on operands of one width (R149). -/
def Sys2Proof.Claims.setcHolds {w : Nat} (c : Nat) (a b : BitVec w) : Prop :=
  match c with
  | 0 => a.toInt < b.toInt
  | 1 => a.toNat < b.toNat
  | 2 => a = b
  | 3 => a ≠ b
  | 4 => b.toInt ≤ a.toInt
  | _ => b.toNat ≤ a.toNat

/-- R149, R150, R151: `SETC` into a register and into a predicate, `SEL`, `LIMM`. -/
def Sys2Proof.Claims.SetcSelLimmResults : Prop :=
  ∀ (s : State) (q : BitVec 4) (d a b c : BitVec 5) (k : BitVec 11) (i : BitVec 16) (f : BitVec 6), AtS s q → qpOk q = true →
    let A := s.sreg a; let B := s.sreg b
    let holds := if f.getLsbD 4 then Claims.setcHolds (f.toNat % 8) (A.setWidth 32 : Word) (B.setWidth 32 : Word) else Claims.setcHolds (f.toNat % 8) A B
    (setcOk d f = true → f.getLsbD 5 = false →
      (holds → Writes s (.setc q d a b f) d 1) ∧ (¬holds → Writes s (.setc q d a b f) d 0)) ∧
    (setcOk d f = true → f.getLsbD 5 = true →
      (holds → exec (.setc q d a b f) s = .next (s.retire fun x => { x with s := { x.s with preds := x.s.preds ||| 1#8 <<< d.toNat } })) ∧
      (¬holds → exec (.setc q d a b f) s = .next (s.retire fun x => { x with s := { x.s with preds := x.s.preds &&& ~~~(1#8 <<< d.toNat) } }))) ∧
    (A.toInt < (k.signExtend 64).toInt → Writes s (.setcImm q d a k) d 1) ∧
    ((k.signExtend 64).toInt ≤ A.toInt → Writes s (.setcImm q d a k) d 0) ∧
    Writes s (.sel q d a b 0 c) d (if s.sreg c ≠ 0 then A else B) ∧
    Writes s (.sel q d a b 1 c) d (if s.sreg c = 0 then A else B) ∧
    Writes s (.limm q d i) d (i.signExtend 64) ∧ Writes s (.limmSh q d i) d ((s.sreg d <<< 16) ||| i.setWidth 64)

/-- R145, R148 to R151: bit operations, shifts, compares, selection and constants of S. -/
def Obligations.LogicAndConstants : Prop :=
  Claims.LogicShiftResults ∧ Claims.SetcSelLimmResults

/-- R139: register `s0` reads 0, and a write to it changes nothing. -/
def Sys2Proof.Claims.S0ReadsZero : Prop :=
  ∀ (x : Cell) (v : DWord) (r : Nat), x.reg (.stream .s) 0 = 0 ∧ x.setReg (.stream .s) 0 v = x ∧
    (x.setReg (.stream .s) 0 v).reg (.stream .s) r = x.reg (.stream .s) r

/-- R112: an instruction of S whose predicate is 0 writes nothing and only passes. -/
def Sys2Proof.Claims.PredicatedOff : Prop :=
  ∀ (s : State) (q : BitVec 4) (i : Instr), AtS s 0 → qpOk q = true → predHolds s.here.s.preds q = false →
    ((∃ d a b, i = .add q d a b 0) ∨ (∃ d a, i = .mulImm q d a 3) ∨ (∃ z d a o, i = .ld z q d a o) ∨ (∃ z d a o, i = .st z q d a o) ∨
      (∃ k c, i = .tsig q k 0 c) ∨ (∃ e, i = .trap q e) ∨ i = .tend q) →
    i.wellFormed = true → exec i s = .next (s.retire id)

/-- R112, R139: the register that is 0, and instructions that a predicate turns off. -/
def Obligations.ZeroRegisterAndPredicates : Prop :=
  Claims.S0ReadsZero ∧ Claims.PredicatedOff

/-! ### S: branches and jumps -/

/-- R157 to R160: a taken branch or jump goes on at the target, the link is PC + 4. -/
def Sys2Proof.Claims.JumpResults : Prop :=
  ∀ (s : State) (q : BitVec 4) (a b d : BitVec 5) (c : BitVec 3) (o : BitVec 13) (l : BitVec 25), AtS s q → qpOk q = true →
    let pc := s.here.s.iss.pc; let A := s.sreg a; let B := s.sreg b
    let near : DWord := pc + (o.signExtend 64 <<< 2); let far : DWord := pc + (l.signExtend 64 <<< 2)
    let taken := match c.toNat with
      | 0 => A = B | 1 => A ≠ B | 2 => A.toInt < B.toInt | 3 => B.toInt ≤ A.toInt | 4 => A.toNat < B.toNat | _ => B.toNat ≤ A.toNat
    (c.toNat < 6 → taken → targetCheck (pc.toNat + 4 * o.toInt) = none → exec (.br c a b o) s = .next (s.retire id (some near))) ∧
    (c.toNat < 6 → ¬taken → exec (.br c a b o) s = .next (s.retire id)) ∧
    (targetCheck (pc.toNat + 4 * l.toInt) = none →
      exec (.jmp l) s = .next (s.retire id (some far)) ∧
      exec (.jmpL l) s = .next (s.retire (fun x => x.setReg (.stream .s) 31 (pc + 4)) (some far))) ∧
    (canonical A.toNat = true → A.toNat % 4 = 0 →
      exec (.jmpi q a) s = .next (s.retire id (some A)) ∧
      exec (.jmpiL q d a) s = .next (s.retire (fun x => x.setReg (.stream .s) d.toNat (pc + 4)) (some A)))

/-- R161, R162: the counted loop of S and the setting of its predicates. -/
def Sys2Proof.Claims.LoopsResults : Prop :=
  ∀ (s : State) (a b : BitVec 5) (o : BitVec 13), AtS s 0 → (a ≠ b ∨ a = 0) →
    let pc := s.here.s.iss.pc; let A := s.sreg a; let B := s.sreg b; let p := s.here.s.preds
    let go := fun (r : BitVec 5) (v : DWord) (in_ : BitVec 8) (np : Option DWord) =>
      s.retire (fun x => let y := x.setReg (.stream .s) r.toNat v; { y with s := { y.s with preds := (p <<< 1) ||| in_ } }) np
    (targetCheck (pc.toNat + 4 * o.toInt) = none →
      (A ≠ 0 → exec (.loops a b o) s = .next (go a (A - 1) 1 (some (pc + (o.signExtend 64 <<< 2))))) ∧
      (A = 0 → 1 < B.toNat → exec (.loops a b o) s = .next (go b (B - 1) 0 (some (pc + (o.signExtend 64 <<< 2)))))) ∧
    (A = 0 → B.toNat ≤ 1 → exec (.loops a b o) s = .next (go b 0 0 none)) ∧
    exec (.loopsSet a) s = .next (s.retire fun x => { x with s := { x.s with preds := A.setWidth 8 } })

/-- R157, R304: a taken target outside 0 to 2^64 − 1, or not canonical, raises RANGE or NONCANON at the branch, whose
address becomes `SPC`, and no link is written. -/
def Sys2Proof.Claims.BadTargetTraps : Prop :=
  ∀ (s : State) (l : BitVec 25), AtS s 0 → s.here.trap.inTrap = false → vectorOk s.here.trap.tvec = true →
    let t : Int := s.here.s.iss.pc.toNat + 4 * l.toInt
    ((t < 0 ∨ (2 ^ 64 : Int) ≤ t) → Traps s (.jmpL l) ⟨0x05, BitVec.ofInt 64 t⟩ 0 s.here.s.iss.pc 1) ∧
    (2 ^ 51 ≤ t → t < 2 ^ 64 - 2 ^ 51 → Traps s (.jmpL l) ⟨0x04, BitVec.ofInt 64 t⟩ 0 s.here.s.iss.pc 1)

/-- R157 to R162: the control flow of S.
Model's choices: notes/assumptions/50. -/
def Obligations.BranchesAndJumps : Prop :=
  Claims.JumpResults ∧ Claims.LoopsResults ∧ Claims.BadTargetTraps

/-! ### S: memory -/

/-- R152, R140: a load passes its checks at issue and writes its register when its data returns: the `sz` bytes at the
address, zero- or sign-extended; no other register and no memory changes. -/
def Sys2Proof.Claims.LoadCompletes : Prop :=
  ∀ (s : State) (z : BitVec 3) (q : BitVec 4) (d a : BitVec 5) (o : BitVec 9) (pa : Nat), AtS s q → (Instr.ld z q d a o).wellFormed = true →
    let c := s.focus.1; let n : Nat := 2 ^ (z.toNat % 4); let ea : Int := (s.sreg a).toNat + o.toInt * n
    let i := Instr.ld z q d a o
    let t0 := s.entered i { q := q, a := a, dest := d }
    t0.accessCheck (t0.whoOf c (.stream .s)) ea n n { rd := true } = .ok pa → foreignPad c pa = false →
    ∃ t, exec i s = .next t ∧ t.here.s.iss.pc = s.here.s.iss.pc + 4 ∧ t.here.s.regs = s.here.s.regs ∧ t.mem = s.mem ∧
      ((t.readPa (dieOf c) pa n).bad = none → t.regSettled pa = true →
        let v := leNat (t.readPa (dieOf c) pa n).bytes
        ∃ u, exec (.loadDataReturn c (.stream .s) 0) t = .next u ∧ u.here.s.iss.unfinished = [] ∧
          u.here.s.regs = (s.here.setReg (.stream .s) d.toNat (if z.toNat < 4 then BitVec.ofNat 64 v else BitVec.ofInt 64 (sextNat (8 * n) v))).s.regs ∧
          u.here.s.preds = s.here.s.preds ∧ u.here.trap = s.here.trap ∧ u.mem = s.mem ∧ u.disp = s.disp)

/-- R152: a store to DRAM or cluster SRAM writes the low bytes of its register at its address and changes no register; every other byte
of its own die's view reads as before. -/
def Obligations.StoreCompletes : Prop :=
  ∀ (s : State) (z : BitVec 3) (q : BitVec 4) (d a : BitVec 5) (o : BitVec 9) (pa : Nat), AtS s q → (Instr.st z q d a o).wellFormed = true →
    let c := s.focus.1; let n : Nat := 2 ^ (z.toNat % 4); let ea : Int := (s.sreg a).toNat + o.toInt * n
    let i := Instr.st z q d a o
    let t0 := s.entered i { q := q, a := a, d := d }
    t0.accessCheck (t0.whoOf c (.stream .s)) ea n n { wr := true } = .ok pa → viewed pa = true → s.sluiceAt pa = none →
    s.storesOut (c, .stream .s) < 32 → dieOf c < s.mem.views.length → (s.mem.views.getD (dieOf c) []).wf = true → s.mem.pend = [] →
    ∃ t, exec i s = .next t ∧ t.here.s.regs = s.here.s.regs ∧ t.here.s.iss.pc = s.here.s.iss.pc + 4 ∧ t.here.s.iss.unfinished = [] ∧
      t.here.trap = s.here.trap ∧
      (∀ k, k < n → (t.mem.views.getD (dieOf c) []).read (pa + k) = (s.sreg d).extractLsb' (8 * k) 8) ∧
      (∀ k, (k < pa ∨ pa + n ≤ k) → (t.mem.views.getD (dieOf c) []).read k = (s.mem.views.getD (dieOf c) []).read k)

/-- R93, R154, R155: `ATOM` and `CAS` complete: they leave for their home engine; it reads the old value, writes the new one
(`CAS` only when the old value is `sd`'s), and the register receives the old value; the other registers stay. The stores class is
below its capacity (R163), the home view holds what the requester's die has seen (R94). -/
def Sys2Proof.Claims.AtomicsRun : Prop :=
  ∀ (s : State) (sc : BitVec 4) (o : BitVec 2) (d a b f : BitVec 5) (pa : Nat) (i : Instr) (n : Nat) (op : Nat) (e : BitVec 5),
    AtS s 0 → i.wellFormed = true → s.storesOut (s.focus.1, .stream .s) < 32 →
    ((i = .atom sc o d a b f ∧ n = atomWidth f ∧ op = f.toNat ∧ e = 0) ∨ (i = .cas sc o d a b f ∧ n = 4 * (f.toNat + 1) ∧ op = 31 ∧ e = d)) →
    let c := s.focus.1
    let t0 := s.entered i { a := a, b := b, d := e, dest := d }
    t0.accessCheck (t0.whoOf c (.stream .s)) (s.sreg a).toNat n n { rd := true, wr := true } = .ok pa → viewed pa = true →
    s.sluiceAt pa = none → s.mem.pend = [] → s.mem.poison = [] → homeDie pa < s.mem.views.length → (s.mem.views.getD (homeDie pa) []).wf = true → homeQuad pa < s.quads.length →
    (s.quad (homeQuad pa)).requests = [] → s.performedAt (c, .stream .s) sc.toNat = true →
    s.mem.covers (homeDie pa) (s.mem.clocks.getD (dieOf c) []) = true →
    let old := leNat (s.mem.read (homeDie pa) pa n)
    let B := (s.sreg b).toNat % 2 ^ (8 * n)
    let new := if op = 31 then (if old = (s.sreg d).toNat % 2 ^ (8 * n) then B else old) else atomNew op n old B
    ∃ t u v, exec i s = .next t ∧ exec (.atomicExecute (homeQuad pa) 0) t = .next u ∧ exec (.loadDataReturn c (.stream .s) 0) u = .next v ∧
      leNat (v.mem.read (homeDie pa) pa n) = new % 2 ^ (8 * n) ∧
      v.here.s.regs = (s.here.setReg (.stream .s) d.toNat (BitVec.ofNat 64 old)).s.regs ∧ v.here.s.iss.unfinished = [] ∧ v.here.s.iss.wait = none ∧
      v.here.s.iss.pc = s.here.s.iss.pc + 4 ∧ v.here.trap = s.here.trap ∧
      ∀ k, (k < pa ∨ pa + n ≤ k) → (v.mem.views.getD (homeDie pa) []).read k = (s.mem.views.getD (homeDie pa) []).read k

/-- R93, R154, R156: an `ATOM` or `CAS` on a cell's window is not performed: PERM is decided at its issue. -/
def Sys2Proof.Claims.AtomicsOnWindows : Prop :=
  ∀ (s : State) (sc : BitVec 4) (o : BitVec 2) (d a b f : BitVec 5) (pa k off : Nat) (i : Instr) (n : Nat) (e : BitVec 5),
    AtS s 0 → i.wellFormed = true → ((i = .atom sc o d a b f ∧ n = atomWidth f ∧ e = 0) ∨ (i = .cas sc o d a b f ∧ n = 4 * (f.toNat + 1) ∧ e = d)) →
    let t0 := s.entered i { a := a, b := b, d := e, dest := d }
    t0.accessCheck (t0.whoOf s.focus.1 (.stream .s)) (s.sreg a).toNat n n { rd := true, wr := true } = .ok pa → place pa = .window k off →
    ∃ t, exec i s = .next t ∧ t.here.s.iss.unfinished.map (·.trap) = [some ⟨0x09, s.sreg a⟩] ∧ t.here.s.regs = s.here.s.regs ∧ t.mem = s.mem

/-- R93, R154 to R156: the atomics, where they complete and where they trap. -/
def Obligations.AtomicsComplete : Prop :=
  Claims.AtomicsRun ∧ Claims.AtomicsOnWindows

/-- The data of the oldest unfinished instruction of S returns `n` times. -/
def Sys2Proof.Claims.Returns (c : Nat) (n : Nat) (s t : State) : Prop :=
  match n with
  | 0 => s = t
  | n + 1 => ∃ u, exec (.loadDataReturn c (.stream .s) 0) s = .next u ∧ Claims.Returns c n u t

/-- R80, R127, R169: `TDEF` replaces tensor entry `t` by the 64 bytes at its address, which return in eight pieces, when they
pass the checks, and clears it when `USES` is 0; a failing check raises FORMAT with its number. -/
def Sys2Proof.Claims.TdefCompletes : Prop :=
  ∀ (s : State) (q : BitVec 4) (a : BitVec 5) (e : BitVec 8) (pa : Nat), AtS s q → (Instr.tdef q a e).wellFormed = true →
    let c := s.focus.1; let i := Instr.tdef q a e
    let t0 := s.entered i { q := q, a := a }
    t0.accessCheck (t0.whoOf c (.stream .s)) (s.sreg a).toNat 64 64 { rd := true } = .ok pa → foreignPad c pa = false →
    (∀ k off, place pa = .window k off → off < 0x200000) →
    ∃ t, exec i s = .next t ∧ t.here.tensors = s.here.tensors ∧ t.here.s.iss.pc = s.here.s.iss.pc + 4 ∧ t.mem = s.mem ∧
      ((∀ k, k < 8 → (t.readPa (dieOf c) (pa + 8 * k) 8).bad = none) →
        let x : BitVec 512 := BitVec.ofNat 512 (leNat ((List.range 8).flatMap fun k => (t.readPa (dieOf c) (pa + 8 * k) 8).bytes))
        ∃ u, Claims.Returns c 8 t u ∧ u.here.s.regs = s.here.s.regs ∧
          (x.extractLsb' 180 12 = 0 → u.here.tensors = s.here.tensors.set e.toNat 0 ∧ u.here.s.iss.unfinished = []) ∧
          (x.extractLsb' 180 12 ≠ 0 → tdefCheck x = 0 → u.here.tensors = s.here.tensors.set e.toNat x ∧ u.here.s.iss.unfinished = []) ∧
          (x.extractLsb' 180 12 ≠ 0 → tdefCheck x ≠ 0 → u.here.tensors = s.here.tensors ∧
            (u.here.s.iss.unfinished.map (·.trap)) = [some ⟨0x19, BitVec.ofNat 64 (tdefCheck x)⟩]))

/-- R127, R140, R152, R169: what S reads from memory into a register or a tensor entry.
Model's choices: notes/assumptions/22. -/
def Obligations.LoadsComplete : Prop :=
  Claims.LoadCompletes ∧ Claims.TdefCompletes

/-- R131, R380, R381: the checks of an access of S come in order: RANGE, NONCANON, ALIGN, then NOTPRESENT, then PERM. -/
def Sys2Proof.Claims.AccessChecksOrdered : Prop :=
  ∀ (s : State) (w : Who) (ea : Int) (n al : Nat) (need : Need), 0 < n → 0 < al →
    let got := s.accessCheck w ea n al need
    ((ea < 0 ∨ (2 ^ 64 : Int) < ea + n) → got = .trap ⟨0x05, BitVec.ofInt 64 ea⟩) ∧
    ((2 ^ 51 : Int) ≤ ea → ea + n ≤ 2 ^ 64 → ea < 2 ^ 64 - 2 ^ 51 → got = .trap ⟨0x04, BitVec.ofInt 64 ea⟩) ∧
    (∀ k : Nat, ea = k → addrCheck ea n = none →
      (k % al ≠ 0 → got = .trap ⟨0x03, BitVec.ofNat 64 k⟩) ∧
      (k % al = 0 → s.lookup w k = .notPresent → got = .trap ⟨0x08, BitVec.ofNat 64 k⟩) ∧
      (∀ e large at_, k % al = 0 → s.lookup w k = .leaf e large at_ → (place (leafPa e large k) = .hbm) →
        (((need.rd = true ∧ leafRD e = false) ∨ (need.wr = true ∧ leafWR e = false) ∨ (leafSUP e = true ∧ w.super = false)) →
          got = .trap ⟨0x09, BitVec.ofNat 64 k⟩) ∧
        (need.ex = false → (need.rd = true → leafRD e = true) → (need.wr = true → leafWR e = true) → (leafSUP e = true → w.super = true) →
          got = .ok (leafFrame e + k % (if large then 2 ^ 21 else 2 ^ 16)))))

/-- R98, R153: an access of S to its own scratchpad raises SHUTTER when the tile's shutter does not read S. -/
def Sys2Proof.Claims.ShutterStops : Prop :=
  ∀ (s : State) (q : BitVec 4) (z : BitVec 3) (d a : BitVec 5) (o : BitVec 9) (e : DWord) (large : Bool) (x : Nat) (off : Nat),
    AtS s q → (Instr.st z q d a o).wellFormed = true →
    let c := s.focus.1; let n : Nat := 2 ^ (z.toNat % 4); let ea : Int := (s.sreg a).toNat + o.toInt * n
    let i := Instr.st z q d a o
    let t0 := s.entered i { q := q, a := a, d := d }
    addrCheck ea n = none → ea.toNat % n = 0 → t0.lookup (t0.whoOf c (.stream .s)) ea.toNat = .leaf e large x →
    place (leafPa e large ea.toNat) = .window c off → off < 0x200000 → s.here.shutter (off / 0x4000) ≠ 0 →
    ∃ t, exec i s = .next t ∧ (t.here.s.iss.unfinished.map (·.trap)) =
        [some ⟨0x10, BitVec.ofNat 64 (off / 0x4000 + 256 * (s.here.shutter (off / 0x4000)).toNat)⟩] ∧
      t.mem = s.mem ∧ t.here.pad = s.here.pad ∧ t.here.s.regs = s.here.s.regs

/-- R98, R131, R153, R380, R381: the checks of an access of S. -/
def Obligations.AccessChecks : Prop :=
  Claims.AccessChecksOrdered ∧ Claims.ShutterStops

/-! ### S: dependence and ordering -/

/-- R163 to R168: the forms whose condition holds already finish at once. -/
def Sys2Proof.Claims.OrderingCompletes : Prop :=
  ∀ (s : State) (q b sc : BitVec 4) (k l st : BitVec 5) (cp t : BitVec 4) (n : BitVec 1) (m : BitVec 12) (tile : BitVec 7) (code : BitVec 3) (kd : BitVec 2),
    AtS s q → qpOk q = true → (b = 15 → s.here.s.super = true) →
    let c := s.focus.1; let me : Nat × Agent := (c, .stream .s)
    let count := if n = 1 then (s.sreg (m.extractLsb' 0 5)).toNat % 2 ^ 16 else m.toNat
    (s.storesOut me ≤ st.toNat → s.peerStores c ≤ cp.toNat → Retires s (.waitc q b l st cp t) id) ∧
    (countOk n m = true → s.performedAt me 3 = true → Retires s (.tsig q k n m) fun x => x.signal k.toNat count) ∧
    (countOk n m = true → count ≤ s.here.token k.toNat → Retires s (.twait q b k n m) fun x =>
      let y := x.consume k.toNat count
      { y with s := { y.s with iss := { y.s.iss with acquire := true } } }) ∧
    (code ≤ 5 → s.here.shutter tile.toNat = 0 → s.performedAt me 1 = true → Retires s (.shut q tile code) fun x => x.setShutter tile.toNat code) ∧
    (s.here.shutter tile.toNat = 5 → Retires s (.shut q tile 0) fun x => x.setShutter tile.toNat 0) ∧
    ((Instr.fence q b sc kd).wellFormed = true → s.performedAt me sc.toNat = true → (sc.toNat ≤ 3 ∨ s.mem.pend = []) →
      Retires s (.fence q b sc kd) id)

/-- R165, R166: a token's count is added to, saturating at 65,535, and subtracted from; the other tokens stay. -/
def Sys2Proof.Claims.TokenCounts : Prop :=
  ∀ (x : Cell) (k j n : Nat), k < x.tokens.length →
    (x.signal k n).token k = min 65535 (x.token k + n) ∧ (n ≤ x.token k → (x.consume k n).token k = x.token k - n) ∧
    (j ≠ k → (x.signal k n).token j = x.token j ∧ (x.consume k n).token j = x.token j) ∧
    (x.signal k n).s = x.s ∧ (x.signal k n).shutters = x.shutters

/-- R163 to R168: waits, tokens, shutters and fences of S whose condition holds.
Model's choices: notes/assumptions/21. -/
def Obligations.OrderingForms : Prop :=
  Claims.OrderingCompletes ∧ Claims.TokenCounts

/-- R167: `SHUT` on a tile that neither reads S nor is claimed from FREE raises SHUTTER. -/
def Sys2Proof.Claims.ShutTraps : Prop :=
  ∀ (s : State) (q : BitVec 4) (tile : BitVec 7) (code : BitVec 3), AtS s q → (Instr.shut q tile code).wellFormed = true →
    s.here.trap.inTrap = false → vectorOk s.here.trap.tvec = true → s.here.shutter tile.toNat ≠ 0 →
    (s.here.shutter tile.toNat ≠ 5 ∨ code ≠ 0) →
    Traps s (.shut q tile code) ⟨0x10, BitVec.ofNat 64 (tile.toNat + 256 * (s.here.shutter tile.toNat).toNat)⟩ 0 (s.here.s.iss.pc + 4) 1

/-! ### S: system registers, traps, tasks -/

/-- R122, R123, R170, R316, R317: what `RDSYS` reads, the energy with what the sub-accumulator holds; a read of `TIME` latches its
fraction. -/
def Sys2Proof.Claims.RdsysReads : Prop :=
  ∀ (s : State) (q : BitVec 4) (d : BitVec 5), AtS s q → qpOk q = true →
    let x := s.here
    let rd := fun (n : BitVec 11) (v : DWord) => Writes s (.rdsys q d n) d v
    rd 0 (x.res.ctx.setWidth 64) ∧ rd 1 (x.res.prio.setWidth 64) ∧ rd 2 (x.trap.cause.setWidth 64) ∧ rd 3 x.trap.epos ∧
    let energy := x.res.energy.toNat + x.res.ea / 2 ^ (x.res.escale.toNat + 8)
    (x.s.super = true → rd 4 x.trap.tvec) ∧
    rd 8 (BitVec.ofNat 64 (min (2 ^ 48 - 1) energy + if x.res.esat ∨ 2 ^ 48 ≤ energy then 2 ^ 63 else 0)) ∧
    rd 9 (x.res.escale.setWidth 64) ∧ rd 12 (x.res.maxred.setWidth 64) ∧ rd 17 (x.s.timef.setWidth 64) ∧ rd 18 (s.link.skewbound.setWidth 64) ∧
    rd 24 (BitVec.ofNat 64 (x.m.rowNext.toNat + if x.m.rowValid then 2 ^ 30 else 0)) ∧
    rd 25 (BitVec.ofNat 64 (x.ev.phase.toNat + 16 * x.em.phase.toNat + 256 * x.ec.phase.toNat)) ∧
    Retires s (.rdsys q d 16) fun k =>
      ({ k with s := { k.s with timef := s.link.time.extractLsb' 0 32 } } : Cell).setReg (.stream .s) d.toNat (s.link.time.extractLsb' 32 64)

/-- R122, R171: what `WRSYS` writes in SUPER mode, a dither phase at its stream's next instruction boundary; the read-only
registers ignore the write. -/
def Sys2Proof.Claims.WrsysWrites : Prop :=
  ∀ (s : State) (q : BitVec 4) (a : BitVec 5), AtS s q → qpOk q = true → s.here.s.super = true →
    let v := s.sreg a
    let wr := fun (n : BitVec 11) (f : Cell → Cell) => Retires s (.wrsys q a n) f
    wr 2 (fun k => { k with trap := { k.trap with cause := v.setWidth 8 } }) ∧ wr 3 (fun k => { k with trap := { k.trap with epos := v } }) ∧
    wr 4 (fun k => { k with trap := { k.trap with tvec := v } }) ∧
    wr 8 (fun k => { k with res := { k.res with energy := v.setWidth 48, esat := v.getLsbD 63 } }) ∧
    wr 9 (fun k => { k with res := { k.res with escale := v.setWidth 5 } }) ∧
    let moves := fun (g : Engine) (p : BitVec 4) =>
      ({ g with phase := if g.nextStep = 0 ∧ g.inprog = [] then p else g.phase, phaseNext := if g.nextStep = 0 ∧ g.inprog = [] then none else some p } : Engine)
    wr 25 (fun k => { k with ev := moves k.ev (v.extractLsb' 0 4), em := moves k.em (v.extractLsb' 4 4), ec := moves k.ec (v.extractLsb' 8 4) }) ∧
    (s.weirTask s.focus.1 = false → wr 1 fun k => { k with res := { k.res with prio := if v.toNat % 64 = 0 then 1 else v.setWidth 6 } }) ∧
    (s.weirTask s.focus.1 = true → wr 1 id) ∧
    wr 0 id ∧ wr 12 id ∧ wr 16 id ∧ wr 17 id ∧ wr 18 id ∧ wr 24 id

/-- R122, R123, R170, R171: the system registers, read and written. -/
def Obligations.SystemRegisters : Prop :=
  Claims.RdsysReads ∧ Claims.WrsysWrites

/-- R110, R122, R304: a privileged form in USER mode raises PRIV with its word, whatever its operands. -/
def Sys2Proof.Claims.PrivilegeTraps : Prop :=
  ∀ (s : State) (q : BitVec 4) (a d : BitVec 5) (n : BitVec 11) (i : Instr), AtS s q → s.here.s.super = false →
    s.here.trap.inTrap = false → vectorOk s.here.trap.tvec = true → i.wellFormed = true →
    (i = .wrsys q a n ∨ i = .rdsys q d 4 ∨ i = .tret q ∨ i = .migrStart q d a ∨ i = .migrCancel q d a ∨ i = .migrQuery q d a ∨
      (∃ k sc, i = .invpg q a k sc) ∨ (∃ k m c, i = .twait q 15 k m c) ∨ (∃ l st cp t, i = .waitc q 15 l st cp t)) →
    Traps s i ⟨0x02, BitVec.ofNat 64 (wordOf i).toNat⟩ 0 (s.here.s.iss.pc + 4) 1

/-- R110, R304: an ill-formed instruction of S raises ILLEGAL with its word, whatever its predicate reads. -/
def Sys2Proof.Claims.IllegalTraps : Prop :=
  ∀ (s : State) (q : BitVec 4) (d a b : BitVec 5) (f : BitVec 6) (i : Instr), AtS s 0 → s.here.trap.inTrap = false → vectorOk s.here.trap.tvec = true →
    (i = .add q d a b f ∨ i = .sub q d a b f) → 5 < f →
    Traps s i ⟨0x01, BitVec.ofNat 64 (wordOf i).toNat⟩ 0 (s.here.s.iss.pc + 4) 1

/-- R112: a false predicate keeps no ILLEGAL away that the operation itself raises: `TRET` outside a handler, `ESTART` of a
stream that runs. -/
def Sys2Proof.Claims.PredicatedTraps : Prop :=
  ∀ (s : State) (q : BitVec 4) (a : BitVec 5) (m : BitVec 3) (i : Instr), AtS s 0 → i.wellFormed = true → predHolds s.here.s.preds q = false →
    s.here.trap.inTrap = false → vectorOk s.here.trap.tvec = true →
    ((i = .tret q ∧ s.here.s.super = true) ∨
      (i = .estart q a m ∧ ∃ st ∈ selected m, (s.here.engine st).started = true ∧ (s.here.engine st).ended = false)) →
    Traps s i ⟨0x01, BitVec.ofNat 64 (wordOf i).toNat⟩ 0 (s.here.s.iss.pc + 4) 1

/-- R110, R112, R122, R167, R304: the traps of forms that S must not execute. -/
def Obligations.FormTraps : Prop :=
  Claims.ShutTraps ∧ Claims.PrivilegeTraps ∧ Claims.IllegalTraps ∧ Claims.PredicatedTraps

/-- R304, R311: `TRAP` raises SELF with its field; the frame is empty, so that `TRET` goes on behind it. -/
def Sys2Proof.Claims.TrapTaken : Prop :=
  ∀ (s : State) (q : BitVec 4) (e : BitVec 11), AtS s q → qpOk q = true → s.here.trap.inTrap = false → vectorOk s.here.trap.tvec = true →
    Traps s (.trap q e) ⟨0x38, e.setWidth 64⟩ 15 (s.here.s.iss.pc + 4) 0

/-- R295: a trap with `INTRAP` = 1, or through a `TVEC` that is not canonical and aligned, makes an ACTIVE context
FAULTED. -/
def Sys2Proof.Claims.TrapInTrapFaults : Prop :=
  ∀ (s : State) (q : BitVec 4) (e : BitVec 11), AtS s q → qpOk q = true →
    (s.here.trap.inTrap = true ∨ vectorOk s.here.trap.tvec = false) → (s.context s.here.res.ctx).state = .active →
    ∃ t, exec (.trap q e) s = .next t ∧ (t.context s.here.res.ctx).state = .faulted

/-- R295, R304, R311: the trap that `TRAP` takes, and a trap that cannot be taken. -/
def Obligations.SelfTrap : Prop :=
  Claims.TrapTaken ∧ Claims.TrapInTrapFaults

/-- R89, R142, R312: `TRET` restores the mode, clears `INTRAP`, re-injects the valid entries and goes on at `SPC`, with the acquire that
held issue when the trap was taken. -/
def Obligations.TretReturns : Prop :=
  ∀ (s : State) (q : BitVec 4), AtS s q → qpOk q = true → s.here.s.super = true →
    (s.here.trap.inTrap = true → ∃ t, exec (.tret q) s = .next t ∧ t.here.trap.inTrap = false ∧ t.here.trap.eskip = false ∧
      t.here.s.super = s.here.trap.pmode ∧ t.here.s.iss.pc = s.here.trap.tfSpc ∧ t.here.s.iss.unfinished = [] ∧
      t.here.s.iss.replay = ((s.here.trap.frame.take s.here.trap.tfN.toNat).filter (·.valid)).map reinject ∧
      t.here.s.iss.acquire = s.here.trap.acquire ∧
      t.here.s.regs = s.here.s.regs ∧ t.here.s.preds = s.here.s.preds ∧ t.mem = s.mem ∧ t.disp = s.disp) ∧
    (s.here.trap.inTrap = false → vectorOk s.here.trap.tvec = true →
      Traps s (.tret q) ⟨0x01, BitVec.ofNat 64 (wordOf (.tret q)).toNat⟩ 0 (s.here.s.iss.pc + 4) 1)

/-- R313: `YIELD` completes with 1 when the cell runs no task or its task has no save slot, and for a landing whose packet waits
already. -/
def Sys2Proof.Claims.YieldCompletes : Prop :=
  ∀ (s : State) (q : BitVec 4) (d a : BitVec 5), AtS s q → qpOk q = true → s.here.res.stop = none →
    ((s.here.res.task = none ∨ s.slotless s.focus.1 = true) → Writes s (.yield q d) d 1 ∧ Writes s (.yieldLand q d a) d 1) ∧
    (s.here.tagWaits ((s.sreg a).setWidth 16) = true → Writes s (.yieldLand q d a) d 1)

/-- R301, R313: in a task that has a save slot, `YIELD` begins the suspension of the task with its reason and waits; no register
changes before the task resumes. -/
def Sys2Proof.Claims.YieldSuspends : Prop :=
  ∀ (s : State) (q : BitVec 4) (d a : BitVec 5) (n : Nat) (t : Task), AtS s q → qpOk q = true → s.here.res.stop = none →
    s.here.res.task = some n → s.task n = some t → s.slotless s.focus.1 = false →
    let tag : BitVec 16 := (s.sreg a).setWidth 16
    let waits := fun (i : Instr) (p : Stop) => ∃ u, exec i s = .next u ∧ u.stalled = true ∧ u.here.res.stop = some p ∧
      u.here.s.regs = s.here.s.regs ∧ u.here.s.iss.unfinished.map (·.instr) = [i] ∧ u.here.s.iss.wait.isSome = true ∧ u.mem = s.mem
    waits (.yield q d) { reason := .yield } ∧ (s.here.tagWaits tag = false → waits (.yieldLand q d a) { reason := .yieldLand, tag := tag })

/-- R314: `TEND` completes once the engines have ended: S ends, and in a handler the frame is emptied; before that it waits. -/
def Sys2Proof.Claims.TendCompletes : Prop :=
  ∀ (s : State) (q : BitVec 4), AtS s q → qpOk q = true →
    (s.here.enginesEnded = true → Retires s (.tend q) fun x =>
      let y : Cell := if x.trap.inTrap then { x with trap := { x.trap with tfN := 0, frame := List.replicate 8 {} } } else x
      { y with s := { y.s with ended := true } }) ∧
    (s.here.enginesEnded = false → ∃ u, exec (.tend q) s = .next u ∧ u.stalled = true ∧ u.here.s.ended = s.here.s.ended ∧
      u.here.s.regs = s.here.s.regs ∧ u.here.s.iss.wait.isSome = true ∧ u.mem = s.mem)

/-- R347: `IFENCE` completes with an empty instruction cache and the kept generation 0. -/
def Sys2Proof.Claims.IfenceCompletes : Prop :=
  ∀ (s : State) (q : BitVec 4), AtS s q → qpOk q = true → Retires s (.ifence q) (fun x => { x with icache := [], gen := 0 })

/-- R301, R313, R314, R347: `YIELD`, `TEND` and `IFENCE` complete, and where `YIELD` and `TEND` wait. -/
def Obligations.TaskEndings : Prop :=
  Claims.YieldCompletes ∧ Claims.YieldSuspends ∧ Claims.TendCompletes ∧ Claims.IfenceCompletes

/-! ### S: work, groups, barriers, pages, links -/

/-- R335, R353: `QPUT` reads its record, puts it, and returns the status; a queue that is not OPEN returns 1 and takes nothing. For a
launch of another module it asks the launch's home first, when no earlier packet on another route holds the request (R405), unless a check of this module
fails; without a route it returns 4. -/
def Sys2Proof.Claims.QputCompletes : Prop :=
  ∀ (s t : State) (q : BitVec 4) (d a : BitVec 5) (n : BitVec 11) (bs : List Byte), AtS s q → qpOk q = true →
    let c := s.focus.1; let i := Instr.qput q d a n; let f : Form := { q := q, a := a, dest := d }
    let t0 := s.entered i f
    (s.sreg a).toNat % 64 = 0 → canonical (s.sreg a).toNat = true → s.performedAt (c, .stream .s) 4 = true →
    t0.readVa (t0.whoOf c (.stream .s)) s.cycle 40 (s.sreg a).toNat 64 = .ok (t, bs) →
    let r := t.put n.toNat (s.sreg a).toNat (recordOf bs) (some (t.whoOf c (.stream .s)).ctx)
    let l := (recordOf bs).launchid; let far := l ≠ 0 ∧ t.homed l = false
    let st := t.putStatus n.toNat (recordOf bs) (some (t.whoOf c (.stream .s)).ctx)
    (¬far → Gives s i r.2 d (BitVec.ofNat 64 r.1) ∧ ((t.queue n.toNat).state ≠ 1 → r = (1, t))) ∧
    (far → st ≠ 0 → Gives s i t d (BitVec.ofNat 64 st)) ∧
    (far → st = 0 → t.route (gidHome l) = none → Gives s i t d 4) ∧
    (∀ port, far → st = 0 → t.route (gidHome l) = some port → t.routeHeld c (gidHome l) port 3 = false → ∃ u, exec i s = .next u ∧ u.stalled = true ∧
      u.link.out = t.link.out ++ [{ dst := gidHome l, port := port, cell := c, agent := .stream .s, ctx := (t.whoOf c (.stream .s)).ctx
                                    sentAt := t.cycle, payload := .group (.enlist l) }] ∧
      u.here.s.regs = s.here.s.regs ∧ u.mem = t.mem ∧ u.disp.queues = t.disp.queues)

/-- The launch that `LAUNCH` makes of its block, the header copy and the operand declarations (R344, R345, R349). -/
def Sys2Proof.Claims.launchGroup (ctx : BitVec 16) (lb ob : List Byte) (h : BitVec 512) : Group :=
  let graph : BitVec 32 := BitVec.ofNat 32 (bytesAt lb 40 4)
  { state := 1, level := 0, ctx := ctx, parent := graph, count := BitVec.ofNat 48 (bytesAt lb 24 4), bval := BitVec.ofNat 64 (sext52 (bytesAt lb 0 8))
    node := if graph = 0 then 0 else BitVec.ofNat 32 (bytesAt lb 44 4 / 65536), header := h, bound := true
    ops := (List.range (bytesAt lb 56 1)).map fun j => BitVec.ofNat 128 (bytesAt ob (16 * j) 16) }

/-- R344 to R346: `LAUNCH` with no graph, or with one of its own module, reads its block, the header and the operand declarations; a
refusal returns its status with bit 63 set and changes nothing; else the launch is created, its records are written, its slots
filled, and `sd` receives its id. -/
def Sys2Proof.Claims.LaunchCompletes : Prop :=
  ∀ (s t1 t2 t3 t4 : State) (q : BitVec 4) (d a : BitVec 5) (lb hb ob : List Byte) (gid : BitVec 32), AtS s q → qpOk q = true →
    let c := s.focus.1; let i := Instr.launch q d a; let f : Form := { q := q, a := a, dest := d }
    let t0 := s.entered i f; let u := s.entry i f; let ctx := s.here.res.ctx
    let h : BitVec 512 := BitVec.ofNat 512 (leNat hb)
    let n := bytesAt lb 24 4; let qid := bytesAt lb 36 2; let graph : BitVec 32 := BitVec.ofNat 32 (bytesAt lb 40 4)
    s.performedAt (c, .stream .s) 4 = true → t0.blockRead c (.stream .s) u (s.sreg a).toNat 64 64 = .ok (t1, lb) →
    t1.blockRead c (.stream .s) u (sext52 (bytesAt lb 0 8)) 64 1 = .ok (t2, hb) →
    t2.blockRead c (.stream .s) u (sext52 (bytesAt lb 48 8)) (16 * (bytesAt lb 56 1 % 32)) 1 = .ok (t3, ob) →
    lb.length = 64 → hb.length = 64 → (graph = 0 ∨ t3.homed graph = true) →
    (t3.launchStatus1 ctx lb h ≠ 0 → Gives s i t3 d (BitVec.ofNat 64 (2 ^ 63 + t3.launchStatus1 ctx lb h))) ∧
    (t3.launchStatus1 ctx lb h = 0 → t3.launchStatus2 ctx lb ≠ 0 → Gives s i t3 d (BitVec.ofNat 64 (2 ^ 63 + t3.launchStatus2 ctx lb))) ∧
    (let g := Claims.launchGroup ctx lb ob h
     let t5 := (t4.klive g 1).enterParent graph gid (bytesAt lb 44 4 / 65536) 0
     let w := (t5.enqueue qid n { launch := gid, ceil := (launchRecord lb h ctx gid 0).ceiling }).writeRecords c (.stream .s) lb h gid 0 n
     t3.launchStatus1 ctx lb h = 0 → t3.launchStatus2 ctx lb = 0 → t3.createGroup g = some (gid, t4) → w.2 = none →
      w.1.performedAt (c, .stream .s) 4 = true →
      Gives s i (w.1.fillSlots qid (t5.queue qid).put.toNat (sext52 (bytesAt lb 8 8)) gid 0 n) d (gid.setWidth 64))

/-- R349, R352: what creating a group does: it takes the first free slot, and its parent, when it has one on this module, counts it. -/
def Sys2Proof.Claims.GroupCreated : Prop :=
  ∀ (t : State) (g : Group) (k : Nat), t.freeSlotOf = some k →
    let u := ({ t with disp := { t.disp with lastSlot := k } } : State).setGroup k g
    t.createGroup g = some (t.gidOf g.level.toNat k, if u.homed g.parent then u.countIn g.parent else u)

/-- R335, R344 to R346, R349, R353: `QPUT` and `LAUNCH`.
Model's choices: notes/assumptions/57. -/
def Obligations.WorkCreation : Prop :=
  Claims.QputCompletes ∧ Claims.LaunchCompletes ∧ Claims.GroupCreated

/-- R349, R352 to R354, R356, R360: `GCTL` OPEN of each level without a parent creates an OPEN group in the first free slot and returns
its id; without a free slot it returns status 4. A launch or a phase under a parent of this module that refuses
it returns the status, else takes its place there. -/
def Sys2Proof.Claims.GctlOpenCompletes : Prop :=
  ∀ (s t1 t2 : State) (q : BitVec 4) (d a : BitVec 5) (l : BitVec 2) (gb eb : List Byte) (k : Nat), AtS s q → qpOk q = true →
    let c := s.focus.1; let i := Instr.gctlOpen q d a l; let f : Form := { q := q, a := a, d := d, dest := d }
    let t0 := s.entered i f; let u := s.entry i f; let A := s.sreg a; let ctx := s.here.res.ctx
    let open_ := fun (t : State) (g : Group) => Gives s i (({ t with disp := { t.disp with lastSlot := k } } : State).setGroup k g) d ((t.gidOf l.toNat k).setWidth 64)
    (l = 0 → A.setWidth 32 = (0 : Word) → t0.freeSlotOf = some k → open_ t0 { state := 0, level := 0, ctx := ctx }) ∧
    (l = 0 → A.setWidth 32 = (0 : Word) → t0.freeSlotOf = none → Gives s i t0 d (BitVec.ofNat 64 (2 ^ 63 + 4))) ∧
    (l = 0 → t0.homed (A.setWidth 32) = true →
      let n := (s.sreg d).toNat / 2 ^ 32 % 2 ^ 16; let st := t0.joinStatus (A.setWidth 32) 1 ctx n
      let g : Group := { state := 0, level := 0, ctx := ctx, parent := A.setWidth 32, node := BitVec.ofNat 32 n }
      (st ≠ 0 → Gives s i t0 d (BitVec.ofNat 64 (2 ^ 63 + st))) ∧
      (st = 0 → t0.freeSlotOf = none → Gives s i t0 d (BitVec.ofNat 64 (2 ^ 63 + 4))) ∧
      (∀ gid t, st = 0 → t0.createGroup g = some (gid, t) → Gives s i (t.enterParent (A.setWidth 32) gid n 0) d (gid.setWidth 64))) ∧
    (l = 2 → t0.homed (A.setWidth 32) = true →
      let st := t0.joinStatus (A.setWidth 32) 3 ctx (t0.joinKey c)
      (st ≠ 0 → Gives s i t0 d (BitVec.ofNat 64 (2 ^ 63 + st))) ∧
      (∀ gid t, st = 0 → t0.createGroup { state := 0, level := 2, ctx := ctx, parent := A.setWidth 32 } = some (gid, t) →
        Gives s i (t.enterParent (A.setWidth 32) gid (t0.joinKey c) 0) d (gid.setWidth 64))) ∧
    (l = 2 → A.setWidth 32 = (0 : Word) → t0.freeSlotOf = some k → open_ t0 { state := 0, level := 2, ctx := ctx }) ∧
    (l = 3 → A.toNat < 2 ^ 25 → (∀ o, o = 0 ∨ o = 8 ∨ o = 16 → bitsAt A.toNat o 4 ≤ bitsAt A.toNat (o + 4) 4) → t0.freeSlotOf = some k →
      open_ t0 { state := 0, level := 3, ctx := ctx, garg := A }) ∧
    (l = 3 → 2 ^ 25 ≤ A.toNat → Gives s i t0 d (BitVec.ofNat 64 (2 ^ 63 + 5))) ∧
    (l = 1 → t0.blockRead c (.stream .s) u A.toNat 32 32 = .ok (t1, gb) → bytesAt gb 0 4 = 0 → bytesAt gb 20 12 = 0 → eb.length = 4 * bytesAt gb 16 4 →
      0 < bytesAt gb 4 4 → bytesAt gb 4 4 ≤ 65536 → bytesAt gb 16 4 ≤ 65536 →
      t1.blockRead c (.stream .s) u (sext52 (bytesAt gb 8 8)) (4 * bytesAt gb 16 4) 1 = .ok (t2, eb) →
      (∀ e ∈ edgesOf eb (bytesAt gb 16 4), e.1 < e.2 ∧ e.2 < bytesAt gb 4 4) → t2.freeSlotOf = some k →
      open_ t2 { state := 0, level := 1, ctx := ctx, node := BitVec.ofNat 32 (bytesAt gb 4 4), nedge := BitVec.ofNat 32 (bytesAt gb 16 4)
                 garg := BitVec.ofNat 64 (sext52 (bytesAt gb 8 8)), edges := edgesOf eb (bytesAt gb 16 4) })

/-- R352, R360: the other forms of `GCTL` on a group of this module: they return 1 when no group has the id, 3 when its
context is another one, 2 when its state does not allow them, and else their result. -/
def Sys2Proof.Claims.GctlFormsComplete : Prop :=
  ∀ (s : State) (q b : BitVec 4) (d a : BitVec 5) (k : BitVec 2) (p : BitVec 1), AtS s q → qpOk q = true → (b = 15 → s.here.s.super = true) →
    let gid : BitVec 32 := (s.sreg a).setWidth 32; let ctx := s.here.res.ctx
    let at_ := fun (i : Instr) => s.entered i { q := q, a := a, d := match i with | .gctlClose .. => d | _ => 0, dest := d }
    let close := Instr.gctlClose q d a k; let cancel := Instr.gctlCancel q d a
    let query := Instr.gctlQuery q d a p; let wait := Instr.gctlWait q d a b
    let st := fun (n : Nat) => BitVec.ofNat 64 (2 ^ 63 + n)
    gid ≠ 0 → gidHome gid = s.moduleNumber → close.wellFormed = true →
    (s.group gid = none → Writes s close d (st 1) ∧ Writes s cancel d (st 1) ∧ Writes s query d (st 1) ∧ Writes s wait d (st 1)) ∧
    (∀ g, s.group gid = some g →
      (g.ctx ≠ ctx → Writes s close d (st 3) ∧ Writes s cancel d (st 3) ∧ Writes s query d (st 3) ∧ Writes s wait d (st 3)) ∧
      (g.ctx = ctx →
        (p = 1 → Writes s query d (g.parent.setWidth 64)) ∧
        (p = 0 → Gives s query ((at_ query).freeSeen gid) d g.word) ∧
        (g.terminal = true → Writes s cancel d (st 2) ∧ Gives s wait ((at_ wait).freeSeen gid) d g.word) ∧
        (g.terminal = false → Gives s cancel ((at_ cancel).cancelGroup gid) d 0) ∧
        (k = 0 → g.state ≠ 0 → g.state ≠ 2 → Writes s close d (st 2)) ∧
        (k = 0 → g.state = 0 → g.level = 3 → Gives s close (((at_ close).setGroup (gidSlot gid) { g with state := 1 }).recheck gid) d 0) ∧
        (k = 0 → g.level = 3 → g.state = 2 → Gives s close (((at_ close).setGroup (gidSlot gid) { g with state := 1 }).countOut 5 gid true) d 0)))

/-- R349, R352, R354, R356, R360: the forms of `GCTL`. -/
def Obligations.GroupForms : Prop :=
  Claims.GctlOpenCompletes ∧ Claims.GctlFormsComplete

/-- The arrivals on their way with a new one: behind those of earlier cycles and those of this cycle that come before it, in ascending
order of cells, within a cell in the order of a cycle (R366). -/
def Sys2Proof.Claims.Sent (s : State) (a : Arrival) (l : List Arrival) : Prop :=
  let first := fun (b : Arrival) => b.sent < s.cycle ∨ 8 * b.cell + agentPlace b.agent ≤ 8 * a.cell + agentPlace a.agent
  ∃ p r, s.disp.arrivals = p ++ r ∧ l = p ++ a :: r ∧ (∀ b ∈ p, first b) ∧ ∀ b ∈ r.head?, ¬first b

/-- R366 to R368, R371 to R373: the barrier's forms: an arm of an IDLE or RELEASED barrier starts its phase and returns the
epoch of its release; an ARMED or FILLING one returns 1; an arrival is sent; a wait for a past epoch returns the state. -/
def Obligations.BarrierForms : Prop :=
  ∀ (s : State) (q w : BitVec 4) (d a : BitVec 5) (ua : BitVec 1) (n : BitVec 8), AtS s q → qpOk q = true → (w = 15 → s.here.s.super = true) →
    let c := s.focus.1; let ctx := s.here.res.ctx; let A := s.sreg a
    let arm := Instr.barrArm q d a ua n
    let t0 := s.entered arm { q := q, a := a, d := d, dest := d }
    let p : BitVec 16 := (s.sreg d).setWidth 16
    let b := s.barrier (ctx.toNat * 256 + n.toNat); let b' := s.barrier (ctx.toNat * 256 + A.toNat % 256)
    (s.disp.arrivals = [] → (b.state = 0 ∨ b.state = 3) → (p ≠ 0 ∨ A ≠ 0) →
      Gives s arm (t0.setBarrier (ctx.toNat * 256 + n.toNat)
        { b with state := 1, parts := p, expect := A, pend := A, arrv := 0, err := false, auto := ua = 1 } false) d ((b.epoch + 1).setWidth 64)) ∧
    (s.disp.arrivals = [] → (b.state = 1 ∨ b.state = 2) → ∃ t, Gives s arm t d (BitVec.ofNat 64 (2 ^ 63 + 1)) ∧ t.barrier (ctx.toNat * 256 + n.toNat) = b) ∧
    (s.performedAt (c, .stream .s) 4 = true → ∃ t, exec (.barrArrive q a n) s = .next t ∧
      Claims.Sent s ⟨c, .stream .s, ctx, n.toNat, A, s.cycle⟩ t.disp.arrivals ∧ t.here.s.regs = s.here.s.regs ∧ t.mem = s.mem ∧
      t.here.s.iss.pc = s.here.s.iss.pc + 4 ∧ t.here.s.iss.unfinished = []) ∧
    ((b'.epoch - A.extractLsb' 16 16).toNat < 2 ^ 15 → Writes s (.barrWait q d a w) d
      (BitVec.ofNat 64 (b'.epoch.toNat + 65536 * b'.state.toNat + if b'.err then 2 ^ 18 else 0))) ∧
    (A ≤ s.time → Writes s (.waitt q d a w) d s.time)

/-- R387, R397: `MIGR` START completes in SUPER mode: a start that is refused returns its status and starts nothing; one that is accepted
clears the completion word, adds an entry in SLUICE with frontier 0, sets `SLU` of the page's leaf, and returns 0. -/
def Sys2Proof.Claims.MigrStarts : Prop :=
  ∀ (s t : State) (q : BitVec 4) (d a : BitVec 5) (pa : Nat) (blk : List Byte), AtS s q → qpOk q = true → s.here.s.super = true →
    let c := s.focus.1; let ctx := s.here.res.ctx; let A := s.sreg a
    let f : Form := { q := q, a := a, dest := d }; let start := Instr.migrStart q d a; let t0 := s.entered start f
    t0.blockCheck (t0.whoOf c (.stream .s)) A.toNat 32 = .ok pa → t0.blockRead c (.stream .s) (s.entry start f) A.toNat 32 32 = .ok (t, blk) →
    (∀ n, 0 < n → t.migrStatus c ctx blk = (n, none) → Gives s start t d (BitVec.ofNat 64 n)) ∧
    (∀ e at_, t.migrStatus c ctx blk = (0, some (e, at_)) →
      let v := t.dwrite (pa + 24) (List.replicate 8 0)
      let m : Sluice := { ctx := ctx, va := sext52 (bytesAt blk 0 8), pte := at_, src := leafFrame e, dst := bytesAt blk 8 8, f := 0, state := .sluice, cword := pa + 24 }
      Gives s start (({ v with page := { v.page with sluice := v.page.sluice ++ [m] } } : State).storePte at_ (e ||| 0x100)) d 0)

/-- R393, R397: `MIGR` CANCEL and QUERY complete in SUPER mode: CANCEL returns 7 for a page that is in no migration, 8 for one that copies no
more, and else aborts the migration and returns 0; QUERY returns the frontier, the state and the tiers of an entry, the tier of a page
that a leaf maps, and else bit 15. -/
def Sys2Proof.Claims.MigrCancelQuery : Prop :=
  ∀ (s : State) (q : BitVec 4) (d a : BitVec 5), AtS s q → qpOk q = true → s.here.s.super = true →
    let ctx := s.here.res.ctx; let A := s.sreg a; let page := A.toNat / 65536 * 65536
    let cancel := Instr.migrCancel q d a; let query := Instr.migrQuery q d a
    let f : Form := { q := q, a := a, dest := d }
    let walk := (s.entered query f).walkFrom (dieOf s.focus.1) ctx A.toNat
    (s.sluiceOf ctx page = none →
      Writes s cancel d 7 ∧
      (∀ e large at_, walk = .leaf e large at_ → Writes s query d (BitVec.ofNat 64 (2 ^ 11 * leafTier e))) ∧
      ((∀ e large at_, walk ≠ .leaf e large at_) → Writes s query d 0x8000)) ∧
    (∀ k e, s.sluiceOf ctx page = some (k, e) →
      (e.state ≠ .sluice → Writes s cancel d 8) ∧
      (e.state = .sluice → Gives s cancel ((s.entered cancel f).abortMigration k 3) d 0) ∧
      Writes s query d (BitVec.ofNat 64 (e.f + 512 * sluiceCode e.state + 2 ^ 11 * (place e.src).tier.getD 0 + 2 ^ 13 * (place e.dst).tier.getD 0)))

/-- R106, R393, R398: `INVPG` completes in SUPER mode once no access that uses its range is unfinished and, for a wide scope, no write is on
its way: it leaves no cached translation of the context in its range in the cells of its scope and their quads, aborts the
migrations of pinned pages there and wakes the tasks that wait for a page there. Where none of both stands in the range, it changes
nothing else. -/
def Sys2Proof.Claims.InvpgCompletes : Prop :=
  ∀ (s : State) (q : BitVec 4) (a : BitVec 5) (k : BitVec 2) (sc : BitVec 4), AtS s q → (Instr.invpg q a k sc).wellFormed = true → s.here.s.super = true →
    let c := s.focus.1; let ctx := s.here.res.ctx; let r := invRange k.toNat (s.sreg a).toNat
    let i := Instr.invpg q a k sc
    let t0 := (s.entered i { q := q, a := a }).invalidate (cellsIn sc.toNat c) ctx r
    (k = 2 ∨ canonical (s.sreg a).toNat = true) → t0.usesRange (cellsIn sc.toNat c) ctx r = false → (sc.toNat < 4 ∨ s.mem.pend = []) →
    exec i s = .next (((t0.abortPinned ctx r).wakePages ctx r).conclude c (.stream .s) (.done ((t0.abortPinned ctx r).wakePages ctx r) none)) ∧
    ((∀ e ∈ s.page.sluice, e.ctx = ctx → overlaps e.va 65536 r.1 r.2 = false) → (∀ x ∈ s.disp.tasks, s.awaitsPage ctx r x.2 = false) →
      s.cells.length = 192 → s.quads.length = 48 →
      ∃ t, exec i s = .next t ∧ t.here.s.iss.unfinished = [] ∧ t.here.s.regs = s.here.s.regs ∧ t.mem = s.mem ∧ t.disp = s.disp ∧
        ∀ n ∈ cellsIn sc.toNat c, (∀ e ∈ (t.cell n).tlb, e.covered ctx r = false) ∧ (∀ e ∈ (t.quad (quadOf n)).tlb, e.covered ctx r = false) ∧
          ∀ e ∈ (s.cell n).tlb, e.covered ctx r = false → e ∈ (t.cell n).tlb)

/-- R106, R387, R393, R397, R398: `MIGR` and `INVPG`.
Model's choices: notes/assumptions/8, notes/assumptions/55. -/
def Obligations.PageForms : Prop :=
  Claims.MigrStarts ∧ Claims.MigrCancelQuery ∧ Claims.InvpgCompletes

/-- R412: `PSTF` through a descriptor that permits peer stores sends its bytes to the module, on the channel of `.d`. -/
def Sys2Proof.Claims.PstfCompletes : Prop :=
  ∀ (s : State) (q : BitVec 4) (d a b : BitVec 5) (e : BitVec 1) (z : BitVec 2) (port : Nat), AtS s q → (Instr.pstf q d a b e z).wellFormed = true →
    let c := s.focus.1; let i := Instr.pstf q d a b e z; let B := (s.sreg b).toNat; let off := (s.sreg a).toNat
    let D := descOf (s.here.tensors.getD (B % 256) 0); let m := B / 256 % 4096; let n := 2 ^ z.toNat
    let va := (D.base + off) % 2 ^ 64
    B < 2 ^ 20 → D.may 8 = true → D.blk = 0 → off + n ≤ D.extent → va % n = 0 → s.inTorus m = true → s.route m = some port →
    s.peerStores c < 256 → s.routeHeld c m port (if e = 1 then 0 else 1) = false → s.here.res.task = none → s.group 0 = none →
    ∃ t, exec i s = .next t ∧ t.here.s.regs = s.here.s.regs ∧ t.mem = s.mem ∧ t.here.s.iss.unfinished = [] ∧
      t.link.out = s.link.out ++ [{ dst := m, port := port, cell := c, agent := .stream .s, ctx := s.here.res.ctx, sentAt := s.cycle
                                    payload := .store va n (BitVec.ofNat 64 ((s.sreg d).toNat % 2 ^ (8 * n))) (e = 1) }]

/-- R414: `LDONE` frees the slot of the current packet; `LDONE` RD reads 8 bytes of it; without a packet both raise
ILLEGAL. -/
def Sys2Proof.Claims.LdoneForms : Prop :=
  ∀ (s : State) (q : BitVec 4) (d a : BitVec 5), AtS s q → qpOk q = true →
    let A := (s.sreg a).toNat
    (∀ k, s.here.s.packet = some k → s.performedDie (s.focus.1, .stream .s) = true →
      Retires s (.ldoneEnd q) fun x => { x with landing := x.landing.set k none, s := { x.s with packet := none } }) ∧
    (∀ k l, s.here.s.packet = some k → s.here.landing.getD k none = some l → A % 8 = 0 → A < l.packet.payload.length →
      Writes s (.ldoneRd q d a) d (BitVec.ofNat 64 (leNat ((l.packet.payload.drop A).take 8)))) ∧
    (s.here.s.packet = none → s.here.trap.inTrap = false → vectorOk s.here.trap.tvec = true →
      Traps s (.ldoneEnd q) ⟨0x01, BitVec.ofNat 64 (wordOf (.ldoneEnd q)).toNat⟩ 0 (s.here.s.iss.pc + 4) 1 ∧
      Traps s (.ldoneRd q d a) ⟨0x01, BitVec.ofNat 64 (wordOf (.ldoneRd q d a)).toNat⟩ 0 (s.here.s.iss.pc + 4) 1)

/-- R412, R414: `PSTF` and `LDONE`.
Model's choices: notes/assumptions/56. -/
def Obligations.LinkForms : Prop :=
  Claims.PstfCompletes ∧ Claims.LdoneForms

/-- R336: `ESTART` starts each selected stream that has not started or has ended: from the kernel's header with `sa` = 0, else
from the start block; a started one has nothing queued and is fetched from its program counter. A stream that runs makes it
raise ILLEGAL. -/
def Sys2Proof.Claims.EstartCompletes : Prop :=
  (∀ (s t : State) (q : BitVec 4) (a : BitVec 5) (m : BitVec 3) (l : List (DWord × List Word)), AtS s q → (Instr.estart q a m).wellFormed = true →
    let c := s.focus.1; let i := Instr.estart q a m; let A := s.sreg a
    let t0 := s.entered i { q := q, a := a }
    let start := fun (x : Cell) => ((selected m).zip l).foldl (fun x (st, pc, idx) => x.startEngine st pc idx) x
    ((∀ st ∈ selected m, (s.here.engine st).started = false ∨ (s.here.engine st).ended = true) → s.performedAt (c, .stream .s) 3 = true →
      (A = 0 → (selected m).mapM (t0.headerStart c) = some l → Retires s i start) ∧
      (A.toNat % 64 = 0 → A ≠ 0 → addrCheck A.toNat 64 = none →
        t0.readStarts (t0.whoOf c (.stream .s)) s.cycle A.toNat (selected m) = .ok (t, some l) →
        exec i s = .next (t.conclude c (.stream .s) (.done (t.modCell c start) none)))) ∧
    ((∃ st ∈ selected m, (s.here.engine st).started = true ∧ (s.here.engine st).ended = false) →
      s.here.trap.inTrap = false → vectorOk s.here.trap.tvec = true →
      Traps s i ⟨0x01, BitVec.ofNat 64 (wordOf i).toNat⟩ 0 (s.here.s.iss.pc + 4) 1)) ∧
  (∀ (x : Cell) (st : Stream) (pc : DWord) (idx : List Word), st ≠ .s →
    let g := (x.startEngine st pc idx).engine st
    g.started = true ∧ g.ended = false ∧ g.stopped = false ∧ g.queue = [] ∧ g.fpc = pc ∧ g.idx = idx ∧ g.phase = (x.engine st).phase)

/-- R39, R334, R337: what a truncation leaves: a head that has issued stays, every entry of the loop from pass `n` on goes, and so do
those behind the loop; fetch goes on behind it when it has reached pass `n`. -/
def Sys2Proof.Claims.Truncates : Prop :=
  ∀ (g : Engine) (l : LoopState) (n : Nat) (begun : Bool),
    let u := g.truncate l n begun
    (begun = true → u.queue.head? = g.queue.head?) ∧
    (∀ e ∈ u.queue.drop (if begun then 1 else 0), e ∈ g.queue ∧ (l.has e = true → e.tag < n)) ∧
    ((l.unrolling = false ∨ n < l.pass) → u.fpc = l.last + 4) ∧ u.inprog = g.inprog ∧ u.phase = g.phase

/-- R337: `ETRUNC` returns 65,535 when the stream does not run or has no current loop, the trip count when it is not above the
count, and else the count, with which the loop is truncated. -/
def Sys2Proof.Claims.EtruncCompletes : Prop :=
  ∀ (s : State) (q : BitVec 4) (d a : BitVec 5) (n : BitVec 8) (e : BitVec 2), AtS s q → qpOk q = true → e ≠ 0 →
    let st := streamOf e.toNat; let g := s.here.engine st; let A := (s.sreg a).toNat % 2 ^ 16; let begun := s.here.headBegun st
    (((g.started = false ∨ g.ended = true) ∨ g.currentLoop begun = none) →
      Writes s (.etruncImm q d n e) d 65535 ∧ Writes s (.etruncReg q d a e) d 65535) ∧
    (∀ l, g.started = true → g.ended = false → g.currentLoop begun = some l →
      (l.trip ≤ n.toNat → Writes s (.etruncImm q d n e) d (BitVec.ofNat 64 l.trip)) ∧
      (l.trip ≤ A → Writes s (.etruncReg q d a e) d (BitVec.ofNat 64 l.trip)) ∧
      (n.toNat < l.trip → ∃ y : Cell → Cell, Retires s (.etruncImm q d n e) (fun x => (y x).setReg (.stream .s) d.toNat (n.setWidth 64)) ∧
        (y s.here.passed).engine st = g.truncate l n.toNat begun) ∧
      (A < l.trip → ∃ y : Cell → Cell, Retires s (.etruncReg q d a e) (fun x => (y x).setReg (.stream .s) d.toNat (BitVec.ofNat 64 A)) ∧
        (y s.here.passed).engine st = g.truncate l A begun))

/-- R39, R334, R336, R337: `ESTART` and `ETRUNC`.
Model's choices: notes/assumptions/25. -/
def Obligations.EngineStart : Prop :=
  Claims.EstartCompletes ∧ Claims.Truncates ∧ Claims.EtruncCompletes

/-! ### V -/

/-- R172, R173, R176, R179, R180: the arithmetic of V on the elements whose lane the top mask has: exact, then one rounding or
reduction; the other elements keep their value. -/
def Sys2Proof.Claims.VArithmeticResults : Prop :=
  ∀ (s : State) (h : Entry) (q : BitVec 4) (d a b : BitVec 6) (t : BitVec 4), AtHead s .v h → predHolds s.here.v.preds q = true →
    qpOk q = true → t ≤ 10 →
    let v := s.here.v; let y := tyOf t.toNat
    let at3 := fun (ff : Machine.Num → Machine.Num → Machine.Num → Machine.Num) (fi : Int → Int → Int → Int) (e : Nat) =>
      y.op ff fi (elem (v.reg a) y.w e) (elem (v.reg b) y.w e) (elem (v.reg d) y.w e)
    VWrites s (.vadd q d a b t) d y.w (at3 (fun x z _ => x.add z) fun x z _ => x + z) ∧
    VWrites s (.vsub q d a b t) d y.w (at3 (fun x z _ => x.add z.neg) fun x z _ => x - z) ∧
    VWrites s (.vmul q d a b t) d y.w (at3 (fun x z _ => x.mul z) fun x z _ => x * z) ∧
    VWrites s (.vfma q d a b t) d y.w (at3 (fun x z w => (x.mul z).add w) fun x z w => x * z + w) ∧
    VWrites s (.vmin q d a b t) d y.w (at3 (fun x z _ => x.min z) fun x z _ => min x z) ∧
    VWrites s (.vmax q d a b t) d y.w (at3 (fun x z _ => x.max z) fun x z _ => max x z) ∧
    (∀ f, y.fmt = some f →
      VWrites s (.vrcp q d a t) d y.w (fun e => recip f (fmtValue f (elem (v.reg a) y.w e))) ∧
      VWrites s (.vexp q d a t) d y.w (fun e => exp2 f (fmtValue f (elem (v.reg a) y.w e))))

/-- R173: what the integer element types hold and how a result is reduced: wrapping, or saturating at the type's range. -/
def Sys2Proof.Claims.ElementReduction : Prop :=
  ∀ (x : Int),
    (∀ t, t = 1 ∨ t = 6 ∨ t = 8 → ((tyOf t).reduce x : Int) = x % 2 ^ (tyOf t).w) ∧
    (∀ t, t = 2 ∨ t = 7 ∨ t = 9 →
      let m : Int := 2 ^ ((tyOf t).w - 1)
      ((tyOf t).reduce x : Int) = max (-m) (min (m - 1) x) % 2 ^ (tyOf t).w) ∧
    (∀ t, t = 3 ∨ t = 10 → ((tyOf t).reduce x : Int) = max 0 (min (2 ^ (tyOf t).w - 1) x))

/-- R172, R173, R176, R179, R180: the arithmetic of V.
Model's choices: notes/assumptions/12. -/
def Obligations.VArithmetic : Prop :=
  Claims.VArithmeticResults ∧ Claims.ElementReduction

/-- R181 to R185, R188 to R190: compares, bit operations, shifts, permutes, broadcasts and constants of V. -/
def Obligations.VLaneResults : Prop :=
  ∀ (s : State) (h : Entry) (q : BitVec 4) (d a b : BitVec 6) (t o : BitVec 4) (c : BitVec 3) (k w : BitVec 2) (e : BitVec 8) (i : BitVec 16)
    (i1 i2 : BitVec 8), AtHead s .v h → predHolds s.here.v.preds q = true → qpOk q = true →
    let v := s.here.v; let y := tyOf t.toNat; let n := 32 / 2 ^ w.toNat
    let A := v.reg a; let B := v.reg b
    ((Instr.vcmp d a b t c).wellFormed = true → VWrites s (.vcmp d a b t c) d y.w fun j =>
      if y.holds c.toNat (elem A y.w j) (elem B y.w j) then 2 ^ y.w - 1 else 0) ∧
    (∃ l, VDoes s (.vsel q d a b) (fun v => v.setReg d l) ∧ ∀ j, j < 64 → lane l j = if v.top.getLsbD j then lane A j else lane B j) ∧
    ((Instr.vbit q d a b o).wellFormed = true → VWrites s (.vbit q d a b o) d 32 fun j =>
      let x : Word := BitVec.ofNat 32 (lane A j); let z : Word := BitVec.ofNat 32 (lane B j)
      (match o.toNat with | 0 => x &&& z | 1 => x ||| z | 2 => x ^^^ z | 3 => x &&& ~~~z | 4 => ~~~x | _ => x).toNat) ∧
    (w ≠ 3 → VWrites s (.vshf q d a b k w) d n fun j =>
      let x := elem A n j; let m := elem B n j % n
      match k.toNat with
      | 0 => x * 2 ^ m % 2 ^ n
      | 1 => x / 2 ^ m
      | 2 => ((sextNat n x / 2 ^ m) % 2 ^ n).toNat
      | _ => (x * 2 ^ m + x / 2 ^ (n - m)) % 2 ^ n) ∧
    VWrites s (.vperm q d a b) d 32 (fun j => lane A (lane B j % 64)) ∧
    ((Instr.vbcast d a e w).wellFormed = true → VWrites s (.vbcast d a e w) d n fun _ => elem A n e.toNat) ∧
    VWrites s (.vli q d i) d 32 (fun _ => i.toNat * 2 ^ 16) ∧
    VWrites s (.vidx q d i1 i2) d 32 (fun j => ((i1.toInt + j * i2.toInt) % 2 ^ 32).toNat)

/-- R186, R187, R203: conversions write their elements with one rounding, reductions the whole register, packing exactly its
region. -/
def Obligations.VConvertResults : Prop :=
  ∀ (s : State) (h : Entry) (d a : BitVec 6) (p : BitVec 2) (sf : BitVec 1) (r o : BitVec 3) (e f t k : BitVec 4) (pp : BitVec 5),
    AtHead s .v h →
    let v := s.here.v; let x := s.here
    let cv := Instr.vcvt d a p sf r e f
    let R := convertLine v.top f.toNat e.toNat r.toNat p.toNat (sf = 1) x.ev.phase (v.reg a) (v.reg d)
    (cv.wellFormed = true →
      (r ≠ 4 → VDoes s cv fun v => v.setReg d R.1) ∧
      (r = 4 → ∃ u, exec cv s = .next u ∧ u.here.v = v.setReg d R.1 ∧ u.here.ev.phase = if R.2 then x.ev.phase + 5 else x.ev.phase) ∧
      (cvtWidth f = cvtWidth e → ∀ j, j < 2048 / cvtWidth e → elem R.1 (cvtWidth e) j =
        if v.top.getLsbD (j * cvtWidth e / 32) then
          slotCode e.toNat (fmtCode e.toNat (Rnd.at r.toNat (sf = 1) j x.ev.phase) (fmtValue f.toNat (elem (v.reg a) (cvtWidth e) j))) % 2 ^ cvtWidth e
        else elem (v.reg d) (cvtWidth e) j)) ∧
    ((Instr.vred d a o t).wellFormed = true → ∃ l, VDoes s (.vred d a o t) (fun v => v.setReg d l) ∧
      (3 ≤ o.toNat → l = BitVec.ofNat 2048 (redBits o.toNat v.top (v.reg a))) ∧
      (o = 0 → t = 1 → (lane l 0 : Int) =
        ((List.range 64).map fun j => if v.top.getLsbD j then sextNat 32 (lane (v.reg a) j) else 0).sum % 2 ^ 32) ∧
      (o = 0 → t = 1 → ∀ j, 0 < j → j < 64 → lane l j = 0) ∧
      (o.toNat < 3 → ∀ g, (tyOf t.toNat).fmt = some g → l = BitVec.ofNat 2048 (redFloat g o.toNat v.top (tyOf t.toNat).w (v.reg a)))) ∧
    ((Instr.vpack d a pp k).wellFormed = true →
      let g := packRegion k.toNat pp.toNat
      ∃ l, VDoes s (.vpack d a pp k) (fun v => v.setReg d l) ∧
        (∀ j, j < g.2.1 → bitsAt l.toNat (g.2.2 + g.1 * j) g.1 = packElem k.toNat (v.reg a) j % 2 ^ g.1) ∧
        (∀ j, j < 2048 → (j < g.2.2 ∨ g.2.2 + g.1 * g.2.1 ≤ j) → l.getLsbD j = (v.reg d).getLsbD j)) ∧
    ((Instr.vunpk d a sf pp k).wellFormed = true →
      let g := packRegion k.toNat pp.toNat
      ∃ l, VDoes s (.vunpk d a sf pp k) (fun v => v.setReg d l) ∧
        (k = 7 → ∀ j, j < 256 → elem l 8 j = (sextNat 4 (bitsAt (v.reg a).toNat (g.2.2 + 4 * j) 4) % 256).toNat) ∧
        (k = 2 → ∀ j, j < 128 → elem l 16 j = elem (v.reg d) 16 j / 256 * 256 + bitsAt (v.reg a).toNat (g.2.2 + 8 * j) 8))

/-- R191 to R194, R201: V's accesses to a tile whose shutter reads V: a load brings its line's lanes, a store writes its
lanes and no byte outside its line, a stream register moves on by one pop.
Model's choices: notes/assumptions/60. -/
def Obligations.VTileAccesses : Prop :=
  ∀ (s : State) (h : Entry) (q : BitVec 4) (d a : BitVec 6) (t : BitVec 7) (l : BitVec 6) (f : BitVec 3) (n : BitVec 3) (k : BitVec 1) (r : BitVec 2)
    (ql : BitVec 4), AtHead s .v h → predHolds s.here.v.preds q = true → qpOk q = true → s.mem.poison = [] → s.here.pad.wf = true →
    let x := s.here; let v := x.v; let base := t.toNat * 16384 + l.toNat * 256; let g := v.stream n
    let stores := fun (i : Instr) (base : Nat) (pop : VUnit → VUnit) =>
      ∃ u, exec i s = .next u ∧ u.here.v = pop v ∧ u.here.ev.queue = x.ev.queue.drop 1 ∧ u.mem = s.mem ∧
        (∀ j b, j < 64 → b < 4 → u.here.pad.read (base + 4 * j + b) =
          if v.top.getLsbD j then BitVec.ofNat 8 (lane (v.reg d) j / 2 ^ (8 * b)) else x.pad.read (base + 4 * j + b)) ∧
        (∀ o, (o < base ∨ base + 256 ≤ o) → u.here.pad.read o = x.pad.read o)
    let pop := fun (v : VUnit) => if k = 1 then v else v.setStream n g.pop
    (x.shutter t.toNat = 1 →
      VWrites s (.vld q d t l 0) d 32 (fun j => leNat (x.pad.readN (base + 4 * j) 4)) ∧
      (f ≤ 4 → VDoes s (.vld q d t l f) fun v => v.setReg d (loadLine v.top f.toNat (v.reg d) (x.pad.readN base 256))) ∧
      stores (.vst q d t l 0) base id ∧
      (f ≤ 4 → ∃ u, exec (.vst q d t l f) s = .next u ∧ u.here.v = v ∧
        u.here.pad = (storeLine v.top base f.toNat (v.reg d)).foldl (fun m (o, b) => m.write o b) x.pad) ∧
      ((Instr.vqnt d a r ql t).wellFormed = true →
        let rec_ := fun (j : Nat) => BitVec.ofNat 128 (leNat (x.pad.readN (t.toNat * 16384 + ql.toNat * 1024 + 16 * j) 16))
        (∀ j, j < 64 → quantOk (rec_ j) = true) → VWrites s (.vqnt d a r ql t) d 32 fun j =>
          intCode 32 (quantise (qntFmt r) (s32 (lane (v.reg a) j)) (s32 (lane (v.reg d) j)) (rec_ j)))) ∧
    (g.bound = true → x.shutter (g.pos / 64) = 1 →
      VDoes s (.vsld q d n k) (fun v => pop (v.setReg d (loadLine v.top 0 (v.reg d) (x.pad.readN (g.pos * 256) 256)))) ∧
      stores (.vsst q d n k) (g.pos * 256) pop) ∧
    (let p := lane (v.reg d) 0
     bitsAt p 22 10 = 0 → (bitsAt p 18 4 = 15 → x.s.super = true) → VDoes s (.vsbind q d n t l) fun v => v.setStream n
       { bound := true, start := t.toNat * 64 + l.toNat, count := if p % 4096 = 0 then 4096 else p % 4096, stride := sextNat 6 (bitsAt p 12 6)
         limit := BitVec.ofNat 4 (bitsAt p 18 4), pos := t.toNat * 64 + l.toNat, pops := 0 })

/-- R192, R98: V waits at the head, and nothing moves, while the tile's shutter does not read V. -/
def Sys2Proof.Claims.VWaitsOnShutter : Prop :=
  ∀ (s : State) (h : Entry) (q : BitVec 4) (d : BitVec 6) (t : BitVec 7) (l : BitVec 6) (f : BitVec 3), AtHead s .v h →
    predHolds s.here.v.preds q = true → qpOk q = true → f ≤ 4 → s.here.shutter t.toNat ≠ 1 →
    ∀ i, (i = .vld q d t l f ∨ i = .vst q d t l f) →
      ∃ u, exec i s = .next u ∧ u.stalled = true ∧ u.here.v = s.here.v ∧ u.here.pad = s.here.pad ∧ u.here.ev.queue = s.here.ev.queue ∧ u.mem = s.mem

/-- R175, R195 to R200: the mask stack, the branch on it and V's counted loop. -/
def Obligations.VMasksAndFlow : Prop :=
  ∀ (s : State) (h : Entry) (q n : BitVec 4) (a b : BitVec 6) (f k : BitVec 1) (c : BitVec 3) (o : BitVec 13) (m : BitVec 9) (e : BitVec 3) (p : BitVec 8),
    AtHead s .v h → predHolds s.here.v.preds q = true → qpOk q = true →
    let v := s.here.v; let y := tyOf (if f = 1 then 0 else 2)
    ((Instr.vmpush a b q f c).wellFormed = true → v.masks.length ≠ 16 → ∃ M : BitVec 64,
      VDoes s (.vmpush a b q f c) (fun v => { v with masks := M :: v.masks }) ∧
      ∀ j, j < 64 → M.getLsbD j = (y.holds c.toNat (lane (v.reg a) j) (lane (v.reg b) j) && v.top.getLsbD j)) ∧
    (∀ M r, v.masks = M :: r → VDoes s (.vminv q) fun v => { v with masks := (r.headD (BitVec.allOnes 64) &&& ~~~M) :: r }) ∧
    (n.toNat < v.masks.length → VDoes s (.vmpop q n) fun v => { v with masks := v.masks.drop (n.toNat + 1) }) ∧
    ((Instr.bru k o).wellFormed = true → ∃ u, exec (.bru k o) s = .next u ∧ u.here.v = v ∧
      u.here.ev.fpc = if v.top = (if k = 0 then 0 else BitVec.allOnes 64) then h.pc + BitVec.ofNat 64 (4 * o.toNat) else h.pc + 4) ∧
    ((Instr.loopv m e o).wellFormed = true → VDoes s (.loopv m e o) fun v => { v with preds :=
      (v.preds <<< 1) ||| (if h.tag + 1 < (if m = 0 then 512 else m.toNat) then 1 else 0) }) ∧
    VDoes s (.loopvSet p) (fun v => { v with preds := p })

/-- R195 to R197, R307: a push on a full mask stack, and an inversion or a pop below its bottom, raise ILLEGAL with detail 1 or
2; a privileged bound in USER mode raises PRIV. -/
def Sys2Proof.Claims.VEngineTraps : Prop :=
  ∀ (s : State) (h : Entry) (q n : BitVec 4) (a b : BitVec 6) (f : BitVec 1) (c : BitVec 3) (k : BitVec 5) (m : BitVec 12),
    AtHead s .v h → predHolds s.here.v.preds q = true → qpOk q = true →
    let info := fun (d : Nat) => BitVec.ofNat 64 (h.word.toNat + 2 ^ 32 * d)
    ((Instr.vmpush a b q f c).wellFormed = true → s.here.v.masks.length = 16 → EngineTraps s .v h (.vmpush a b q f c) ⟨0x01, info 1⟩) ∧
    (s.here.v.masks = [] → EngineTraps s .v h (.vminv q) ⟨0x01, info 2⟩) ∧
    (s.here.v.masks.length ≤ n.toNat → EngineTraps s .v h (.vmpop q n) ⟨0x01, info 2⟩) ∧
    (s.here.s.super = false → EngineTraps s .v h (.vtwait q 15 k m) ⟨0x02, info 0⟩)

/-- R202: `VPUPD` steps the weights of the masked lanes, pushes the mask of those whose upper half changed, and leaves their
number in lane 2 of `vp`.
Model's choices: notes/assumptions/52. -/
def Obligations.VpupdResults : Prop :=
  ∀ (s : State) (h : Entry) (d a p g : BitVec 6), AtHead s .v h → s.here.v.masks.length ≠ 16 → s.here.v.regs.length = 64 → d ≠ p → g ≠ p → g ≠ d →
    let v := s.here.v; let T := v.top
    let new := fun (mom : Bool) (g : BitVec 6) (j : Nat) =>
      updateWeight mom (lane (v.reg p) 0) (lane (v.reg p) 1) (lane (v.reg d) j) (lane (v.reg a) j) (lane (v.reg g) j)
    let ok := fun (i : Instr) (mom : Bool) (g : BitVec 6) => ∃ v' : VUnit, VDoes s i (fun _ => v') ∧
      (∀ j, j < 64 → lane (v'.reg d) j = if T.getLsbD j then (new mom g j).1 % 2 ^ 32 else lane (v.reg d) j) ∧
      (∃ M : BitVec 64, v'.masks = M :: v.masks ∧ (∀ j, j < 64 → M.getLsbD j = (T.getLsbD j && decide ((new mom g j).1 / 65536 ≠ lane (v.reg d) j / 65536))) ∧
        lane (v'.reg p) 2 = ((List.range 64).filter fun j => M.getLsbD j).length) ∧
      (∀ r, r ≠ d → r ≠ p → (mom = true → r ≠ g) → v'.reg r = v.reg r)
    ((Instr.vpupdSgd d a p).wellFormed = true → ok (.vpupdSgd d a p) false 0) ∧
    ((Instr.vpupdMom d a p g).wellFormed = true → ok (.vpupdMom d a p g) true g)

/-- R36, R97, R99, R204 to R206: tokens, shutters and the end of V; where `VTWAIT` and `VSHUT` wait. -/
def Obligations.VCouplingAndEnd : Prop :=
  ∀ (s : State) (h : Entry) (q b : BitVec 4) (k : BitVec 5) (n : BitVec 12) (t : BitVec 7) (c : BitVec 3), AtHead s .v h →
    predHolds s.here.v.preds q = true → qpOk q = true → (b = 15 → s.here.s.super = true) →
    let does := fun (i : Instr) (f : Cell → Cell) => exec i s = .next (s.leave .v fun x => (f x).charge x.weights.vector.toNat)
    let waits := fun (i : Instr) => ∃ u, exec i s = .next u ∧ u.stalled = true ∧ u.here.ev.queue = s.here.ev.queue ∧ u.here.tokens = s.here.tokens ∧
      u.here.shutters = s.here.shutters ∧ u.here.v = s.here.v ∧ u.mem = s.mem
    does (.vtsig q k n) (fun x => x.signal k.toNat n.toNat) ∧
    (n.toNat ≤ s.here.token k.toNat → s.tokenTaken s.focus.1 .v k.toNat = false → does (.vtwait q b k n) fun x => x.consume k.toNat n.toNat) ∧
    ((s.here.token k.toNat < n.toNat ∨ s.tokenTaken s.focus.1 .v k.toNat = true) → waits (.vtwait q b k n)) ∧
    (c ≤ 5 → s.here.shutter t.toNat = 1 → does (.vshut q b t c) fun x => x.setShutter t.toNat c) ∧
    (s.here.shutter t.toNat = 5 → s.here.ev.wantsOwn = false → does (.vshut q b t 1) fun x => x.setShutter t.toNat 1) ∧
    (c ≤ 5 → s.here.shutter t.toNat ≠ 1 → (s.here.shutter t.toNat ≠ 5 ∨ c ≠ 1 ∨ s.here.ev.wantsOwn = true) → waits (.vshut q b t c)) ∧
    does (.vend q) (fun x => { x with ev := { x.ev with ended := true, fetching := false } })

/-! ### M -/

/-- R230, R259: what a command that begins does to its stream, whatever its steps were: it leaves the queue and is in progress,
with the cycle at which it reached the head. -/
def Sys2Proof.Claims.IssueMovesCommand : Prop :=
  ∀ (s t : State) (st : Stream) (h : Entry) (i : Instr) (n : Nat), st ≠ .s → s.focus.1 < t.cells.length → t.focus = s.focus →
    (t.here.engine st).queue.head? = some h → (t.here.m.inject = none ∨ st ≠ .m) → Begins s st h i t n →
    ∃ u, exec i s = .next u ∧ Issued t u st i ∧ u.here.pad = t.here.pad ∧ u.here.m.acc = t.here.m.acc ∧ u.here.c = t.here.c ∧
      u.here.s = t.here.s ∧ u.here.v = t.here.v ∧ u.mem = t.mem ∧ u.disp = t.disp

/-- R238: `MZERO` clears exactly the accumulator tiles of its mask. -/
def Sys2Proof.Claims.MzeroClears : Prop :=
  ∀ (s : State) (h : Entry) (b m : BitVec 4), AtHead s .m h → Free s .m b →
    ∃ u, exec (.mzero b m) s = .next u ∧ Issued s u .m (.mzero b m) ∧
      (∀ r, r < 256 → u.here.m.acc.getD r 0 = if m.getLsbD (r / 64) then 0 else s.here.m.acc.getD r 0) ∧
      u.here.m.corr = s.here.m.corr ∧ u.here.pad = s.here.pad ∧ u.here.v = s.here.v ∧ u.here.s = s.here.s ∧ u.mem = s.mem

/-- R239, R240: `MMA` of tiles that M holds, of one operand group, performs all its steps and changes only the accumulator tile
it names. -/
def Sys2Proof.Claims.MmaTiles : Prop :=
  ∀ (s : State) (h : Entry) (b : BitVec 4) (c : BitVec 2) (a e : BitVec 9) (f : BitVec 1) (x : MmaQ) (ta te : Nat), AtHead s .m h → Free s .m b →
    operandTile a = some ta → operandTile e = some te → s.here.shutter ta = 2 → s.here.shutter te = 2 →
    let ok := fun (i : Instr) => ∃ u, exec i s = .next u ∧ Issued s u .m i ∧
      (∀ r, r < 256 → r / 64 ≠ c.toNat → u.here.m.acc.getD r 0 = s.here.m.acc.getD r 0) ∧
      u.here.m.corr = s.here.m.corr ∧ u.here.pad = s.here.pad ∧ u.here.v = s.here.v ∧ u.here.s = s.here.s ∧ u.mem = s.mem ∧ u.disp = s.disp
    ok (.mma b c a e f) ∧
    (let fa := tileFmt x.ta x.ua; let fb := tileFmt x.tb x.ub
     (Instr.mmaExt b c a e f x).wellFormed = true → x.la = 0 → x.lb = 0 → groupOf fa = groupOf fb →
      (x.kl = 0 ∨ 8 * x.kl.toNat ≤ if fmtWidth fa = 16 ∨ fmtWidth fb = 16 then 128 else 256) → ok (.mmaExt b c a e f x))

/-- R230, R236, R239, R240: `MMA` of operands that pass their checks, tiles or tensors, once its steps have run. -/
def Sys2Proof.Claims.MmaRuns : Prop :=
  ∀ (s u : State) (h : Entry) (b : BitVec 4) (c : BitVec 2) (a e : BitVec 9) (f : BitVec 1) (x : MmaQ), AtHead s .m h → Free s .m b →
    s.here.closedTile .m [a, e] = none →
    let run := fun (i : Instr) (q : MmaQ) =>
      let oa := s.here.mOperand a (tileFmt q.ta q.ua) q.la q.rna; let ob := s.here.mOperand e (tileFmt q.tb q.ub) q.lb q.rnb
      let wide : Bool := fmtWidth oa.fmt = 16 ∨ fmtWidth ob.fmt = 16
      let kt := if wide then 128 else 256; let k := if q.kl = 0 then kt else 8 * q.kl.toNat
      let g := if wide then 1 else if oa.fmt = 9 ∧ ob.fmt = 9 then 4 else 2
      let m : Dense := { acc := c.toNat, a := oa, b := ob, ora := origin h q.ora, ork := origin h q.ork, orb := origin h q.orb
                         k := k, g := g, fresh := f = 1, sat := q.sat = 1 }
      i.wellFormed = true → oa.ok 2 0 = true → ob.ok 3 0 = true → groupOf oa.fmt = groupOf ob.fmt → oa.aligned m.ork = true → ob.aligned m.orb = true →
      ((oa.tile.isSome = true ∨ ob.tile.isSome = true) → k ≤ kt) → StepsTo (m.step s.focus.1) (k / g) 0 s u → Begins s .m h i u (k / g)
    run (.mma b c a e f) zeroMma ∧ run (.mmaExt b c a e f x) x

/-- R61 to R63: an integer accumulation adds the exact products to the prior value and saturates or wraps it to 32 bits. -/
def Sys2Proof.Claims.IntegerAccumulation : Prop :=
  ∀ (prior : Nat) (l : List (Nat × Nat)), prior < 2 ^ 32 → (∀ x ∈ l, x.1 < 256 ∧ x.2 < 256) →
    let ps : List (Elem × Elem) := l.map fun (a, b) => ((a, none), (b, none))
    let sum : Int := sextNat 32 prior + (l.map fun (a, b) => sextNat 8 a * sextNat 8 b).sum
    (accStep 1 5 5 false prior ps : Int) = sum % 2 ^ 32 ∧
    (accStep 1 5 5 true prior ps : Int) = max (-2 ^ 31) (min (2 ^ 31 - 1) sum) % 2 ^ 32

/-- R224, R230, R236 to R239, R259: `MZERO` and `MMA`.
Model's choices: notes/assumptions/10. -/
def Obligations.MatrixProducts : Prop :=
  Claims.IssueMovesCommand ∧ Claims.MzeroClears ∧ Claims.MmaTiles ∧ Claims.MmaRuns ∧ Claims.IntegerAccumulation

/-- R242 to R244: the sparse products of operands that pass their checks and whose plan has no fault, once their steps have run.
Model's choices: notes/assumptions/10, notes/assumptions/12, notes/assumptions/61. -/
def Obligations.SparseProducts : Prop :=
  ∀ (s t t' u : State) (h : Entry) (b : BitVec 4) (c : BitVec 2) (a e : BitVec 9) (f : BitVec 1) (x : SparseQ) (i : Instr) (kind : Nat) (q : SparseQ)
    (pa pb : Option Packed) (p : Plan), AtHead s .m h → Free s .m b → i.wellFormed = true → s.here.m.rowValid = false →
    ((i = .mspb b c a e f ∧ kind = 0 ∧ q = zeroSparse) ∨ (i = .mspbExt b c a e f x ∧ kind = 0 ∧ q = x) ∨
     (i = .mscr b c a e f ∧ kind = 1 ∧ q = zeroSparse) ∨ (i = .mscrExt b c a e f x ∧ kind = 1 ∧ q = x) ∨
     (i = .mscn b c a e f ∧ kind = 2 ∧ q = zeroSparse) ∨ (i = .mscnExt b c a e f x ∧ kind = 2 ∧ q = x)) →
    let oa := s.here.mOperand a 1 q.la q.rna; let ob := s.here.mOperand e 1 q.lb q.rnb
    let m : Sparse :=
      { kind := kind, acc := c.toNat, a := oa, b := ob, pa := pa, pb := pb, ora := origin h q.ora, orb := origin h q.orb
        r := if q.rq = 0 then 64 else q.rq.toNat, cc := if q.cq = 0 then 64 else q.cq.toNat, fresh := f = 1, sat := q.sat = 1, det := s.here.detMode }
    sparseOk kind oa ob (origin h q.ora) (origin h q.orb) (q.sat = 1) s.here.detMode = true →
    s.sparseHeaders s.focus.1 kind oa ob = .ok (t, some (pa, pb)) → m.plan s.focus.1 t = some (t', p) →
    (t'.cell s.focus.1).em = s.here.em → (t'.cell s.focus.1).dbg = s.here.dbg →
    let t1 := t'.modCell s.focus.1 fun y => { y with m := { y.m with rowq := [], qnow := 0, qplaced := 0 } }
    let t2 := t1.modCell s.focus.1 fun y => { y with m := { y.m with
      statSplit := y.m.statSplit + BitVec.ofNat 64 (p.parts.filter fun l => decide (1 < l.length)).length } }
    StepsTo (m.run p s.focus.1) (p.seqs.length + 1) 0 t2 u → Begins s .m h i u (p.seqs.length + 1)

/-- R248 to R251: `MRSUM` and `MDRAIN` with operands that pass their checks, once their steps have run.
Model's choices: notes/assumptions/10, notes/assumptions/67. -/
def Obligations.RowSumsAndDrains : Prop :=
  ∀ (s t u : State) (h : Entry) (b : BitVec 4) (acc : BitVec 2) (a e : BitVec 9) (f : BitVec 1) (x : DrainQ) (xo : Option DrainQ) (bs : List Nat), AtHead s .m h → Free s .m b →
    let c := s.focus.1
    let D := fun (x : DrainQ) (q : Bool) (recs : List (BitVec 128)) =>
      ({ acc := acc.toNat, tile := operandTile a, d := s.here.descAt a, fmt := if (operandTile a).isSome then x.f.toNat else (s.here.descAt a).fmt
         q := q, cr := x.cr = 1, ak := x.ak.toNat, rm := x.rm.toNat, satf := x.satf = 1, rows := if x.rq = 0 then 64 else x.rq.toNat
         cols := if x.cq = 0 then 64 else x.cq.toNat, ord := origin h x.ord, orc := origin h x.orc, recs := recs } : Drain)
    (s.here.closedTile .m [a] = none →
      ((Instr.mdrain b acc a).wellFormed = true → (D zeroDrain false []).ok = true → StepsTo ((D zeroDrain false []).step c) 64 0 s u →
        Begins s .m h (.mdrain b acc a) u 64) ∧
      ((Instr.mdrainExt b acc a x).wellFormed = true → (D x false []).ok = true →
        StepsTo ((D x false []).step c) (D x false []).rows 0 s u → Begins s .m h (.mdrainExt b acc a x) u (D x false []).rows)) ∧
    (let x := xo.getD zeroDrain
     s.here.closedTile .m [a, e] = none → (Instr.mdrainQ b acc a e xo).wellFormed = true → (D x true []).ok = true →
      ((operandTile e).isSome = true ∨ (s.here.descAt e).may 5 = true) → s.paramRead c e (16 * (D x true []).cols) = .ok (t, bs) →
      (t.cell c).em = s.here.em → (t.cell c).dbg = s.here.dbg →
      let recs := (List.range (D x true []).cols).map fun j => (BitVec.ofNat 128 (joinBits 8 ((bs.drop (16 * j)).take 16)) : BitVec 128)
      (∀ r ∈ recs, quantOk r = true) → StepsTo ((D x true recs).step c) (D x true []).rows 0 t u → Begins s .m h (.mdrainQ b acc a e xo) u (D x true []).rows) ∧
    (let o := s.here.mOperand e 5 0 0
     s.here.closedTile .m [a, e] = none → (Instr.mrsum b a e f).wellFormed = true → o.tile = none → o.ok 3 0 true = true → groupOf o.fmt = some 1 →
      o.d.dim 1 < 2 ^ 26 → ((operandTile a).isSome = true ∨ (s.here.descAt a).may 5 = true) → s.paramRead c a 4 = .ok (t, bs) →
      (t.cell c).em = s.here.em → (t.cell c).dbg = s.here.dbg →
      StepsTo (fun k v => (v.readRows (v.whoOf c (.stream .m))
          (((List.range 4).filter fun j => 4 * k + j < o.d.dim 1).map fun j => o.req 0 (4 * k + j) 64) true).bind fun (v, rows) =>
        .ok (v.modCell c fun x => { x with m := { x.m with corr := corrStep (sextNat 32 (joinBits 8 bs)) o.fmt (if k = 0 ∧ f = 0 then 0 else x.m.corr) rows } }))
        ((o.d.dim 1 + 3) / 4) 0 t u → Begins s .m h (.mrsum b a e f) u ((o.d.dim 1 + 3) / 4))

/-- R252 to R257, R283, R284: the control commands of M and of C complete: signals, waits, passes, the ends, `MCFG` and, with no further
effect, the loop commands.
Model's choices: notes/assumptions/66. -/
def Obligations.EngineControls : Prop :=
  ∀ (s : State) (h : Entry) (st : Stream) (b : BitVec 4) (k : BitVec 5) (n : BitVec 12) (t : BitVec 7) (w c i : BitVec 3) (x : CfgQ) (l : BitVec 6)
    (m : BitVec 8) (sc : BitVec 4), AtHead s st h → Free s st b → st = .m ∨ st = .c →
    let does := fun (i : Instr) (f : Cell → Cell) => exec i s = .next (s.leave st f)
    let own : BitVec 3 := if st = .m then 2 else 3
    let sig := if st = .m then Instr.mtsig k n else .ctsig k n; let wait := if st = .m then Instr.mtwait b k n else .ctwait b k n
    let shut := fun (c : BitVec 3) => if st = .m then Instr.mshut b t c else .cshut b t c
    let loop := if st = .m then Instr.mloop l m i sc else .cloop l m i sc
    (s.performedDie (s.focus.1, .stream st) = true →
      does sig (fun x => x.signal k.toNat n.toNat) ∧
      (c ≤ 5 → s.here.shutter t.toNat = own → does (shut c) fun x => x.setShutter t.toNat c) ∧
      (s.here.shutter t.toNat = 5 → (s.here.engine st).wantsOwn = false → does (shut own) fun x => x.setShutter t.toNat own)) ∧
    (n.toNat ≤ s.here.token k.toNat → s.tokenTaken s.focus.1 st k.toNat = false → does wait fun x => x.consume k.toNat n.toNat) ∧
    (l ≠ 0 → Begins s st h loop s 1) ∧
    does (if st = .m then .mend b else .cend b) (fun x => x.modEngine st fun g => { g with ended := true, fetching := false }) ∧
    (st = .m → does (.mcfg b w x) fun y => { y with m := { y.m with
      det := if w.getLsbD 0 then x.mode = 1 else y.m.det, split := if w.getLsbD 1 then x.split else y.m.split
      levee := if w.getLsbD 2 then (if x.levee = 0 then 64 else x.levee.setWidth 7) else y.m.levee } })

/-! ### C -/

/-- R262, R264: `COPY` of one tile that C holds to another copies all its bytes, counts them, and changes no other byte; onto
itself it leaves unspecified bytes in the tile (R259). -/
def Sys2Proof.Claims.CopyTileToTile : Prop :=
  ∀ (s : State) (h : Entry) (b : BitVec 4) (d e : BitVec 9) (td te : Nat), AtHead s .c h → Free s .c b → s.here.pad.wf = true →
    operandTile d = some td → operandTile e = some te → s.here.shutter td = 3 → s.here.shutter te = 3 →
    ∃ u, exec (.copy b d e 0) s = .next u ∧ Issued s u .c (.copy b d e 0) ∧
      (td ≠ te → ∀ k, k < 16384 → u.here.pad.read (td * 16384 + k) = s.here.pad.read (te * 16384 + k)) ∧
      (∀ o, (o < td * 16384 ∨ (td + 1) * 16384 ≤ o) → u.here.pad.read o = s.here.pad.read o) ∧
      u.here.c.sb = s.here.c.sb + 16384 ∧ u.here.c.db = s.here.c.db + 16384 ∧ u.here.m = s.here.m ∧ u.here.v = s.here.v ∧ u.here.s = s.here.s ∧ u.mem = s.mem

/-- R262, R271: `FILL` of a tile that C holds writes its word into every 4 bytes of it and changes no other byte. -/
def Sys2Proof.Claims.FillTile : Prop :=
  ∀ (s : State) (h : Entry) (b : BitVec 4) (d : BitVec 9) (x : Word) (td : Nat), AtHead s .c h → Free s .c b → s.here.pad.wf = true →
    operandTile d = some td → s.here.shutter td = 3 →
    ∃ u, exec (.fill b d x) s = .next u ∧ Issued s u .c (.fill b d x) ∧
      (∀ k, k < 16384 → u.here.pad.read (td * 16384 + k) = x.extractLsb' (8 * (k % 4)) 8) ∧
      (∀ o, (o < td * 16384 ∨ (td + 1) * 16384 ≤ o) → u.here.pad.read o = s.here.pad.read o) ∧
      u.here.c.db = s.here.c.db + 16384 ∧ u.here.c.sb = s.here.c.sb ∧ u.here.m = s.here.m ∧ u.here.v = s.here.v ∧ u.mem = s.mem

/-- R262, R264, R271: `COPY` and `FILL` of tiles that C holds.
Model's choices: notes/assumptions/10. -/
def Obligations.TileCommands : Prop :=
  Claims.CopyTileToTile ∧ Claims.FillTile

/-- R265, R269, R271 to R273, R277, R279: the commands of C with operands that pass their checks, once their steps have run. -/
def Sys2Proof.Claims.CopyCommands : Prop :=
  ∀ (s u : State) (h : Entry) (b : BitVec 4) (d e : BitVec 9) (t : BitVec 2) (w : Word) (cx : CopyQ) (rx : RowQ) (ex : EncQ) (k : BitVec 1)
    (te : BitVec 8) (fi n : BitVec 4), AtHead s .c h → Free s .c b →
    let c := s.focus.1; let x := s.here
    let P := fun (q : CopyQ) => x.copyPlan h d e t q; let M := fun (g : Bool) => x.movePlan h g d e rx; let E := fun (q : EncQ) => x.encPlan h d e q
    (x.closedTile .c [d, e] = none →
      ((Instr.copy b d e t).wellFormed = true → (P zeroCopy).ok = true → StepsTo ((P zeroCopy).step c) (P zeroCopy).rows 0 s u →
        Begins s .c h (.copy b d e t) u (P zeroCopy).rows) ∧
      ((Instr.copyExt b d e t cx).wellFormed = true → (P cx).ok = true → StepsTo ((P cx).step c) (P cx).rows 0 s u →
        Begins s .c h (.copyExt b d e t cx) u (P cx).rows) ∧
      ((Instr.copyF b d e t w).wellFormed = true → (injectedUnbounded w = true → x.s.super = true) → (P zeroCopy).ok = true →
        StepsTo ((P zeroCopy).step c) (P zeroCopy).rows 0 s u → Begins s .c h (.copyF b d e t w) u (P zeroCopy).rows) ∧
      ((Instr.gath b d e rx).wellFormed = true → (M true).ok = true → StepsTo ((M true).step c) (M true).count 0 s u →
        Begins s .c h (.gath b d e rx) u (M true).count) ∧
      ((Instr.scat b d e rx).wellFormed = true → (M false).ok = true → StepsTo ((M false).step c) (M false).count 0 s u →
        Begins s .c h (.scat b d e rx) u (M false).count) ∧
      ((Instr.enc b d e).wellFormed = true → (E ⟨0, 0⟩).ok = true → StepsTo ((E ⟨0, 0⟩).step c) (E ⟨0, 0⟩).steps 0 s u →
        Begins s .c h (.enc b d e) u (E ⟨0, 0⟩).steps) ∧
      ((Instr.encExt b d e ex).wellFormed = true → (E ex).ok = true → StepsTo ((E ex).step c) (E ex).steps 0 s u →
        Begins s .c h (.encExt b d e ex) u (E ex).steps) ∧
      (let D := x.descAt d; let S := x.descAt e
       (operandTile d).isNone = true → (operandTile e).isNone = true → D.compact = true → D.may 1 = true → S.compact = true → S.may 0 = true →
        S.fmt = D.fmt → S.dims = D.dims → s.inDram (s.whoOf c (.stream .c)) D.base ((D.arrayBits + 7) / 8) = .ok true →
        s.inDram (s.whoOf c (.stream .c)) S.base ((D.arrayBits + 7) / 8) = .ok true → (Instr.clone b d e).wellFormed = true →
        StepsTo (cloneStep c D (some S)) ((D.arrayBits + 65535) / 65536) 0 s u → Begins s .c h (.clone b d e) u ((D.arrayBits + 65535) / 65536))) ∧
    (let D := x.descAt d
     (operandTile d).isNone = true → D.compact = true → D.may 1 = true → s.inDram (s.whoOf c (.stream .c)) D.base ((D.arrayBits + 7) / 8) = .ok true →
      (Instr.cloneZero b d).wellFormed = true → StepsTo (cloneStep c D none) ((D.arrayBits + 65535) / 65536) 0 s u →
      Begins s .c h (.cloneZero b d) u ((D.arrayBits + 65535) / 65536)) ∧
    (let D := x.descAt d; let n := (fmtWidth (fullFmt D.fmt) * (D.dim 0 * D.rowCount) + 2047) / 2048
     (operandTile d).isNone = true → D.may 1 = true → D.blk = 0 → StepsTo (fillStep c none D w) n 0 s u → Begins s .c h (.fill b d w) u n) ∧
    (let raw := x.tensors.getD te.toNat 0; let count := if n = 0 then 256 else 16 * n.toNat
     (Instr.cbload b k te fi n).wellFormed = true → (descOf raw).bookOk count = true →
      StepsTo (fun _ s => (s.loadBook (s.whoOf c (.stream .c)) k.toNat (descOf raw) (16 * fi.toNat) count).bind fun (s, sb) =>
        .ok ((s.cAccount c sb 0).modCell c fun y => { y with c := { y.c with lastLoad := y.c.lastLoad.set k.toNat (some ⟨raw, 16 * fi.toNat, count⟩) } })) 1 0 s u →
      Begins s .c h (.cbload b k te fi n) u 1)

/-- R275, R276: `DEC` of a quantised tensor, and of a packed one whose header is valid, once its steps have run. -/
def Sys2Proof.Claims.DecRuns : Prop :=
  ∀ (s t u : State) (h : Entry) (b : BitVec 4) (d e : BitVec 9) (x : DecQ) (i : Instr) (q : DecQ) (hb : List Nat) (p : Packed), AtHead s .c h → Free s .c b →
    i.wellFormed = true → ((i = .dec b d e ∧ q = zeroDec) ∨ (i = .decExt b d e x ∧ q = x)) → s.here.closedTile .c [d, e] = none →
    let c := s.focus.1; let m := s.decPlan c h d e q
    m.ok = true →
    (m.d.blk = 3 → StepsTo (m.step c) m.rows 0 s u → Begins s .c h i u m.rows) ∧
    (m.d.blk ≠ 3 → s.engineBytes c .c m.d.base 32 = .ok (t, hb) → (t.cell c).ec = s.here.ec → (t.cell c).dbg = s.here.dbg →
      (if m.d.blk = 1 then bm8Header m.d 1 hb else (csrHeader m.d hb).map fun p => { p with opnd := 1 }) = some p →
      let n := if m.d.blk = 1 then (m.rows + 7) / 8 else m.rows
      StepsTo ({ m with p := some p }.step c) n 0 t u → Begins s .c h i u n)

/-- R265, R269, R271 to R273, R275 to R277, R279: the commands of C that take their plan and run its steps.
Model's choices: notes/assumptions/10, notes/assumptions/74, notes/assumptions/76, notes/assumptions/80. -/
def Obligations.CopyAndDecode : Prop :=
  Claims.CopyCommands ∧ Claims.DecRuns

/-- R280 to R282: `LAND` takes its lines into a packet for its destination, `COLL` sends its lines, waits for its chunk and combines it, or
raises LINKDOWN when one of its ports is or has gone DOWN, `CBAR` sends the bytes counted and clears the counts.
Model's choices: notes/assumptions/10, notes/assumptions/77, notes/assumptions/78. -/
def Obligations.LinkCommands : Prop :=
  ∀ (s t : State) (h : Entry) (b : BitVec 4) (tt r : BitVec 7) (l : BitVec 6) (n : BitVec 5) (hd p : BitVec 3) (x : LandQ) (y : CollQ) (port : Nat) (hb : List Nat)
    (bn : BitVec 8) (k : BitVec 2) (im : BitVec 11), AtHead s .c h → Free s .c b →
    let c := s.focus.1; let kern := s.kernelOf c; let dst := x.x.toNat + 16 * x.y.toNat + 256 * x.z.toNat
    let land := Instr.land b tt l n hd x; let coll := Instr.coll b tt r p y; let cbar := Instr.cbar b bn k im
    (land.wellFormed = true → hd.toNat < bitsAt kern.2.toNat 480 4 → s.here.shutter tt.toNat = 3 → s.performedAt (c, .stream .c) 4 = true →
      s.inTorus dst = true → s.route dst = some port → s.routeHeld c dst port 2 = false →
      s.engineBytes c .c (kern.1 + hdrField kern.2 56 0 32 + 4 * hd.toNat) 4 = .ok (t, hb) → (t.cell c).pad = s.here.pad → t.mem.poison = [] → t.mem.uncorr = [] →
      (t.cell c).ec = s.here.ec → t.focus = s.focus → t.cells.length = s.cells.length →
      ∃ u q, exec land s = .next u ∧ Issued s u .c land ∧ u.here.c.landOut = some (dst, x.cell.toNat, q) ∧
        q.payload = (t.cell c).pad.readN (tt.toNat * 16384 + l.toNat * 256) (8 * (n.toNat + 1)) ∧ q.tag = x.tag.setWidth 16 ∧ q.scell = BitVec.ofNat 8 c) ∧
    (coll.wellFormed = true → s.mem.poison = [] → s.mem.uncorr = [] → s.here.shutter tt.toNat = 3 → s.here.shutter r.toNat = 3 → s.here.ec.progress = (0, 0) →
      s.collDown c p.toNat = none → s.routeHeld c (s.neighbour p.toNat) p.toNat 3 = false → s.here.c.chunks = [] →
      ∃ u ch, exec coll s = .next u ∧ u.stalled = true ∧ u.here.ec.progress = (1, 0) ∧ u.here.ec.queue = s.here.ec.queue ∧
        u.link.out = s.link.out ++ [ch] ∧ ch.dst = s.neighbour p.toNat ∧ ch.port = p.toNat ∧
        ∃ q, ch.payload = .chunk q ∧ q.tag = y.tag ∧ q.port.toNat = otherWay p.toNat ∧ q.lines.length = y.nl.toNat + 1) ∧
    (∀ q v, coll.wellFormed = true → s.here.shutter tt.toNat = 3 → s.here.shutter r.toNat = 3 → s.here.ec.progress.1 = 1 →
      s.collDown c p.toNat = none →
      s.here.c.chunks = [q] → q.port.toNat = otherWay p.toNat → q.ctx = s.here.res.ctx → q.tag = y.tag → q.lines.length = y.nl.toNat + 1 →
      StepsTo (fun k s => collStep c tt.toNat r.toNat y.op.toNat k q s) (y.nl.toNat + 1) 0 s v →
      Begins s .c h coll (v.modCell c fun z => { z with c := { z.c with chunks := z.c.chunks.erase q } }) (y.nl.toNat + 1)) ∧
    (∀ q, coll.wellFormed = true → s.here.shutter tt.toNat = 3 → s.here.shutter r.toNat = 3 → s.collDown c p.toNat = some q →
      EngineTraps s .c h coll ⟨0x28, BitVec.ofNat 64 q⟩) ∧
    (cbar.wellFormed = true → s.performedAt (c, .stream .c) 4 = true →
      ∃ u, exec cbar s = .next u ∧ u.here.ec.queue = s.here.ec.queue.drop 1 ∧ u.here.c.sb = 0 ∧ u.here.c.db = 0 ∧ u.here.pad = s.here.pad ∧ u.mem = s.mem ∧
        Claims.Sent s ⟨c, .stream .c, s.here.res.ctx, bn.toNat,
          (match k.toNat with | 0 => s.here.c.db | 1 => s.here.c.sb | _ => im.setWidth 64), s.cycle⟩ u.disp.arrivals)

/-- R98, R307: an engine command whose operands fail their checks raises FORMAT; C waits while a tile's shutter does not read it. -/
def Sys2Proof.Claims.CopyTrapsAndWaits : Prop :=
  ∀ (s : State) (h : Entry) (b : BitVec 4) (d e : BitVec 9) (t : BitVec 2) (x : Word), AtHead s .c h → Free s .c b → (Instr.copy b d e t).wellFormed = true →
    (s.here.closedTile .c [d, e] = none → (s.here.copyPlan h d e t zeroCopy).ok = false → EngineTraps s .c h (.copy b d e t) ⟨0x19, 0⟩) ∧
    (∀ k, operandTile d = some k → s.here.shutter k ≠ 3 →
      (∃ u, exec (.copy b d e t) s = .next u ∧ u.stalled = true ∧ u.here.pad = s.here.pad ∧ u.here.ec.queue = s.here.ec.queue ∧ u.mem = s.mem) ∧
      (∃ u, exec (.fill b d x) s = .next u ∧ u.stalled = true ∧ u.here.pad = s.here.pad ∧ u.here.ec.queue = s.here.ec.queue ∧ u.mem = s.mem))

/-- R98, R192, R195 to R197, R307: what stops an engine at its head. -/
def Obligations.EngineTrapsAndWaits : Prop :=
  Claims.VWaitsOnShutter ∧ Claims.VEngineTraps ∧ Claims.CopyTrapsAndWaits

/-! ### Events of a cell -/

/-- R38, R333: the command in the injection slot issues before the queue's head, whether M runs or not; a fetched word enters the
queue. -/
def Sys2Proof.Claims.FetchAndInjection : Prop :=
  (∀ (s : State) (c : Nat) (e : Entry) (b m : BitVec 4), c < s.cells.length → s.mayRun c (.stream .m) = true → s.mem.uncorr = [] →
    let x := s.cell c
    x.m.inject = some e → e.held = none → x.m.rowValid = false → x.em.nextStep = 0 → x.em.table = none → x.em.inprog = [] → b ≠ 15 →
    decode .m e.word e.ext = .instr (.mzero b m) → x.m.injectHeld = false → x.em.quiesced = false →
    ∃ u, exec (.injectedCommandIssue c) s = .next u ∧ (u.cell c).m.inject = none ∧ (u.cell c).em.inprog.map (·.instr) = [.mzero b m] ∧
      (u.cell c).em.queue = x.em.queue ∧ ∀ r, r < 256 → (u.cell c).m.acc.getD r 0 = if m.getLsbD (r / 64) then 0 else x.m.acc.getD r 0) ∧
  (∀ (s : State) (c : Nat) (st : Stream) (w : Word) (i : Instr), c < s.cells.length → st ≠ .s → s.mayRun c (.stream st) = true →
    let x := s.cell c; let g := x.engine st
    g.mayFetch st = true → State.fetchWord.look' x.icache (x.res.ctx, g.fpc) = some w → hasExtension st w = false → decode st w 0 = .instr i →
    loopOf g.fpc i = none →
    ∃ u, exec (.engineFetch c st) s = .next u ∧ ((u.cell c).engine st).queue = g.queue ++ [{ pc := g.fpc, word := w, tag := g.tagAt g.fpc, idx := g.idx }] ∧
      ((u.cell c).engine st).fpc = g.fpc + 4 ∧ u.mem = s.mem)

/-- R38, R53, R224, R227, R230, R259: the oldest command in progress completes: a tile of `acc` opens or closes, the dither phase moves on by 5
when it has rounded with SR, and a `COPY.F` fills M's empty injection slot, for which it else waits. -/
def Sys2Proof.Claims.CommandsComplete : Prop :=
  ∀ (s : State) (c : Nat) (k : Command) (r : List Command), c < s.cells.length →
    let x := s.cell c
    let tiles := fun (v : BitVec 4) => ∃ u, exec (.commandCompletion c .m) s = .next u ∧ (u.cell c).em.inprog = r ∧ (u.cell c).m.openTiles = v ∧
      (u.cell c).m.rowValid = x.m.rowValid ∧ (u.cell c).m.rowNext = (if x.m.rowValid then x.m.rowNext else 0) ∧
      (x.em.phaseNext = none → (u.cell c).em.phase = if k.rounds then x.em.phase + 5 else x.em.phase) ∧
      (u.cell c).m.acc = x.m.acc ∧ (u.cell c).em.queue = x.em.queue ∧ u.mem = s.mem
    (x.em.inprog = k :: r →
      (∀ b m, k.instr = .mzero b m → tiles (x.m.openTiles &&& ~~~m)) ∧
      (∀ b a d e f, k.instr = .mma b a d e f → tiles (x.m.openTiles ||| 1#4 <<< a.toNat)) ∧
      (∀ b a d, k.instr = .mdrain b a d → tiles (x.m.openTiles &&& ~~~(1#4 <<< a.toNat)))) ∧
    (x.ec.inprog = k :: r →
      (∀ b d x', k.instr = .fill b d x' → ∃ u, exec (.commandCompletion c .c) s = .next u ∧ (u.cell c).ec.inprog = r ∧ (u.cell c).pad = x.pad ∧ u.mem = s.mem) ∧
      (∀ b d e t w, k.instr = .copyF b d e t w →
        (x.m.inject = none → ∃ u, exec (.commandCompletion c .c) s = .next u ∧ (u.cell c).ec.inprog = r ∧
          (u.cell c).m.inject = some { pc := k.entry.pc, word := w, tag := k.entry.tag, inj := true }) ∧
        (x.m.inject.isSome = true → exec (.commandCompletion c .c) s = .next s)))

/-- R38, R227, R230, R259, R333: how commands enter an engine's queue, issue from the injection slot, and complete.
Model's choices: notes/assumptions/9, notes/assumptions/10. -/
def Obligations.QueueEvents : Prop :=
  Claims.FetchAndInjection ∧ Claims.CommandsComplete

/-- R142, R304, R307: a decided trap of S's oldest instruction is taken; a waiting engine trap is taken when S has none.
Model's choices: notes/assumptions/20, notes/assumptions/39. -/
def Obligations.TrapsTaken : Prop :=
  ∀ (s : State) (c : Nat), c < s.cells.length → s.mayRun c (.stream .s) = true →
    let x := s.cell c
    x.trap.inTrap = false → vectorOk x.trap.tvec = true →
    (∀ w t, x.s.iss.unfinished = [w] → x.s.iss.replay = [] → w.trap = some t → t.cause ≠ 0x08 → t.cause ≠ 0x38 → isBranch w.instr = false →
      ∃ u, exec (.trapTake c (.stream .s)) s = .next u ∧
        let y := u.cell c
        y.trap.inTrap = true ∧ y.trap.cause = t.cause ∧ y.trap.tfInfo = t.info ∧ y.trap.tfCe = 0 ∧ y.trap.tfN = 1 ∧ y.trap.tfSpc = x.s.iss.pc ∧
        y.trap.frame.head? = some (frameEntryOf w) ∧ y.s.super = true ∧ y.trap.pmode = x.s.super ∧ y.s.iss.pc = x.trap.tvec ∧ y.s.iss.unfinished = [] ∧
        y.s.regs = x.s.regs ∧ u.mem = s.mem) ∧
    (∀ p, x.trap.pending = [p] → p.stream ≠ .s → x.s.iss.unfinished = [] →
      ∃ u, exec (.engineTrapTake c) s = .next u ∧
        let y := u.cell c
        y.trap.inTrap = true ∧ y.trap.cause = p.trap.cause ∧ y.trap.tfInfo = p.trap.info ∧ y.trap.tfCe = 15 ∧ y.trap.epos = p.pos ∧ y.trap.tfSpc = x.s.iss.pc ∧
        y.trap.pending = [] ∧ y.trap.pmode = x.s.super ∧ y.s.super = true ∧ y.s.iss.pc = x.trap.tvec ∧ y.s.regs = x.s.regs ∧ u.mem = s.mem)

/-- R114, R225, R228, R306: a wait of S that overruns its bound raises BOUND at the waiting instruction; M's reduction limit stops
with REDUCTION the head command, or the youngest command in progress, which goes back to the head with the steps it has done. -/
def Sys2Proof.Claims.BoundsExpire : Prop :=
  (∀ (s : State) (c : Nat) (w : SWait) (u : Unfinished) (n : Nat), c < s.cells.length → s.mayRun c (.stream .s) = true →
    let x := s.cell c
    x.s.iss.wait = some w → w.bound = some n → w.since + n < s.cycle → x.s.iss.unfinished = [u] → x.s.iss.replay = [] →
    isBranch u.instr = false → x.trap.inTrap = false → vectorOk x.trap.tvec = true →
    ∃ t, exec (.cycleBoundExpiry c (.stream .s)) s = .next t ∧
      let y := t.cell c
      y.trap.inTrap = true ∧ y.trap.cause = 0x11 ∧ y.trap.tfInfo = w.info ∧ y.trap.tfN = 1 ∧ y.trap.tfSpc = x.s.iss.pc ∧ y.s.iss.pc = x.trap.tvec ∧
      y.tokens = x.tokens ∧ y.s.regs = x.s.regs ∧ t.mem = s.mem) ∧
  (∀ (s : State) (c : Nat) (h : Entry), c < s.cells.length → s.mayRun c (.stream .m) = true →
    let x := s.cell c
    x.em.started = true → x.em.ended = false → x.em.stopped = false → x.em.quiesced = false → x.m.inject = none → x.em.nextStep = 0 →
    x.res.maxred.toNat < s.cycle - x.m.retiredAt →
    let stops := fun (h : Entry) (t : State) => (t.cell c).em.stopped = true ∧ (t.cell c).m.acc = x.m.acc ∧
      (t.cell c).trap.pending = x.trap.pending ++ [⟨.m, ⟨0x12, x.res.maxred.setWidth 64⟩, eposOf .m h.pc h.tag h.inj⟩]
    (x.m.openTiles ≠ 0 → x.em.inprog = [] → x.em.queue.head? = some h →
      ∃ t, exec (.reductionLimit c) s = .next t ∧ stops h t ∧ (t.cell c).em.queue = x.em.queue) ∧
    (∀ r k, x.em.inprog = r ++ [k] → stopsInside k.instr = true → k.entry = h →
      ∃ t, exec (.reductionLimit c) s = .next t ∧ stops h t ∧ (t.cell c).em.inprog = r ∧ (t.cell c).em.queue = h :: x.em.queue ∧
        (t.cell c).em.nextStep = k.next ∧ (t.cell c).m.rowValid = true ∧ (t.cell c).m.rowNext = BitVec.ofNat 24 k.next))

/-- R36, R98, R373, R375: waits end by their events: a token wait of S subtracts, V's access goes on once the tile is V's, and the
waits for a time and for a barrier write their registers. -/
def Sys2Proof.Claims.WaitsEnd : Prop :=
  (∀ (s : State) (c : Nat) (w : SWait) (u : Unfinished) (i : Instr) (q b : BitVec 4) (d a : BitVec 5) (k : BitVec 5) (m : BitVec 12), c < s.cells.length →
    s.mayRun c (.stream .s) = true → s.mem.uncorr = [] → (s.cell c).s.iss.wait = some w → (s.cell c).s.iss.unfinished = [u] → u.trap = none →
    (s.cell c).s.iss.acquire = false → u.instr = i → u.dest = d → u.value = none →
    let x := s.cell c; let ctx := x.res.ctx
    let gets := fun (e : Instr) (v : DWord) => ∃ t, exec e s = .next t ∧ (t.cell c).s.regs = (x.setReg (.stream .s) d.toNat v).s.regs ∧
      (t.cell c).s.iss.unfinished = [] ∧ (t.cell c).s.iss.wait = none ∧ (t.cell c).s.iss.pc = x.s.iss.pc ∧ t.mem = s.mem
    (i = .twait q b k 0 m → m.toNat ≤ x.token k.toNat → ∃ t, exec (.tokenWaitSatisfied c .s) s = .next t ∧
      (t.cell c).tokens = (x.consume k.toNat m.toNat).tokens ∧ (t.cell c).s.iss.unfinished = [] ∧ (t.cell c).s.iss.wait = none ∧
      (t.cell c).s.iss.acquire = true ∧ (t.cell c).s.regs = x.s.regs) ∧
    (i = .waitt q d a b → u.opa ≤ s.time → gets (.waittTargetReached c) s.time) ∧
    (i = .barrWait q d a b →
      let k := s.barrier (ctx.toNat * 256 + u.opa.toNat % 256)
      (k.epoch - u.opa.extractLsb' 16 16).toNat < 2 ^ 15 →
      gets (.barrierWaitRelease c) (BitVec.ofNat 64 (k.epoch.toNat + 65536 * k.state.toNat + if k.err then 2 ^ 18 else 0)))) ∧
  (∀ (s : State) (c : Nat) (h : Entry) (d : BitVec 6) (t : BitVec 7) (l : BitVec 6), c < s.cells.length → s.mayRun c (.stream .v) = true → s.mem.uncorr = [] →
    s.mem.poison = [] →
    let x := s.cell c
    x.ev.queue.head? = some h → decode .v h.word h.ext = .instr (.vld 0 d t l 0) → h.held = none → x.ev.started = true → x.ev.ended = false →
    x.ev.stopped = false → x.ev.quiesced = false → x.ev.table = none → x.shutter t.toNat = 1 →
    ∃ u, exec (.shutterStallRelease c .v) s = .next u ∧ (u.cell c).ev.queue = x.ev.queue.drop 1 ∧
      (u.cell c).v = x.v.setReg d (loadLine x.v.top 0 (x.v.reg d) (x.pad.readN (t.toNat * 16384 + l.toNat * 256) 256)))

/-- R36, R98, R114, R228, R306, R373, R375: the end of a wait, by its bound or by what it waits for. -/
def Obligations.BoundsAndWaits : Prop :=
  Claims.BoundsExpire ∧ Claims.WaitsEnd

/-! ### Events of memory -/

/-- The box takes the next records: it is not frozen, is not about to be, and has room for more of this cycle (R440). -/
def Sys2Proof.Claims.BoxTakes (s : State) : Prop := s.bb.frozen = false ∧ (∀ k ∈ s.bb.countdown, 64 < k) ∧ s.bb.fresh < 4000

/-- The records of the newest cycle. -/
def Sys2Proof.Claims.freshRecords (s : State) : List BbRecord := s.bb.records.take (if s.bb.lastAt = s.cycle then s.bb.fresh else 0)

/-- One more record of the present cycle has the code (R439, R440). -/
def Sys2Proof.Claims.Logged (s u : State) (code : BitVec 16) : Prop :=
  ((Claims.freshRecords u).filter (·.code = code)).length = ((Claims.freshRecords s).filter (·.code = code)).length + 1

/-- R21, R22, R83: a message reaches its die's view; an access to a tile's window proceeds when the shutter is C's or FREE and
waits otherwise, at most 2^20 cycles; a register write is applied at the engine's boundary. -/
def Obligations.WindowsAndViews : Prop :=
  (∀ (s : State) (die k : Nat) (w : CrossWrite), (s.mem.pend.filter fun w => w.dst = die)[k]? = some w → s.mem.ready w = true → die < s.mem.views.length →
    (s.mem.views.getD die []).wf = true →
    ∃ u, exec (.writeApplyToView die k) s = .next u ∧ u.cells = s.cells ∧ u.disp = s.disp ∧
      (∀ (k : Nat) (p : Part), w.parts[k]? = some p → p.mask = [] ∨ p.mask.length = p.bytes.length →
        (∀ (j : Nat) (q : Part), j ≠ k → w.parts[j]? = some q → overlaps q.addr q.bytes.length p.addr p.bytes.length = false) →
        ∀ i, i < p.bytes.length → (u.mem.views.getD die []).read (p.addr + i) =
          ((s.mem.views.getD die []).read (p.addr + i) &&& ~~~p.mask.getD i 255) ||| (p.bytes.getD i 0 &&& p.mask.getD i 255)) ∧
      (∀ a, (∀ p ∈ w.parts, a < p.addr ∨ p.addr + p.bytes.length ≤ a) → (u.mem.views.getD die []).read a = (s.mem.views.getD die []).read a) ∧
      (∀ d, d ≠ die → u.mem.views.getD d [] = s.mem.views.getD d [])) ∧
  (∀ (s : State) (c off n : Nat) (v : DWord), c < 192 → c < s.cells.length → off + n ≤ 0x200000 → outsideSize off n = true →
    (s.cell c).winWaits = [] → (s.cell c).res.fenced = false → s.mem.poison = [] → s.mem.uncorr = [] → s.page.sluice = [] → (s.cell c).pad.wf = true →
    ((s.cell c).padOpenFor hostAgent off = true →
      (∃ u, exec (.cellWindowAccess c off n none false) s = .next u ∧ u.dev.hostData = BitVec.ofNat 64 (leNat ((s.cell c).pad.readN off n)) ∧
        u.dev.hostPoison = false ∧ u.dev.hostAbort = false ∧ u.cells = s.cells) ∧
      (∃ u, exec (.cellWindowAccess c off n (some v) false) s = .next u ∧ leNat ((u.cell c).pad.readN off n) = v.toNat % 2 ^ (8 * n) ∧
        ∀ a, (a < off ∨ off + n ≤ a) → (u.cell c).pad.read a = (s.cell c).pad.read a)) ∧
    ((s.cell c).padOpenFor hostAgent off = false → ∃ u, exec (.cellWindowAccess c off n none false) s = .next u ∧ u.dev = s.dev ∧
      (u.cell c).winWaits = [⟨hostAgent, off, n, none, s.cycle, none⟩] ∧ (u.cell c).pad = (s.cell c).pad)) ∧
  (∀ (s : State) (c : Nat) (a : WindowAccess) (bs : List Byte), c < s.cells.length → (s.cell c).winRegs = [a] → a.since < s.cycle →
    (s.cell c).atBoundary a.off = true → a.wr = some bs →
    exec (.windowRegWriteApply c) s = .next ((s.modCell c fun x => { x with winRegs := [] }).windowRegWrite c a.off bs)) ∧
  (∀ (s : State) (c : Nat) (a : WindowAccess) (bs : List Byte), c < s.cells.length → (s.cell c).winWaits = [a] → a.off < 0x200000 → a.since + 2 ^ 20 ≤ s.cycle →
    a.wr = some bs → Claims.BoxTakes s →
    ∃ u, exec (.windowAccessTimeout c) s = .next u ∧ (u.cell c).winWaits = [] ∧ (u.cell c).pad = (s.cell c).pad ∧ Claims.Logged s u 0x0102)

/-- R18, R420, R447: the host reads and writes device memory; an access to a hole ends in a completer abort and an event, and in
the safe state every access to device memory does.
Model's choices: notes/assumptions/31, notes/assumptions/44. -/
def Obligations.HostAccesses : Prop :=
  ∀ (s : State) (pa n : Nat) (v : DWord), outsideSize pa n = true →
    (s.dev.mstate ≠ 2 → place pa = .hbm → s.sluiceAt pa = none → s.mem.poison = [] → s.mem.uncorr = [] → s.mem.pend = [] → 0 < s.mem.views.length →
      (s.mem.views.getD 0 []).wf = true →
      (∃ u, exec (.hostMemoryAccess pa n none) s = .next u ∧ u.dev.hostData = BitVec.ofNat 64 (leNat ((s.mem.views.getD 0 []).readN pa n)) ∧
        u.dev.hostPoison = false ∧ u.dev.hostAbort = false ∧ u.mem = s.mem ∧ u.cells = s.cells) ∧
      (∃ u, exec (.hostMemoryAccess pa n (some v)) s = .next u ∧ u.cells = s.cells ∧
        leNat ((u.mem.views.getD 0 []).readN pa n) = v.toNat % 2 ^ (8 * n) ∧
        ∀ a, (a < pa ∨ pa + n ≤ a) → (u.mem.views.getD 0 []).read a = (s.mem.views.getD 0 []).read a)) ∧
    (s.dev.mstate ≠ 2 → place pa = .hole → Claims.BoxTakes s →
      ∃ u, exec (.hostMemoryAccess pa n (some v)) s = .next u ∧ u.dev.hostAbort = true ∧ u.mem = s.mem ∧ Claims.Logged s u 0x0101) ∧
    (s.dev.mstate = 2 → place pa = .hbm → ∃ u, exec (.hostMemoryAccess pa n (some v)) s = .next u ∧ u.dev.hostAbort = true ∧ u.mem = s.mem ∧ u.bb = s.bb)

/-- R376, R382, R383: a walk that finds a leaf puts it into the quad's TLB; a next-page fill makes the page the stream's current
one, or leaves the register empty when the page is not present. -/
def Sys2Proof.Claims.TranslationEvents : Prop :=
  (∀ (s : State) (q : Nat) (ctx : BitVec 16) (va : Nat) (e : DWord) (large : Bool) (a : Nat), q < 48 → q < s.quads.length → canonical va = true →
    tlbFind (s.quad q).tlb ctx va = none → s.page.hotEn = false → s.walkFrom (q / 12) ctx va = .leaf e large a →
    ∃ u, exec (.pageWalk q ctx va) s = .next u ∧
      (u.quad q).tlb.head? = some ⟨ctx, va / pageSize large * pageSize large, large, e⟩ ∧ (u.quad q).misses = (s.quad q).misses + 1 ∧ u.mem = s.mem ∧
      ∀ c, c / 4 = q → c < s.cells.length → (u.cell c).tlb.head? = some ⟨ctx, va / pageSize large * pageSize large, large, e⟩) ∧
  (∀ (s : State) (c k va : Nat), c < s.cells.length → k < 4 → s.mayRun c (.stream .m) = true → canonical va = true →
    let w := s.whoOf c (.stream .m); let x := s.cell c
    (s.context w.ctx).state = .active → x.pageRegs.length = 7 → x.pageRegs.getD k (none, none) = (none, none) →
    (∀ e large a, s.lookup { w with ag := .stream .s } va = .leaf e large a → permitted e (leafPa e large va) w.super (streamNeed .m k) = true →
      ∃ u, exec (.nextPageFill c .m k va) s = .next u ∧
        (u.cell c).pageRegs.getD k (none, none) = (some ⟨w.ctx, va / pageSize large * pageSize large, large, e⟩, none)) ∧
    (s.lookup { w with ag := .stream .s } va = .notPresent → ∃ u, exec (.nextPageFill c .m k va) s = .next u ∧
      (u.cell c).pageRegs.getD k (none, none) = (none, none)))

/-- R394: the decay of the hotness table halves every counter once its period has passed. -/
def Sys2Proof.Claims.HotDecayHalves : Prop :=
  ∀ (s : State), s.page.hotEn = true → s.page.decay ≠ 0 → s.timers.decay + s.page.decay.toNat * 2 ^ 20 ≤ s.cycle → s.mem.pend = [] → s.page.sluice = [] →
    0 < s.mem.views.length → (s.mem.views.getD 0 []).wf = true → s.page.hotbase.toNat + 0x14000000 ≤ 0xC000000000 →
    ∃ u, exec .hotDecay s = .next u ∧ u.timers.decay = s.cycle ∧ u.cells = s.cells ∧
      ∀ k, k < 0x14000000 → ((u.mem.views.getD 0 []).read (s.page.hotbase.toNat + k)).toNat = ((s.mem.views.getD 0 []).read (s.page.hotbase.toNat + k)).toNat / 2

/-- R376, R382, R383, R394: page walks, next pages and the decay of the hotness table.
Model's choices: notes/assumptions/8. -/
def Obligations.TranslationAndHotness : Prop :=
  Claims.TranslationEvents ∧ Claims.HotDecayHalves

/-! ### Events of tasks -/

/-- R28, R31, R34, R297, R300, R327, R328: the first READY task that a free cell suits is dispatched: a fresh one starts at its record's
program counters with the registers, tokens and shutters of R34; a restore ends with the registers of the frame and the task RUNNING.
Model's choices: notes/assumptions/30, notes/assumptions/48. -/
def Obligations.DispatchAndRestore : Prop :=
  (∀ (s : State) (n c : Nat) (t : Task) (r : Record), c < s.cells.length → s.dev.halted = false → s.dev.mstate = 1 → s.untaken = 0 →
    firstBy (fun (_, t) => s.rank true t) (s.disp.tasks.filter fun (_, t) => s.eligible t && !(s.cellsFor t).isEmpty) = some (n, t) →
    firstBy (s.cellRank t) (s.cellsFor t) = some c → s.task n = some t → s.rereadRecord t = .ok r →
    let k := s.context r.ctxid
    r.malformed = false → k.state = .active → r.ctxid = t.record.ctxid →
    (t.image = none →
      let h := (s.taskKernel t).2
      ∃ u, exec .dispatchTask s = .next u ∧ (∃ t', u.task n = some t' ∧ t'.state = .running ∧ t'.cell = some c ∧ t'.record = r) ∧
        let y := u.cell c
        y.res.task = some n ∧ y.res.image = .active ∧ y.res.ctx = r.ctxid ∧ y.s.iss.pc = r.spc ∧ y.s.regs = (List.replicate 32 (0 : DWord)).set 1 r.frame ∧
        y.s.super = ((hdrField h 5 0 1 = 1) && k.supok) ∧ y.trap.tvec = k.tvec0 ∧ y.trap.inTrap = false ∧ y.tokens = List.replicate 32 0 ∧
        (∀ n, n < 128 → y.shutter n = if (hdrField h 16 0 128).testBit n then 0 else 5) ∧ y.res.energy = 0 ∧ y.res.det = r.det ∧
        y.ev.started = false ∧ y.em.started = false ∧ y.ec.started = false) ∧
    (∀ i, t.image = some i → ∃ u, exec .dispatchTask s = .next u ∧ (u.cell c).res.image = .restoring ∧ (u.cell c).res.task = some n ∧
      (u.cell c).res.det = r.det ∧ ∃ t', u.task n = some t' ∧ t'.state = .dispatched ∧ t'.cell = some c)) ∧
  (∀ (s : State) (c n : Nat) (t : Task) (i : Image), c < s.cells.length → (s.cell c).res.image = .restoring → (s.cell c).res.task = some n →
    s.task n = some t → t.image = some i →
    ((s.cell c).res.replayed = false → (∀ b ∈ i.lastLoad, b = none) → ∃ u, exec (.codebookReplay c) s = .next u ∧ (u.cell c).res.replayed = true ∧
      (∀ b ∈ (u.cell c).c.banks, b.2 = false) ∧ (u.cell c).s = (s.cell c).s ∧ u.mem = s.mem ∧ u.disp = s.disp) ∧
    (∀ v f, ((s.cell c).res.replayed = true ∨ ∀ b ∈ i.lastLoad, b = none) →
      s.readFrame c t.record.ctxid t.record.frame.toNat i (declaredTiles (s.taskKernel t).2) = .ok (v, f) → c < v.cells.length → t.cancelReq = false →
      (v.context t.record.ctxid).state ≠ .faulted →
      ∃ u, exec (.restoreComplete c) s = .next u ∧ u.task n = some { t with state := .running, image := none } ∧
        let y := u.cell c
        y.res.image = .active ∧ y.s.regs = (elemsOf f.regs 8 32).map (BitVec.ofNat 64) ∧ y.s.iss = { i.s.iss with pc := t.record.spc } ∧ y.s.super = i.s.super ∧
        y.v.regs = linesOf f.vregs 64 ∧ y.v.masks = i.vMasks ∧ y.tokens = (elemsOf f.tokens 2 32).map (BitVec.ofNat 16) ∧
        y.tensors = (elemsOf f.tensors 64 256).map (BitVec.ofNat 512) ∧ y.wickets = i.wickets.map fun k => { k with timef := 0 }))

/-- R26, R31, R227, R258, R297 to R301, R313: a stop ends M, then V, C and S, then the image is saved into the frame and the record, and the
task waits as the stop says; a task whose accesses are all performed retires.
Model's choices: notes/assumptions/27, notes/assumptions/29, notes/assumptions/30. -/
def Obligations.StopSaveAndRetire : Prop :=
  ∀ (s : State) (c n : Nat) (t : Task), c < s.cells.length → (s.cell c).res.task = some n → s.task n = some t →
    let x := s.cell c
    (∀ p, x.res.stop = some p → x.mayStop p = true →
      (p.mDone = false → x.em.inprog = [] → x.m.openTiles = 0 → x.em.nextStep = 0 → exec (.mQuiesceStop c) s = .next (s.setCell c
        { x with em := { x.em with quiesced := true }, res := { x.res with stop := some { p with mDone := true } } })) ∧
      (p.mDone = false → x.em.inprog = [] → p.reason = .fault → x.em.nextStep ≠ 0 → exec (.mQuiesceStop c) s = .next (s.setCell c
        { x with em := { x.em with quiesced := true }, m := { x.m with rowNext := BitVec.ofNat 24 x.em.nextStep, rowValid := true }
                 res := { x.res with stop := some { p with mDone := true } } })) ∧
      (p.mDone = true → exec (.taskStop c) s = .next (s.setCell c { x with ev := { x.ev with quiesced := true }, ec := { x.ec with quiesced := true } })) ∧
      (p.mDone = true → x.ev.quiesced = true → x.ec.quiesced = true → s.accessesDone c = true → p.reason = .preempt →
        ∃ u, exec (.taskStopped c) s = .next u ∧ u.mem = s.mem ∧ u.disp = s.disp ∧
          let y := u.cell c
          y.res.image = .saving ∧ y.s.iss.unfinished = [] ∧ y.s.iss.replay = x.s.iss.unfinished.map Unfinished.capture ++ x.s.iss.replay ∧
          y.s.iss.pc = x.s.iss.pc ∧ y.s.regs = x.s.regs ∧ y.ev.queue = [] ∧ y.em.queue = [] ∧ y.ec.queue = [] ∧
          (∀ h q, x.ev.queue = h :: q → y.ev.fpc = h.pc))) ∧
    (∀ p s1 s2 s3, x.res.stop = some p → x.res.image = .saving → t.cancelReq = false → p.reason = .yieldLand →
      let k := s.context t.record.ctxid
      let base := k.fpool + t.slot.getD 0 * k.fsize * 65536
      let r := { (x.savedPcs t.record) with frame := BitVec.ofNat 64 base, skind := 3, scause := 0, sinfo := p.tag }
      let h := (s.taskKernel t).2
      s.writeRegions c t.record.ctxid base (x.frameRegions p t.argBlock (frameUnits h) (declaredTiles h)) = .ok s1 →
      s1.writePrivate c t.record.ctxid base privateRegions = .ok s2 → s2.mem.poison = [] → s2.mem.uncorr = [] →
      (s2.chargeVa c t.record.ctxid t.va 64).dstore t.record.ctxid t.va r.bytes = .ok s3 → c < s3.cells.length →
      ∃ u, exec (.saveComplete c) s = .next u ∧ (u.cell c).res.image = .none ∧ (u.cell c).res.task = none ∧ (u.cell c).res.stop = none ∧
        ∃ t', u.task n = some t' ∧ t'.state = .suspLand ∧ t'.record = r ∧ t'.cell = none ∧ t'.image.isSome = true) ∧
    (x.res.image = .active → x.s.ended = true → x.enginesEnded = true → x.s.iss.unfinished = [] →
      (∀ st ∈ engines, (x.engine st).inprog = []) → (∀ ag ∈ agentsOf, s.performedAll (c, ag) = true) →
      exec (.taskRetire c) s = .next (s.finishTask n false) ∧
      (t.cell = some c → t.stolenFrom = none → t.record.launchid = 0 →
        let u := s.finishTask n false
        (u.cell c).res.task = none ∧ (u.cell c).res.image = .none ∧
        ∃ t', u.task n = some t' ∧ t'.state = .retired ∧ t'.slot = none ∧ t'.record.skind = 5))

/-- R316, R325, R326, R329, R330: a slot of a queue becomes a READY task of the pool; a READY task without a free cell pre-empts a weir task;
the power of a period shuts or opens the release of weir tasks; a residency period charges the static weight.
Model's choices: notes/assumptions/46, notes/assumptions/47. -/
def Obligations.PoolAndPeriods : Prop :=
  (∀ (s : State) (q : Nat) (p : SlotPut) (ps : List SlotPut) (bs rb : List Byte), let x := s.queue q
    let va := sext52 (bytesAt bs 0 8); let launch : BitVec 32 := BitVec.ofNat 32 (bytesAt bs 8 4)
    let s1 := s.setQueue q ({ x with take := x.take + 1, puts := ps } : RQueue).drained
    let r := recordOf rb
    (x.state = 1 ∨ x.state = 2) → x.put ≠ x.take → x.puts = p :: ps → p.gone = false → s.poolHeld s.disp.nextTask < 65536 → s.disp.portWaits = [] →
    s.dread x.ctx (x.slotVa x.take.toNat) 16 = .ok bs → (launch = p.launch ∨ (s1.group launch).any (fun g => g.ctx = x.ctx)) →
    s1.launchGone launch = false → s.readWaits x.ctx va 64 = false → s1.dread x.ctx va 64 = .ok rb → r.malformed = false →
    (s.context x.ctx).state = .active → r.ctxid = x.ctx → (r.weir = true ↔ x.level = 0) → (r.weir = false → r.basepri.toNat = x.level.toNat) →
    ∃ u t, exec (.queueTake q) s = .next u ∧ (u.queue q).take = x.take + 1 ∧ (u.queue q).put = x.put ∧
      (u.queue q).state = (if x.state = 2 ∧ x.take + 1 = x.put then 3 else x.state) ∧
      u.task s.disp.nextTask = some t ∧ t.state = (if p.held = true ∨ s1.launchHeld launch = true then .waiting else .ready) ∧ t.va = va ∧
      t.record = { r with launchid := launch } ∧ t.qid = q ∧ t.waitSince = p.since) ∧
  (∀ (s : State) (n m c : Nat) (t k : Task), s.freeCells = [] → s.dev.halted = false → c < s.cells.length →
    (s.disp.entered = true ∨ s.timers.preempt + 1024 ≤ s.cycle) → s.preempting = [(t, .inl n)] → s.task n = some t → n ≠ m → s.stoppable = [(c, k)] →
    k.record.weir = true →
    1 ≤ s.effective t.record (s.waited t) → (s.cell c).res.task = some m → s.task m = some k → (s.cell c).res.stop = none → k.slot.isSome = true →
    ∃ u, exec .preemptEval s = .next u ∧ (u.cell c).res.stop = some { reason := .preempt } ∧ u.task n = some { t with wants := some c } ∧
      (u.cell c).s = (s.cell c).s ∧ u.mem = s.mem) ∧
  (∀ (s : State) (p : BitVec 12), s.timers.weir + 30000 ≤ s.cycle → s.stoppable = [] →
    let sp := s.dev.weirSp.toNat
    let hot := s.dev.tpoint.any (fun t => 2 ≤ t.toNat) || s.dev.rfx.any (· = 3)
    let gives := fun (b : Bool) => exec (.weirSample p) s = .next { s with
      timers := { s.timers with weir := s.cycle }, dev := { s.dev with pwr := p }, disp := { s.disp with weirRel := b } }
    (sp = 0 → gives false) ∧ (sp ≤ p.toNat ∨ hot = true → gives false) ∧
    (0 < sp → p.toNat + s.dev.weirHys.toNat < sp → hot = false → gives true) ∧
    (p.toNat < sp → sp ≤ p.toNat + s.dev.weirHys.toNat → hot = false → gives s.disp.weirRel)) ∧
  (∀ (s : State) (c : Nat), c < s.cells.length → (s.cell c).res.image ≠ .none → (s.cell c).res.rc = 1023 →
    let r := (s.cell c).res; let unit := 2 ^ (r.escale.toNat + 8); let ea := r.ea + (s.cell c).weights.static.toNat
    ∃ u, exec (.residencyPeriod c) s = .next u ∧ u.cycle = s.cycle + 1 ∧ u.link.time = s.link.time + s.link.timeIncr ∧ (u.cell c).res.rc = 0 ∧
      (r.energy.toNat + ea / unit < 2 ^ 48 → (u.cell c).res.energy.toNat * unit + (u.cell c).res.ea = r.energy.toNat * unit + ea ∧ (u.cell c).res.esat = r.esat))

/-- R367: what an arrival does to a barrier: in IDLE or RELEASED it only sets `ERR`; else it is counted, and the barrier FILLS, or
releases with the next epoch. -/
def Sys2Proof.Claims.ArrivalCounts : Prop :=
  ∀ (b : Barrier) (n now : DWord), let r := b.arrive n now
    ((b.state = 0 ∨ b.state = 3) → r = ({ b with err := true }, false)) ∧
    ((b.state = 1 ∨ b.state = 2) → n < b.pend → r = ({ b with pend := b.pend - n, state := 2, err := r.1.err, arrv := r.1.arrv }, false)) ∧
    ((b.state = 1 ∨ b.state = 2) → b.parts = 0 → n = b.pend → b.auto = false → r = ({ b with pend := 0, epoch := b.epoch + 1, rtime := now, state := 3 }, true)) ∧
    ((b.state = 1 ∨ b.state = 2) → b.parts = 0 → n = b.pend → b.auto = true →
      r = ({ b with pend := b.expect, arrv := 0, epoch := b.epoch + 1, rtime := now, state := 1 }, true)) ∧
    ((b.state = 1 ∨ b.state = 2) → b.parts ≠ 0 → b.arrv + 1 = b.parts → n = b.pend → b.auto = false →
      r = ({ b with pend := 0, arrv := b.parts, epoch := b.epoch + 1, rtime := now, state := 3 }, true)) ∧
    ((b.state = 1 ∨ b.state = 2) → b.pend < n → r.1.err = true)

/-- R354, R366, R367: an arrival is applied to its barrier; a closed phase whose counter is 0 and whose boundary is met becomes
COMPLETE. -/
def Obligations.BarrierEvents : Prop :=
  Claims.ArrivalCounts ∧
  (∀ (s : State) (a : Arrival) (l : List Arrival), s.disp.arrivals = a :: l → s.disp.groups = [] →
    ∃ u, exec .barrierArrival s = .next u ∧ u.disp.arrivals = l ∧
      let k := a.ctx.toNat * 256 + a.barrier
      u.barrier k = ((s.barrier k).arrive a.bytes s.time).1 ∧ ∀ j, j ≠ k → u.barrier j = s.barrier j) ∧
  (∀ (s : State) (slot : Nat) (g : Group), slot < 2 ^ 18 → s.group (s.gidOf 2 slot) = some g → g.level = 2 → g.state = 1 → g.count = 0 → s.boundaryMet g = true →
    g.parent = 0 → g.waiters = [] → ∃ u, exec (.phaseTimeBoundary slot) s = .next u ∧ u.groupAt slot = { g with state := 3 } ∧
      ∀ j, j ≠ slot → u.groupAt j = s.groupAt j)

/-- R387 to R393, R396: a page's migration: a line is copied to the destination, the leaf is switched and its translations invalidated, and the
ends of a migration and of an abort write its completion word and leave the table.
Model's choices: notes/assumptions/5. -/
def Obligations.MigrationRuns : Prop :=
  ∀ (s : State) (e : Sluice), s.page.sluice = [e] → s.mem.pend = [] → s.mem.poison = [] → s.mem.uncorr = [] → s.dev.halted = false →
    s.mem.views.length = 4 → (∀ v ∈ s.mem.views, v.wf = true) → s.cells.length = 192 → s.disp.tasks = [] → s.page.hotEn = false →
    (∀ a, ((e.src ≤ a ∧ a < e.src + 65536) ∨ (e.dst ≤ a ∧ a < e.dst + 65536) ∨ (e.pte ≤ a ∧ a < e.pte + 8) ∨ (e.cword ≤ a ∧ a < e.cword + 8)) →
      place a = .hbm ∧ absent a = false) →
    (e.src + 65536 ≤ e.dst ∨ e.dst + 65536 ≤ e.src) → (e.pte + 8 ≤ e.src ∨ e.src + 65536 ≤ e.pte) → (e.cword + 8 ≤ e.src ∨ e.src + 65536 ≤ e.cword) →
    let d := homeDie e.src
    let view := fun (t : State) => t.mem.views.getD d []
    let gone := fun (t : State) => ∀ c, c < 192 → ∀ x ∈ (t.cell c).tlb, x.covered e.ctx (e.va, 65536) = false
    (e.state = .sluice → e.f < 256 → ∃ u, exec (.migrationLineCopy 0) s = .next u ∧ u.page.sluice = [{ e with f := e.f + 1 }] ∧
      (∀ k, k < 256 → (view u).read (e.dst + 256 * e.f + k) = (view s).read (e.src + 256 * e.f + k)) ∧
      (∀ a, (a < e.dst + 256 * e.f ∨ e.dst + 256 * e.f + 256 ≤ a) → (view u).read a = (view s).read a)) ∧
    (e.state = .sluice → e.f = 256 → ∃ u, exec (.switchOver 0) s = .next u ∧ u.page.sluice = [{ e with state := .switching }] ∧
      u.readPte e.pte = switchedLeaf (s.readPte e.pte) e.dst ∧ gone u) ∧
    (e.state = .switching → s.shotDown e = true → ∃ u, exec (.migrationShootdownComplete 0) s = .next u ∧ u.page.sluice = [] ∧ u.readPte e.cword = 1) ∧
    (e.state = .sluice → (s.context e.ctx).state = .destroyed → ∃ u, exec (.migrationAbort 0 4) s = .next u ∧
      u.page.sluice = [{ e with state := .aborting, reason := 4 }] ∧ u.readPte e.pte = s.readPte e.pte &&& ~~~0x100 ∧ gone u) ∧
    (e.state = .aborting → e.reason = 4 → s.shotDown e = true → ∃ u, exec (.abortShootdownComplete 0) s = .next u ∧ u.page.sluice = [] ∧
      u.readPte e.cword = 0x402)

/-! ### Events of the fabric -/

/-- R331, R332: occupancy is published and a task requested; a request takes grantable tasks out of the pool; a granted task enters the
thief's pool; its acknowledgement or its return settles it.
Model's choices: notes/assumptions/26, notes/assumptions/83. -/
def Obligations.StealingEvents : Prop :=
  ∀ (s : State) (port : Nat), (s.link.ports.getD port {}).live = true →
    let packet := fun (p : Nat) (l : Payload) =>
      ({ dst := s.neighbour p, port := p, cell := Config.cells, agent := .stream .s, ctx := 0, sentAt := s.cycle, payload := l } : OutPacket)
    (∀ nbr, s.timers.occupancy + 3000 ≤ s.cycle → (∀ p, p < 6 → (s.link.ports.getD p {}).live = true) →
      let t : State := { s with
        timers := { s.timers with occupancy := s.cycle }, disp := { s.disp with occupancy := (List.range 6).map (fun p => nbr.getD p 0), published := BitVec.ofNat 32 s.occupancyOf } }
      (s.disp.stealEn = false → exec (.occupancyPublish nbr) s = .next t) ∧
      (∀ p, s.disp.stealEn = true → s.occupancyOf < s.disp.lowMark.toNat → s.disp.stealPort = none → t.stealFrom = some p →
        ∃ u, exec (.occupancyPublish nbr) s = .next u ∧ u.disp.stealPort = some p ∧ u.link.out = s.link.out ++ [packet p .stealRequest] ∧
          u.cells = s.cells ∧ u.mem = s.mem)) ∧
    (∀ k t, s.disp.tasks = [(k, t)] → t.grantable = true → 0 < s.disp.stealMax.toNat → s.disp.highMark.toNat < s.occupancyOf →
      ∃ u, exec (.stealRequest port) s = .next u ∧
        u.task k = some { t with stolenTo := some (s.neighbour port), granted := true, wasStolen := true } ∧
        u.link.out = s.link.out ++ [packet port (.steal [⟨t.va, t.record.bytes, (s.taskKernel t).1, (s.taskKernel t).2⟩])]) ∧
    (∀ r : StolenRecord, s.disp.stealPort = some port → (s.context (recordOf r.bytes).ctxid).state = .active → s.disp.tasks = [] →
      ∃ u t, exec (.stealGrant port [r]) s = .next u ∧ u.disp.stealPort = none ∧ u.task s.disp.nextTask = some t ∧ t.state = .ready ∧
        t.record = recordOf r.bytes ∧ t.va = r.va ∧ t.stolenFrom = some (s.neighbour port) ∧ t.kernel = some (r.khdr, r.header) ∧ packet port (.stealAck r.va) ∈ u.link.out) ∧
    (∀ rec n t, s.grantedTask rec = some (n, t) →
      (∃ u, exec (.stealAck rec) s = .next u ∧ u.task n = some { t with granted := false, state := .dispatched }) ∧
      (t.cancelReq = false → ∃ u, exec (.stolenTaskReturn rec) s = .next u ∧
        u.task n = some { t with granted := false, stolenTo := none, wasStolen := false, state := .ready }))

/-- R40, R41, R348, R360, R409 to R411: messages of other modules about groups; landing packets arrive in a free slot, are served by the
task that waits for them or by an idle wicket, and leave when their destination has a credit; a wicket that runs alone is stopped
after 65,536 cycles.
Model's choices: notes/assumptions/27, notes/assumptions/41, notes/assumptions/81. -/
def Obligations.MessagesAndPackets : Prop :=
  (∀ (s : State) (src cell : Nat) (g : BitVec 32) (x : Group), s.homed g = true → s.group g = some x →
    (x.count ≠ BitVec.allOnes 48 → ∃ u, exec (.remoteGroupMessage src cell (.memberAdded g)) s = .next u ∧
      u.groupAt (gidSlot g) = { x with
        count := x.count + 1, state := if x.state = 2 then 0 else x.state, afar := store x.afar src ((look x.afar src).getD 0 + 1) }) ∧
    (x.count = BitVec.allOnes 48 → exec (.remoteGroupMessage src cell (.memberAdded g)) s = .next s) ∧
    (∃ u, exec (.remoteGroupMessage src cell (.err g)) s = .next u ∧ u.groupAt (gidSlot g) = { x with err := true }) ∧
    (x.terminal = false → ∃ u, exec (.remoteGroupMessage src cell (.wait g x.ctx)) s = .next u ∧
      u.groupAt (gidSlot g) = { x with waiters := x.waiters ++ [(src, cell)] })) ∧
  (∀ (s : State) (c : Nat) (v : DWord) (w : Unfinished) (q : BitVec 4) (d a : BitVec 5) (p : BitVec 1), c < s.cells.length →
    let x := s.cell c
    x.s.iss.wait.isSome = true → x.s.iss.unfinished.getLast? = some w → w.sent = true → w.value = none → w.instr = .gctlQuery q d a p →
    ∃ u, exec (.remoteGroupReply c v) s = .next u ∧ (u.cell c).s.iss.unfinished = x.s.iss.unfinished.dropLast ++ [{ w with value := some v }] ∧
      (u.cell c).s.regs = x.s.regs ∧ u.mem = s.mem ∧ u.disp = s.disp) ∧
  (∀ (s : State) (c : Nat) (p : Packet), c < 192 → c < s.cells.length → p.sender.toNat ≠ s.moduleNumber →
    let x := s.cell c
    (x.landingRoom = 0 → exec (.landingArrival c p) s = .next s) ∧
    (∀ k, x.res.fenced = false → x.landing.findIdx? Option.isNone = some k → ∃ u l, exec (.landingArrival c p) s = .next u ∧
      (u.cell c).landing.getD k none = some l ∧ l.packet = p ∧ l.held = false ∧ ∀ j, j ≠ k → (u.cell c).landing.getD j none = x.landing.getD j none)) ∧
  (∀ (s : State) (c k : Nat) (l : LandSlot), c < s.cells.length → (s.cell c).res.fenced = false → (s.cell c).waitingPackets = [(k, l)] →
    let x := s.cell c
    (∀ w, s.landingTask c l.packet = none → x.yieldsFor l.packet = false → s.mayStartWicket c l.packet = true →
      (x.wickets.findIdx? fun w => !w.running) = some w → ∃ u, exec (.landingServe c) s = .next u ∧
        let y := (u.cell c).wicket w
        y.running = true ∧ y.iss.pc = l.packet.handler ∧ y.ctx = l.packet.ctx ∧ y.packet = some k ∧
        y.regs = (((List.replicate 16 (0 : DWord)).set 1 (l.packet.tag.setWidth 64)).set 2 (BitVec.ofNat 64 l.packet.payload.length)).set 3
          (BitVec.ofNat 64 (l.packet.sender.toNat + 2 ^ 12 * l.packet.scell.toNat + 2 ^ 20 * l.packet.ctx.toNat)) ∧
        (x.loose = 0 → (∀ y ∈ x.wickets, y.ea = 0) → (u.cell c).s = x.s ∧ u.mem = s.mem)) ∧
    (∀ n t i, s.disp.tasks = [(n, t)] → t.state = .suspLand → t.lastCell = c → t.record.ctxid = l.packet.ctx → t.record.sinfo = l.packet.tag →
      t.image = some i → i.s.packet = none → ∃ u t', exec (.landingServe c) s = .next u ∧ u.task n = some t' ∧ t'.state = .ready ∧
        t'.image = some { i with s := { i.s with packet := some k } })) ∧
  (∀ (s : State) (c w : Nat), c < s.cells.length → w < (s.cell c).wickets.length →
    let k := (s.cell c).wicket w
    k.running = true → k.alone = true → k.start + 65536 < s.cycle → (s.cell c).dbg.holds = false → Claims.BoxTakes s →
    ∃ u, exec (.wicketOverrun c w) s = .next u ∧ ((u.cell c).wicket w).running = false ∧ Claims.Logged s u 0x0202) ∧
  (∀ (s : State) (c k dst dcell port : Nat) (p : Packet), c < s.cells.length → (s.cell c).c.landOut = some (dst, dcell, p) → dst ≠ s.moduleNumber →
    s.route dst = some port → s.routeHeld c dst port 2 = false →
    ∃ u, exec (.landingCredit c k false) s = .next u ∧ (u.cell c).c.landOut = none ∧ u.link.out = s.link.out ++
      [{ dst := dst, port := port, cell := c, agent := .stream .c, ctx := p.ctx, sentAt := s.cycle, payload := .landing dcell p }])

/-- R103, R104, R281, R406, R413: a peer store that its page permits is written by its arrival side and one that it does not is not; an
acknowledgement takes the store out of those outstanding; a packet is declared lost at the earliest 200 µs after its sending; a
chunk is kept for the cell.
Model's choices: notes/assumptions/4, notes/assumptions/88, notes/assumptions/116. -/
def Obligations.PeerEvents : Prop :=
  (∀ (s : State) (p : PeerStore), p.port < 6 → s.portHeld p.port = false → (s.link.ports.getD p.port {}).live = true → (p.size = 1 ∨ p.size = 2 ∨ p.size = 4 ∨ p.size = 8) →
    p.va % p.size = 0 →
    (∀ e, s.peerPlace p = .error e → exec (.peerStoreArrival p) s = .next s) ∧
    (∀ pa, s.peerPlace p = .ok pa → place pa = .hbm → absent pa = false → s.page.sluice = [] → s.mem.pend = [] → s.mem.poison = [] → s.mem.uncorr = [] →
      let d := agentDie (portAgent p.port).1
      d < s.mem.views.length → (s.mem.views.getD d []).wf = true →
      ∃ u, exec (.peerStoreArrival p) s = .next u ∧ u.cells = s.cells ∧ u.disp = s.disp ∧
        (∀ k, k < p.size → (u.mem.views.getD d []).read (pa + k) = p.data.extractLsb' (8 * k) 8) ∧
        ∀ a, (a < pa ∨ pa + p.size ≤ a) → (u.mem.views.getD d []).read a = (s.mem.views.getD d []).read a)) ∧
  (∀ (s : State) (k : Nat) (o : OutPacket), s.link.out[k]? = some o →
    (∀ va n v det, o.payload = .store va n v det → o.dst ≠ s.moduleNumber → o.launch = 0 →
      exec (.peerStoreAck k 0) s = .next { s with link := { s.link with out := s.link.out.eraseIdx k } }) ∧
    (s.cycle < o.sentAt + 600000 → exec (.packetLossDeclare k) s = .next s) ∧
    (o.sentAt + 600000 ≤ s.cycle → o.port < s.link.ports.length → (o.payload = .stealRequest ∨ ∃ q, o.payload = .chunk q) →
      ∃ u, exec (.packetLossDeclare k) s = .next u ∧ u.link.out = s.link.out.eraseIdx k ∧
        (u.port o.port).lostpk = (s.port o.port).lostpk + 1 ∧ (o.payload = .stealRequest → u.disp.stealPort = none) ∧ u.cells = s.cells ∧ u.mem = s.mem)) ∧
  (∀ (s : State) (c : Nat) (port : BitVec 3) (ctx : BitVec 16) (tag : BitVec 8) (l : List Line) (bad : List Nat), c < 192 → (s.link.ports.getD port.toNat {}).live = true →
    l ≠ [] → l.length ≤ 64 →
    exec (.collChunkArrival c port ctx tag l bad) s = .next (s.modCell c fun x => { x with c := { x.c with
      chunks := x.c.chunks ++ [⟨port, ctx, tag, l, bad.filter fun k => decide (k < 8 * l.length)⟩] } }))

/-! ### Commands of the host -/

/-- R291 to R294, R365, R399: the commands on contexts, with their results, and a host invalidation.
Model's choices: notes/assumptions/34, notes/assumptions/92. -/
def Obligations.ContextCommands : Prop :=
  ∀ (s : State) (ctx : BitVec 16), s.dev.mstate ≠ 2 → s.disp.ctxBusy = false →
    let k := s.context ctx
    let result := fun (i : Instr) (st : CtxState) => ∃ u, exec i s = .next u ∧ (u.context ctx).state = st ∧ u.disp.ctxResult = 0
    (∀ i, (i = .ctxCreate ctx ∨ i = .ctxDestroy ctx ∨ i = .ctxFault ctx ∨ i = .ctxResume ctx) →
      let b : State := { s with disp := { s.disp with ctxBusy := true } }
      exec i b = .next b) ∧
    (∀ v : DWord, s.allFree = true → exec (.ctxtblWrite v) s =
      .next { s with disp := { s.disp with ctxtbl := BitVec.ofNat 50 (v.toNat / 2 ^ 22 % 2 ^ 28 * 2 ^ 22), contexts := [] } }) ∧
    (∀ v : DWord, s.allFree = false → exec (.ctxtblWrite v) s = .next s) ∧
    (ctx = 0 → ∀ i, (i = .ctxCreate ctx ∨ i = .ctxDestroy ctx ∨ i = .ctxFault ctx ∨ i = .ctxResume ctx) →
      exec i s = .next { s with disp := { s.disp with ctxResult := 3 } }) ∧
    (ctx ≠ 0 →
      let d := s.readPa 0 (s.ctxEntry ctx) 64
      (k.state = .free → (d.bad.isSome = true ∨ ctxEntryBad d.bytes = true) →
        ∃ u, exec (.ctxCreate ctx) s = .next u ∧ u.disp = { s.disp with ctxResult := 2 } ∧ u.cells = s.cells) ∧
      (k.state = .free → d.bad = none → ctxEntryBad d.bytes = false →
        ∃ u, exec (.ctxCreate ctx) s = .next u ∧ u.context ctx = contextOf d.bytes ∧ u.disp.ctxResult = 0 ∧
          (∀ c, c ≠ ctx → u.context c = s.context c) ∧ ∀ n, n < 256 → u.barrier (ctx.toNat * 256 + n) = {}) ∧
      (k.state ≠ .free → exec (.ctxCreate ctx) s = .next { s with disp := { s.disp with ctxResult := 1 } }) ∧
      (k.state = .active ∨ k.state = .faulted → s.disp.queues = [] → s.disp.tasks = [] → s.page.sluice = [] → result (.ctxDestroy ctx) .destroyed) ∧
      (k.state = .active → result (.ctxFault ctx) .faulted) ∧
      (k.state ≠ .active → exec (.ctxFault ctx) s = .next { s with disp := { s.disp with ctxResult := 1 } }) ∧
      (k.state = .faulted → s.disp.tasks = [] → result (.ctxResume ctx) .active) ∧
      (k.state ≠ .faulted → exec (.ctxResume ctx) s = .next { s with disp := { s.disp with ctxResult := 1 } })) ∧
    (k.state = .destroyed → s.contextEmpty ctx = true → Claims.BoxTakes s →
      ∃ u, exec (.contextRelease ctx) s = .next u ∧ (u.context ctx).state = .free ∧ Claims.Logged s u 0x0204) ∧
    (∀ kind : BitVec 2, kind ≠ 3 → k.state = .active → s.page.pginv = none → s.mem.pend = [] → s.page.sluice = [] → s.disp.tasks = [] → s.cells.length = 192 →
      let r := invRange kind.toNat (sext52 s.page.pginvVa.toNat)
      s.usesRange allCells ctx r = false →
      ∃ u, exec (.pginvCmd ctx kind) s = .next u ∧ u.page.pginv = none ∧ u.mem = s.mem ∧ ∀ c, c < 192 → ∀ e ∈ (u.cell c).tlb, e.covered ctx r = false)

/-- R319, R322 to R324, R335, R350, R358, R359, R363: the commands on queues, groups and job starts, with their results.
Model's choices: notes/assumptions/85, notes/assumptions/86, notes/assumptions/92. -/
def Obligations.QueueAndGroupCommands : Prop :=
  ∀ (s : State) (q : BitVec 11), s.dev.mstate ≠ 2 → s.disp.qbusy = false → s.disp.cancels = [] → s.disp.farPut = none → s.disp.jsBusy = false →
    let x := s.queue q.toNat
    let result := fun (i : Instr) (st : BitVec 3) => ∃ u, exec i s = .next u ∧ (u.queue q.toNat).state = st ∧ u.disp.qresult = 0
    let refuses := fun (i : Instr) (n : BitVec 3) => exec i s = .next { s with disp := { s.disp with qresult := n } }
    (∀ v : DWord, exec (.qtblWrite v) s = .next { s with disp := { s.disp with qtbl := BitVec.ofNat 50 (v.toNat / 2 ^ 17 % 2 ^ 33 * 2 ^ 17), queues := [] } }) ∧
    (∀ i, (i = .queueCreate q ∨ i = .queueOpen q ∨ i = .queueClose q ∨ i = .queueDestroy q ∨ i = .queuePut q) →
      let b : State := { s with disp := { s.disp with qbusy := true } }
      exec i b = .next b) ∧
    (q = 0 → refuses (.queueCreate q) 3 ∧ refuses (.queueOpen q) 3 ∧ refuses (.queueClose q) 3 ∧ refuses (.queueDestroy q) 3 ∧ refuses (.queuePut q) 1) ∧
    (q ≠ 0 →
      (x.state ≠ 5 → refuses (.queueCreate q) 1) ∧ (x.state = 5 → s.queueOf q.toNat = none →
        ∃ u, exec (.queueCreate q) s = .next u ∧ u.disp = { s.disp with qresult := 2 } ∧ u.cells = s.cells) ∧
      (∀ y, x.state = 5 → s.queueOf q.toNat = some y → ∃ u, exec (.queueCreate q) s = .next u ∧ u.queue q.toNat = y ∧ u.disp.qresult = 0) ∧
      (x.state = 0 ∨ x.state = 3 → result (.queueOpen q) 1) ∧ (x.state ≠ 0 → x.state ≠ 3 → refuses (.queueOpen q) 1) ∧
      (x.state = 0 → result (.queueClose q) 3) ∧ (x.state = 1 → x.take = x.put → result (.queueClose q) 3) ∧
      (x.state = 1 → x.take ≠ x.put → result (.queueClose q) 2) ∧
      (x.state ≠ 5 → result (.queueDestroy q) 5) ∧ (x.state = 5 → refuses (.queueDestroy q) 1 ∧ refuses (.queuePut q) 1) ∧
      (∀ bs, let va := sext52 s.disp.qcmdArg.toNat
        x.state ≠ 5 → va % 64 = 0 → canonical va = true → s.dread x.ctx va 64 = .ok bs →
        let n := s.putStatus q.toNat (recordOf bs) none
        let far := s.homed (recordOf bs).launchid = false
        s.disp.portWaits = [] →
        (n ≠ 0 → refuses (.queuePut q) (BitVec.ofNat 3 n)) ∧
        (∀ t, n = 0 → ¬far → s.writeSlot q.toNat x.put.toNat va (recordOf bs).launchid = .ok t →
          ∃ u, exec (.queuePut q) s = .next u ∧ (u.queue q.toNat).put = x.put + 1 ∧ u.disp.qresult = 0) ∧
        (n = 0 → far → s.route (gidHome (recordOf bs).launchid) = none → refuses (.queuePut q) 4) ∧
        (∀ p, n = 0 → far → s.route (gidHome (recordOf bs).launchid) = some p →
          ∃ u, exec (.queuePut q) s = .next u ∧ u.disp.qbusy = true ∧ u.disp.farPut = some (q.toNat, va, bs) ∧ u.queue q.toNat = x ∧
            ∃ o ∈ u.link.out, o.dst = gidHome (recordOf bs).launchid ∧ o.port = p ∧ o.payload = .group (.enlist (recordOf bs).launchid)))) ∧
    (∀ v : DWord, s.groupsFree = true → exec (.gtblWrite v) s =
      .next { s with disp := { s.disp with gtbl := BitVec.ofNat 50 (v.toNat / 2 ^ 24 % 2 ^ 26 * 2 ^ 24), groups := [], lastSlot := 0 } }) ∧
    (∀ v : DWord, s.allFree = true → exec (.btblWrite v) s =
      .next { s with disp := { s.disp with btbl := BitVec.ofNat 50 (v.toNat / 2 ^ 29 % 2 ^ 21 * 2 ^ 29), barriers := [] } }) ∧
    (∀ slot : BitVec 18, let g := s.groupAt slot.toNat
      (g.terminal = true → g.parent = 0 → exec (.gfree slot) s = .next (s.setGroup slot.toNat { g with state := 7 })) ∧
      (g.terminal = false → exec (.gfree slot) s = .next s)) ∧
    (∀ (rec : BitVec 46) (ctx : BitVec 16) rb hb, let va := sext52 (rec.toNat * 64); let khdr := sext52 s.disp.jsKhdr.toNat
      let h : BitVec 512 := BitVec.ofNat 512 (leNat hb)
      let j := s.disp.jsQid.toNat
      s.disp.portWaits = [] → s.dread ctx va 64 = .ok rb → s.dread ctx khdr 64 = .ok hb →
      let kst := headerStatus h (s.context ctx).fsize
      let st := s.jobStatus j (recordOf rb)
      let ends := fun (t : State) (a b : Nat) => exec (.jobstart rec ctx) s = .next { t with disp := { t.disp with jsStat := BitVec.ofNat 3 a, jsKst := BitVec.ofNat 4 b, jsBusy := false } }
      (kst ≠ 0 → ends s 0 kst) ∧ (kst = 0 → st ≠ 0 → ends s st 0) ∧
      (∀ pa, kst = 0 → st = 0 → s.dplace (s.queue j).ctx ((s.queue j).slotVa (s.queue j).put.toNat) 16 { wr := true } = .ok pa →
        ends (s.startJob ctx va khdr (recordOf rb) h) 0 0))

/-! ### Events of the ports, the debugger and the device -/

/-- R401 to R403, R415 to R417, R419: the states of a torus port, time and its lock, and the host port's width.
Model's choices: notes/assumptions/4, notes/assumptions/16, notes/assumptions/35. -/
def Obligations.PortsAndTime : Prop :=
  ∀ (s : State) (p : Nat), p < 6 → s.link.ports.length = 6 →
    let x := s.port p
    let goes := fun (i : Instr) (st : BitVec 3) => ∃ u, exec i s = .next u ∧ (u.port p).state = st ∧ u.mem = s.mem ∧ u.disp = s.disp ∧
      (st ≠ 0 → u.cells = s.cells) ∧ (u.cells = s.cells ∨ u.cells = s.cells.map fun x => x.collLost p) ∧ ∀ j, j ≠ p → u.port j = s.port j
    (∀ v : DWord, s.dev.mstate ≠ 2 →
      (v.getLsbD 0 = false → goes (.portControlWrite p v) 0) ∧ (v.getLsbD 0 = true → x.state = 4 → goes (.portControlWrite p v) 1) ∧
      (v.getLsbD 0 = true → v.getLsbD 1 = false → x.state = 3 → goes (.portControlWrite p v) 2) ∧
      (v.getLsbD 0 = true → x.state.toNat < 3 → goes (.portControlWrite p v) x.state)) ∧
    (x.state = 0 → x.en = true → s.coordinatesOk = true → goes (.portPartnerDetect p) 1) ∧ (x.en = false → exec (.portPartnerDetect p) s = .next s) ∧
    (x.state = 1 → s.cycle ≤ x.since + 30000000 → goes (.portTrained p true) 2 ∧ goes (.portTrained p false) 4) ∧
    (x.state = 1 → x.since + 30000000 ≤ s.cycle → goes (.portTrainingTimeout p) 0) ∧
    (x.state = 2 → x.detreq = true → goes (.portCalibration p true) 3) ∧ (x.state = 3 → goes (.portCalibration p false) 2) ∧
    (2 ≤ x.state.toNat → goes (.portLaneFailure p) 1 ∧ goes (.portSignalLoss p) 0) ∧
    exec (.flitCrcFail p) s = .next s ∧
    (∀ (offset rate : Int) (bound : Word), s.link.tsEn = true → x.live = true →
      (10000 < offset.natAbs → ∃ u, exec (.syncMessage p offset rate bound) s = .next u ∧ u.link.time = s.link.time + BitVec.ofInt 96 (offset * 2 ^ 32) ∧
        u.link.stepped = true ∧ u.link.lock = false ∧ u.link.skewbound = 0xFFFFFFFF) ∧
      (offset.natAbs ≤ 10000 → s.link.lock = true → ∃ u, exec (.syncMessage p offset rate bound) s = .next u ∧ u.link.time = s.link.time ∧
        u.link.lock = true ∧ u.link.skewbound = BitVec.ofNat 32 (2 * bound.toNat)) ∧
      (4 * offset.natAbs ≤ bound.toNat → offset.natAbs ≤ 10000 → s.link.syncGood = 15 → ∃ u, exec (.syncMessage p offset rate bound) s = .next u ∧
        u.link.lock = true)) ∧
    (∃ u, exec .lockTimeout s = .next u ∧ u.link.lock = false ∧ u.link.skewbound = 0xFFFFFFFF ∧ u.link.time = s.link.time) ∧
    (∀ w, (w = 8 ∨ w = 4) → w < s.dev.hostWidth → exec (.hostPortLaneFailure w) s = .next { s with dev := { s.dev with hostWidth := w } })

/-- R430 to R434, R438: halting, stopping, stepping and resuming a cell, a breakpoint, and a sample.
Model's choices: notes/assumptions/59, notes/assumptions/87. -/
def Obligations.DebugEvents : Prop :=
  ∀ (s : State) (c : Nat), c < 192 → c < s.cells.length →
    let x := s.cell c; let d := x.dbg
    (d.why ≠ 4 → d.stopped = false → d.stopping = none → ∃ u, exec (.cellHalt c) s = .next u ∧ (u.cell c).dbg.halt = true ∧
      (u.cell c).dbg.stopping = some 1 ∧ (u.cell c).s = x.s ∧ u.mem = s.mem ∧ u.disp = s.disp) ∧
    (∀ w, d.stopping = some w → (∀ ag ∈ issuers, ∀ u ∈ (x.issue ag).unfinished, u.passes = false) →
      ∃ u, exec (.cellStopComplete c) s = .next u ∧ (u.cell c).dbg.stopped = true ∧ (u.cell c).dbg.why = w ∧ (u.cell c).dbg.stopping = none ∧
        (u.cell c).s.regs = x.s.regs ∧ (u.cell c).v = x.v ∧ (u.cell c).pad = x.pad ∧ u.mem = s.mem) ∧
    (d.stopped = true → d.why ≠ 4 → ∃ u, exec (.cellResume c) s = .next u ∧ (u.cell c).dbg.stopped = false ∧ (u.cell c).dbg.why = 0 ∧
      (u.cell c).s = x.s ∧ (u.cell c).v = x.v ∧ u.mem = s.mem) ∧
    (d.stopped = true → d.why = 4 → ∃ u, exec (.cellResume c) s = .next u ∧ (u.cell c).dbg.stopped = true) ∧
    (∀ st, d.stopped = true → d.why ≠ 4 → d.stepping = none → ∃ u, exec (.cellStep c st) s = .next u ∧ u.agenda = .agent c (.stream st) :: s.agenda ∧
      (u.cell c).dbg.stepping = some st ∧ (u.cell c).s = x.s ∧ u.mem = s.mem) ∧
    (∀ n, n < 4 → x.breakpoint .s = some n → x.breakpoint .v = none → x.breakpoint .m = none → x.breakpoint .c = none →
      ∃ u, exec (.breakpointMatch c) s = .next u ∧ (u.cell c).dbg.stopping = some 2 ∧ (u.cell c).dbg.bnum = BitVec.ofNat 2 n ∧ (u.cell c).dbg.bstrm = 0 ∧
        u.dev.vectors = s.dev.vectors ++ [1] ∧ (u.cell c).s = x.s) ∧
    (d.smpPer ≠ 0 → d.smpAt + 1024 * d.smpPer.toNat ≤ s.cycle → d.holds = false → x.res.image = .active → x.res.task.isSome = true →
      ∃ u, exec (.sampleLatch c) s = .next u ∧ (u.cell c).dbg.smp = [x.s.iss.nextPc, x.headPos .v, x.headPos .m, x.headPos .c] ∧
        (u.cell c).dbg.smpCnt = d.smpCnt + 1 ∧ (u.cell c).s = x.s)

/-- R425 to R429, R439 to R442: fenced cells, the module halt, errors, and the black box: a record of each event while it is not frozen.
Model's choices: notes/assumptions/38, notes/assumptions/89, notes/assumptions/90, notes/assumptions/115. -/
def Obligations.FaultsAndBlackBox : Prop :=
  (∀ (s : State) (code : Nat) (src : Src) (ctx : BitVec 16) (a b : Nat), let u := s.event code src ctx a b
    let rising := fun (t : State) => ((Claims.freshRecords t).map BbRecord.rank).Pairwise fun x y => y ≤ x
    (s.bb.frozen = true → u.bb.lost = s.bb.lost + 1 ∧ u.bb.records = s.bb.records ∧ u.bb.seq = s.bb.seq) ∧
    (s.bb.frozen = false → u.bb.seq = s.bb.seq + 1 ∧ (s.bb.fresh < 4000 → Claims.Logged s u (BitVec.ofNat 16 code) ∧ (rising s → rising u)) ∧
      (s.bb.lastAt ≠ s.cycle → ∃ r, u.bb.records = (r :: s.bb.records).take 4096 ∧ r.code = BitVec.ofNat 16 code ∧ r.seq = s.bb.seq ∧
        r.time = s.time ∧ r.ctx = ctx ∧ r.info = BitVec.ofNat 64 a ∧ r.info2 = BitVec.ofNat 32 b))) ∧
  (∀ (s : State) (structure_ : DWord), Claims.BoxTakes s →
    let newest := Claims.Logged s
    (∀ c, c < 192 → c < s.cells.length → (s.cell c).res.fenced = false → (s.cell c).res.task = none →
      ∃ u, exec (.cellFence c structure_) s = .next u ∧ (u.cell c).res.fenced = true ∧ (u.cell c).res.image = .none ∧
        (∀ w ∈ (u.cell c).wickets, w.running = false) ∧ u.dev.degr = true ∧ newest u 0x0401 ∧ u.mem = s.mem) ∧
    (∀ die, s.dev.halted = false → (∀ k ∈ s.disp.contexts, k.2.state ≠ .active) →
      ∃ u, exec (.moduleHalt structure_ die) s = .next u ∧ u.dev.halted = true ∧ u.dev.mstate = 2 ∧ newest u 0x0402 ∧
        ∀ c, c < s.cells.length → if issuers.any (fun ag => ((s.cell c).issue ag).unfinished.any Unfinished.passes) then (u.cell c).dbg.stopping = some 4
          else (u.cell c).dbg.stopped = true ∧ (u.cell c).dbg.why = 4) ∧
    (∀ die, die < 4 → let now := s.cycle / 3000000 + 1
      (s.timers.correctable.getD die 0 = now → exec (.correctableError die) s =
        .next { s with dev := { s.dev with ceCounts := s.dev.ceCounts.set die (s.dev.ceCounts.getD die 0 + 1) } }) ∧
      (s.timers.correctable.getD die 0 ≠ now → ∃ u, exec (.correctableError die) s = .next u ∧ newest u 0x0104)) ∧
    (∀ pa, ∃ u, exec (.uncorrectableDataError (.dram pa)) s = .next u ∧ u.mem.uncorr = s.mem.uncorr ++ [.dram pa] ∧ newest u 0x0103) ∧
    (∀ c e, c < s.cells.length → e < (s.cell c).c.banks.length → ∃ u, exec (.uncorrectableDataError (.codebook c e)) s = .next u ∧
      ((u.cell c).c.banks.getD e (0, true)).2 = false ∧ newest u 0x0105)) ∧
  (∀ s : State, exec .blackBoxFreeze s = .next { s with bb := { s.bb with freeze := true, frozen := true } } ∧
    exec .blackBoxUnfreeze s = .next { s with bb := { s.bb with freeze := false, frozen := false, lost := 0 } } ∧
    ∀ v r, (s.bb.records.find? fun r => r.seq.toNat % 4096 = v.toNat) = some r →
      exec (.bbRidx v) s = .next { s with bb := { s.bb with ridx := v, data := r.data } })

/-- R20, R440, R445 to R456: power-on, resets, attestation, temperatures and clocks, and writes of registers.
Model's choices: notes/assumptions/4, notes/assumptions/36, notes/assumptions/91. -/
def Obligations.DeviceEvents : Prop :=
  (∀ (s : State) (t : SelfTest), t.badSteps = 0 → t.badCells = [] →
    let starts := fun (u : State) => u.dev.mstate = (if t.imageVersion < s.dev.fusedMin then 2 else 1) ∧ u.disp = State.reset.disp ∧ u.mem = State.reset.mem ∧
      u.dev.fusedMin = s.dev.fusedMin ∧ ∀ c, c < 192 → (u.cell c).res.fenced = false ∧ (u.cell c).s = ({} : Cell).s
    (∃ u, exec (.powerOn t) s = .next u ∧ starts u ∧ u.dev.warm = false) ∧
    (∃ u, exec (.rstcmd 0x5A t) s = .next u ∧ starts u ∧ u.dev.warm = true ∧ u.dev.hostWidth = s.dev.hostWidth) ∧
    (∀ v, v ≠ 0x5A → exec (.rstcmd v t) s = .next s)) ∧
  (∀ s : State, let d := s.dev
    (∃ u, exec .powerLoss s = .next u ∧ u.mem = State.reset.mem ∧ u.bb = State.reset.bb ∧ u.cells = State.reset.cells ∧ u.dev.fusedMin = d.fusedMin) ∧
    (d.attBusy = false → ∃ u, exec .attGo s = .next u ∧ u.dev.attBusy = true ∧ u.dev.attDone = false ∧ u.dev.report.length = 168 ∧
      u.dev.report.take 32 = leBytes 32 d.attNonce.toNat) ∧
    (d.attBusy = true → exec .attGo s = .next s ∧
      exec .attestationSignComplete s = .next { s with dev := { d with attBusy := false, attDone := true } }) ∧
    (∀ g, exec (.configBlockAccept g) s = .next { s with dev := { d with meas := [d.meas.getD 0 0, extend (d.meas.getD 1 0) g] } }) ∧
    (d.postUnits.getLsbD 2 = false → d.mstate ≠ 0 →
      exec .fusedMinimumRaise s = .next { s with dev := { d with fusedMin := if d.fusedMin < d.imageVersion then d.imageVersion else d.fusedMin } }) ∧
    (∀ die tj w, die < 4 → d.tpoint.length = 4 → s.timers.thermal.getD die 0 + 30000 ≤ s.cycle → d.tpoint.getD die 0 = 0 →
      let T := (hottest ((List.range 8).map fun k => tj.getD k 0)).1
      ∃ u, exec (.thermalSensorUpdate die tj w) s = .next u ∧ (1920 ≤ T → u.dev.halted = true) ∧
        u.dev.tpoint.getD die 0 = if 1920 ≤ T then 4 else if 1792 ≤ T then 3 else if 1680 ≤ T then 2 else if 1600 ≤ T then 1 else 0) ∧
    (∀ die, die < 4 → d.clkpct.length = 4 → s.timers.clock.getD die 0 + 300000 ≤ s.cycle →
      let p := (d.clkpct.getD die 100).toNat
      ∃ u, exec (.clockStep die) s = .next u ∧ u.link.time = s.link.time ∧ u.dev.clkpct.getD die 0 =
        BitVec.ofNat 7 (if 2 ≤ (d.tpoint.getD die 0).toNat then max 50 (p - 5) else min 100 (p + 5))) ∧
    (∀ k (T : BitVec 12), k < 12 → d.rfx.length = 16 → d.rfx.getD k 0 = 0 → ∃ u, exec (.hbmTempUpdate k T) s = .next u ∧
      u.dev.rfx.getD k 0 = if 1680 < T.toInt then 3 else if 1520 < T.toInt then 2 else if 1360 < T.toInt then 1 else 0) ∧
    (∀ a b : BitVec 12, a.toInt < 936 ∨ 936 ≤ d.inlet.toInt → exec (.coolantSample a b) s = .next { s with dev := { d with inlet := a, outlet := b } }) ∧
    (∀ a b : BitVec 12, 936 ≤ a.toInt → d.inlet.toInt < 936 → Claims.BoxTakes s → ∃ u, exec (.coolantSample a b) s = .next u ∧ u.dev.inlet = a ∧
      u.dev.outlet = b ∧ Claims.Logged s u 0x0501) ∧
    (∀ v : DWord, (d.mstate ≠ 2 → exec (.registerWrite (.mgmtReg 0x0140) v) s = .next { s with disp := { s.disp with
        ageStep := if v.toNat % 2 ^ 24 < 1024 then 1024 else v.extractLsb' 0 24 } }) ∧
      (d.mstate = 2 → exec (.registerWrite (.mgmtReg 0x0140) v) s = .next s) ∧
      ∀ c, c < 192 → (s.cell c).res.fenced = false → exec (.registerWrite (.cellReg c 0xF01010) v) s =
        .next (s.modCell c fun x => { x with trap := { x.trap with tfSpc := v } })))

/-! ### The whole machine -/

/-- Words that the specification prints beside their fields, and the instructions they stand for (R108 to R112, R138). -/
def Obligations.DecodedWords : Prop :=
  let s := fun (w : Word) (i : Instr) => decode .s w 0 = .instr i
  let v := fun (w : Word) (i : Instr) => decode .v w 0 = .instr i
  let m := fun (w x : Word) (i : Instr) => decode .m w x = .instr i
  let c := fun (w x : Word) (i : Instr) => decode .c w x = .instr i
  s 0x06032064 (.addImm 0 3 4 100) ∧ s 0x094531C0 (.sub 10 5 6 7 0) ∧ s 0x04000000 (.add 0 0 0 0 0) ∧ s 0x41814C03 (.ld 3 0 5 6 3) ∧
  s 0x4D33A121 (.cas 4 3 7 8 9 1) ∧ s 0x5C297FFB (.loops 10 11 0x1FFB) ∧ s 0x64007004 (.tsig 0 3 1 4) ∧ s 0x70210000 (.fence 0 8 4 0) ∧
  s 0x78030010 (.rdsys 0 3 16) ∧ s 0x9004380C (.qput 0 4 7 12) ∧ s 0x9805001E (.etruncImm 0 5 3 2) ∧ s 0xB4003813 (.invpg 0 7 1 3) ∧
  s 0xB80531C6 (.pstf 0 5 6 7 1 2) ∧
  v 0x04031050 (.vadd 0 3 4 5 0) ∧ v 0x124824A5 (.vfma 9 8 9 10 5) ∧ v 0x4C010419 (.vld 0 1 2 3 1) ∧ v 0x70043FFB (.loopv 4 1 0x1FFB) ∧
  v 0x781080C0 (.vpupdSgd 1 2 3) ∧ v 0x8C183B00 (.vshut 0 6 7 3) ∧
  m 0x04400005 0 (.mzero 2 5) ∧ m 0x0884120B 0 (.mma 4 0 0x104 0x105 1) ∧ m 0x1900180E 0 (.mrsum 8 6 7 0) ∧ m 0x24010217 0 (.mloop 2 4 1 7) ∧
  m 0x22000003 0x00400008 (.mcfg 0 3 { mode := 1, split := 8, levee := 0 }) ∧
  c 0x05103028 0 (.copy 8 0x103 5 0) ∧ c 0x06C09011 0x08802407 (.copyF 6 9 2 0 0x08802407) ∧ c 0x1F100000 0x01010101 (.fill 8 0x100 0x01010101) ∧
  c 0x2C006000 0 (.cbar 0 3 0 0) ∧ c 0x40000000 0 (.cend 0) ∧
  decode .s 0 0 = .reject .unassigned ∧ decode .v 0xC0000000 0 = .reject .unassigned

/-- R108 to R112, R261: decoding the words of a well-formed instruction gives it back, with every operand at every value. -/
def Obligations.DecodeEncode : Prop :=
  ∀ i : Instr, i.wellFormed = true → encode i ≠ [] →
    ∃ st, decode st ((encode i).getD 0 0) ((encode i).getD 1 0) = .instr i ∧ (hasExtension st ((encode i).getD 0 0) = true ↔ (encode i).length = 2)

/-- A step runs the decoded instruction: of S at its program counter, of an engine at the head of its queue, or the event that
comes next; what the step adds is the end of a debug step and of the passing of a breakpoint (`afterMove`), and with nothing on
the agenda a cycle before the instruction (`turn`) and the counting of it after (`countTurn`).
Model's choices: notes/assumptions/3. -/
def Obligations.StepRunsDecoded : Prop :=
  let after := fun (c : Nat) (ag : Agent) (s : State) (o : Host.Outcome State Fault Refusal) =>
    match o with
    | .next u => .next (u.afterMove c ag s)
    | .fault r => .fault r
    | .refused r => .refused r
  let runs := fun (s : State) (c : Nat) (ag : Agent) (i : Instr) (t : State) => s.mayRun c ag = true ∧
    ((ag = .stream .s ∧ (s.cell c).breakpoint .s = none ∧ (s.cell c).s.iss.wait = none ∧ (s.cell c).s.iss.replay = [] ∧ (s.cell c).s.iss.blocked = false ∧
        (s.cell c).s.iss.acquires = false ∧ (s.cell c).s.iss.fetchSince = none ∧
        ∃ w, s.fetchWord c (s.cell c).s.iss.pc (s.whoOf c ag) none = .ok (t, w) ∧ decode .s w 0 = .instr i) ∨
      (∃ st h, st ≠ .s ∧ ag = .stream st ∧ (s.cell c).breakpoint st = none ∧ (s.cell c).head st = some h ∧ decode st h.word h.ext = .instr i ∧ t = s))
  ∀ (s : State),
    (∀ c ag r i t, s.agenda = .agent c ag :: r → let u := (({ s with agenda := r } : State).inOrder c ag).aim c ag
      runs u c ag i t → step s = after c ag u (exec i t)) ∧
    (∀ e r, s.agenda = .event e :: r → encode e = [] → step s = exec e { s with agenda := r }) ∧
    (∀ i t u, s.agenda = [] → s.focus.1 < 192 → s.stalled = false → runs s.turn s.focus.1 s.focus.2 i t → exec i t = .next u →
      step s = .next ((u.afterMove s.focus.1 s.focus.2 s.turn).countTurn s.focus.1 s.focus.2 s.turn)) ∧
    (s.agenda = [] → 192 ≤ s.focus.1 → step s = .fault .noSuchCell)

/-- R4, R445: what reset leaves: registers at 0 (those without a stated reset value by notes/assumptions/1), shutters FREE, no task, no
context, ports DOWN, clocks at full speed, `TIME` at 0; and the invariant of every step holds.
Model's choices: notes/assumptions/1, notes/assumptions/2. -/
def Obligations.ResetState : Prop :=
  State.reset.cells.length = 192 ∧ State.reset.Sound ∧ State.reset.dev.mstate = 0 ∧ State.reset.disp.contexts = [] ∧ State.reset.disp.tasks = [] ∧
  State.reset.mem.views = [[], [], [], []] ∧ State.reset.link.time = 0 ∧ State.reset.link.skewbound = 0xFFFFFFFF ∧
  (∀ p, p < 6 → (State.reset.port p).state = 0) ∧ State.reset.disp.ageStep = 65536 ∧ State.reset.disp.stealMax = 16 ∧
  ∀ c, c < 192 → let x := State.reset.cell c
    x.res.image = .none ∧ (∀ t, t < 128 → x.shutter t = 5) ∧ (∀ r, x.reg (.stream .s) r = 0) ∧ x.m.det = true ∧ x.m.levee = 64 ∧ x.pad = []

/-- Every step keeps the machine's shape: 192 cells, 48 quads, four views, and each memory in its canonical form, so that equal memories
are equal data.
Model's choices: notes/assumptions/2. -/
def Obligations.StepKeepsSound : Prop := ∀ s t : State, s.Sound → step s = .next t → t.Sound
end

