-- ==== Sys2Proof/Laws/Decode.lean ====
section
/-! SUPPORT. Fields of an encoded word: a field reads what was put there, and a put elsewhere leaves it alone. -/

namespace Sys2Proof

theorem fld_zero (lo n : Nat) : fld 0#32 lo n = 0#n := by
  ext i hi
  simp [fld]

theorem fld_put_ne {n m : Nat} (w : Word) (lo : Nat) (x : BitVec n) (lo' : Nat) (h : lo' + m ≤ lo ∨ lo + n ≤ lo') :
    fld (put w lo x) lo' m = fld w lo' m := by
  ext i hi
  simp [fld, put]
  intro h1 h2
  rcases h with h | h
  · omega
  · have : x.getLsbD (lo' + i - lo) = false := BitVec.getLsbD_of_ge _ _ (by omega)
    simp [this]

theorem fld_put_eq {n : Nat} (w : Word) (lo : Nat) (x : BitVec n) (h : fld w lo n = 0#n) (h2 : lo + n ≤ 32) :
    fld (put w lo x) lo n = x := by
  ext i hi
  have h4 : w.getLsbD (lo + i) = false := by
    have h5 := congrArg (fun z => z.getLsbD i) h
    simpa [fld, hi] using h5
  have h6 : lo + i < 32 := by omega
  have h7 : ¬ lo + i < lo := by omega
  rw [BitVec.getLsbD_eq_getElem h6] at h4
  simp [fld, put, h4, h6, h7, BitVec.getLsbD_eq_getElem hi]

end Sys2Proof
end

