-- ==== Sys2Proof/Laws/Memory.lean ====
section
/-! SUPPORT. Memory: the canonical form is kept by every operation, a read after a write gives what was written, and a
write leaves every other byte alone; objects kept by number. -/

namespace Sys2Proof.Machine

theorem Memory.wf_cons {k : Nat} {v : Byte} {r : Memory} :
    Memory.wf ((k, v) :: r) = true ↔ v ≠ 0 ∧ (∀ c ∈ r, k < c.1) ∧ Memory.wf r = true := by
  simp only [Memory.wf, Bool.and_eq_true, decide_eq_true_eq, List.all_eq_true, and_assoc]

theorem Memory.read_low {m : Memory} {a : Nat} (h : ∀ c ∈ m, a < c.1) : Memory.read m a = 0 := by
  induction m with
  | nil => rfl
  | cons p r ih =>
    have := h p (List.mem_cons_self ..)
    simp only [Memory.read]
    rw [if_neg (by omega), ih fun c hc => h c (List.mem_cons_of_mem _ hc)]

theorem Memory.mem_write {m : Memory} {a : Nat} {b : Byte} {c : Host.Cell} (h : c ∈ m.write a b) : c = (a, b) ∨ c ∈ m := by
  induction m with
  | nil => simp only [Memory.write] at h; split at h <;> simp_all
  | cons p r ih =>
    obtain ⟨k, v⟩ := p
    simp only [Memory.write] at h
    split at h
    · split at h
      · exact .inr h
      · rcases List.mem_cons.mp h with h | h
        · exact .inl h
        · exact .inr h
    · split at h
      · split at h
        · exact .inr (List.mem_cons_of_mem _ h)
        · rcases List.mem_cons.mp h with h | h
          · exact .inl h
          · exact .inr (List.mem_cons_of_mem _ h)
      · rcases List.mem_cons.mp h with h | h
        · exact .inr (h ▸ List.mem_cons_self ..)
        · rcases ih h with h | h
          · exact .inl h
          · exact .inr (List.mem_cons_of_mem _ h)

/-- A write keeps the canonical form. -/
theorem Memory.wf_write {m : Memory} (a : Nat) (b : Byte) (h : m.wf = true) : (m.write a b).wf = true := by
  induction m with
  | nil =>
    simp only [Memory.write]
    split
    · rfl
    · next hb => exact Memory.wf_cons.mpr ⟨hb, by simp, rfl⟩
  | cons p r ih =>
    obtain ⟨k, v⟩ := p
    obtain ⟨hv, hr, hw⟩ := Memory.wf_cons.mp h
    simp only [Memory.write]
    split
    · next hlt =>
      split
      · exact h
      · next hb =>
        refine Memory.wf_cons.mpr ⟨hb, fun c hc => ?_, h⟩
        rcases List.mem_cons.mp hc with rfl | hc
        · exact hlt
        · exact Nat.lt_trans hlt (hr c hc)
    · split
      · next heq =>
        subst heq
        split
        · exact hw
        · next hb => exact Memory.wf_cons.mpr ⟨hb, hr, hw⟩
      · next h1 h2 =>
        refine Memory.wf_cons.mpr ⟨hv, fun c hc => ?_, ih hw⟩
        rcases Memory.mem_write hc with rfl | hc
        · show k < a; omega
        · exact hr c hc

/-- A byte reads as it was last written, and a write changes no other byte. -/
theorem Memory.read_write {m : Memory} (a : Nat) (b : Byte) (j : Nat) (h : m.wf = true) :
    (m.write a b).read j = if j = a then b else m.read j := by
  induction m with
  | nil =>
    simp only [Memory.write]
    split
    · next hb => simp [Memory.read, hb]
    · simp only [Memory.read]; split <;> split <;> simp_all
  | cons p r ih =>
    obtain ⟨k, v⟩ := p
    obtain ⟨hv, hr, hw⟩ := Memory.wf_cons.mp h
    have ih := ih hw
    simp only [Memory.write]
    split
    · next hlt =>
      split
      · next hb =>
        split
        · next hj =>
          subst hj
          rw [hb]
          refine Memory.read_low fun c hc => ?_
          rcases List.mem_cons.mp hc with rfl | hc
          · exact hlt
          · exact Nat.lt_trans hlt (hr c hc)
        · rfl
      · rw [Memory.read]
        by_cases hj : j = a
        · simp [hj]
        · rw [if_neg (by omega), if_neg hj]
    · split
      · next heq =>
        subst heq
        split
        · next hb =>
          by_cases hj : j = a
          · simp only [hj, if_true, hb]
            exact Memory.read_low hr
          · simp [Memory.read, hj, Ne.symm hj]
        · by_cases hj : j = a
          · simp [Memory.read, hj]
          · simp [Memory.read, hj, Ne.symm hj]
      · next h1 h2 =>
        simp only [Memory.read]
        by_cases hk : k = j
        · rw [if_pos hk, if_pos hk, if_neg (by omega)]
        · rw [if_neg hk, if_neg hk, ih]

theorem Memory.wf_writeN {m : Memory} (a : Nat) (bs : List Byte) (h : m.wf = true) : (m.writeN a bs).wf = true := by
  induction bs generalizing m a with
  | nil => exact h
  | cons b r ih => exact ih (a + 1) (Memory.wf_write a b h)

/-- Every byte of a write reads as written, and every other as before. -/
theorem Memory.read_writeN {m : Memory} (a : Nat) (bs : List Byte) (j : Nat) (h : m.wf = true) :
    (m.writeN a bs).read j = if a ≤ j ∧ j < a + bs.length then bs.getD (j - a) 0 else m.read j := by
  induction bs generalizing m a with
  | nil => rw [if_neg (by simp only [List.length_nil]; omega)]; rfl
  | cons b r ih =>
    rw [Memory.writeN, ih (a + 1) (Memory.wf_write a b h), Memory.read_write a b j h]
    simp only [List.length_cons]
    by_cases hj : j = a
    · subst hj
      rw [if_neg (by omega), if_pos rfl, if_pos (by omega)]
      simp
    · rw [if_neg hj]
      by_cases hr : a + 1 ≤ j ∧ j < a + 1 + r.length
      · rw [if_pos hr, if_pos (by omega)]
        have : j - a = (j - (a + 1)) + 1 := by omega
        rw [this, List.getD_cons_succ]
      · rw [if_neg hr, if_neg (by omega)]

theorem Memory.wf_clear {m : Memory} (a n : Nat) (h : m.wf = true) : (m.clear a n).wf = true := by
  unfold Memory.clear
  induction m with
  | nil => rfl
  | cons p r ih =>
    obtain ⟨k, v⟩ := p
    obtain ⟨hv, hr, hw⟩ := Memory.wf_cons.mp h
    rw [List.filter_cons]
    split
    · exact Memory.wf_cons.mpr ⟨hv, fun c hc => hr c (List.mem_filter.mp hc).1, ih hw⟩
    · exact ih hw

/-! ### The views of the dies -/

/-- Every view has the canonical form. -/
def MemUnit.wf (m : MemUnit) : Prop := ∀ v ∈ m.views, v.wf = true

theorem mem_modAt {α : Type} {l : List α} {k : Nat} {f : α → α} {y : α} (h : y ∈ modAt l k f) : y ∈ l ∨ ∃ x ∈ l, y = f x := by
  induction l generalizing k with
  | nil => simp [modAt] at h
  | cons a r ih =>
    cases k with
    | zero =>
      rcases List.mem_cons.mp h with h | h
      · exact .inr ⟨a, by simp, h⟩
      · exact .inl (by simp [h])
    | succ k =>
      rcases List.mem_cons.mp h with h | h
      · exact .inl (by simp [h])
      · rcases ih h with h | ⟨x, hx, h⟩
        · exact .inl (by simp [h])
        · exact .inr ⟨x, by simp [hx], h⟩

theorem Memory.wf_put {m : Memory} (p : Part) (h : m.wf = true) : (m.put p).wf = true := Memory.wf_writeN _ _ h

/-- A part without a mask is its bytes; what lies outside it stays. -/
theorem Memory.read_put {m : Memory} {p : Part} (j : Nat) (h : m.wf = true) (hp : p.mask = []) :
    (m.put p).read j = if p.addr ≤ j ∧ j < p.addr + p.bytes.length then p.bytes.getD (j - p.addr) 0 else m.read j := by
  simp only [Memory.put, hp, List.isEmpty_nil, if_true]
  exact Memory.read_writeN _ _ j h

theorem Memory.wf_putAll {m : Memory} (ps : List Part) (h : m.wf = true) : (m.putAll ps).wf = true := by
  unfold Memory.putAll
  induction ps generalizing m with
  | nil => exact h
  | cons p r ih => exact ih (Memory.wf_put p h)

theorem wf_modAt {l : List Memory} (k : Nat) (ps : List Part) (h : ∀ v ∈ l, Memory.wf v = true) :
    ∀ v ∈ modAt l k fun v => v.putAll ps, Memory.wf v = true := by
  intro v hv
  rcases mem_modAt hv with hv | ⟨x, hx, rfl⟩
  · exact h v hv
  · exact Memory.wf_putAll ps (h x hx)

@[simp] theorem modAt_length {α : Type} (l : List α) (k : Nat) (f : α → α) : (modAt l k f).length = l.length := by
  induction l generalizing k with
  | nil => rfl
  | cons a r ih => cases k <;> simp [modAt, ih]

theorem MemUnit.wf_apply {m : MemUnit} (w : CrossWrite) (h : m.wf) : (m.apply w).wf := wf_modAt w.dst w.parts h

theorem MemUnit.wf_applyAll {m : MemUnit} (l : List CrossWrite) (h : m.wf) : (l.foldl MemUnit.apply m).wf := by
  induction l generalizing m with
  | nil => exact h
  | cons w r ih => exact ih (MemUnit.wf_apply w h)

theorem MemUnit.wf_flush {m : MemUnit} (d : Nat) (h : m.wf) : (m.flush d).wf := MemUnit.wf_applyAll _ h

/-- A write by an agent of a die keeps the canonical form of every view. -/
theorem MemUnit.wf_writeParts {m : MemUnit} (d : Nat) (ag : Nat × Agent) (ps : List Part) (h : m.wf) : (m.writeParts d ag ps).wf := by
  unfold MemUnit.writeParts
  simp only
  split
  · exact wf_modAt d ps (MemUnit.wf_flush d h)
  · exact wf_modAt d ps h

/-- An ordinary write, piece by piece, keeps it too. -/
theorem MemUnit.wf_write' {m : MemUnit} (d : Nat) (ag : Nat × Agent) (p : Part) (h : m.wf) : (m.write d ag p).wf := by
  unfold MemUnit.write
  generalize piecesOf _ p = l
  induction l generalizing m with
  | nil => exact h
  | cons q r ih => exact ih (MemUnit.wf_writeParts d ag [q] h)

theorem MemUnit.wf_mark {m : MemUnit} (l : List Nat) (h : m.wf) : (m.mark l).wf := h

theorem MemUnit.wf_unmark {m : MemUnit} (pa n : Nat) (h : m.wf) : (m.unmark pa n).wf := by
  unfold MemUnit.unmark
  split <;> exact h

theorem reset_wf : State.reset.mem.wf := by
  intro v hv
  have h : v = [] := List.eq_of_mem_replicate (n := 4) hv
  rw [h]; rfl

/-! ### Objects kept by number -/

@[simp] theorem look_store {α : Type} (l : List (Nat × α)) (k : Nat) (a : α) : look (store l k a) k = some a := by
  induction l with
  | nil => simp [store, look]
  | cons p r ih =>
    obtain ⟨j, b⟩ := p
    simp only [store]
    split
    · simp [look]
    · split
      · simp [look]
      · next h => simp [look, h, ih]

theorem look_store_other {α : Type} (l : List (Nat × α)) (k i : Nat) (a : α) (h : i ≠ k) : look (store l k a) i = look l i := by
  induction l with
  | nil => simp [store, look, Ne.symm h]
  | cons p r ih =>
    obtain ⟨j, b⟩ := p
    simp only [store]
    split
    · simp [look, Ne.symm h]
    · split
      · next hj => simp [look, Ne.symm h, hj]
      · simp only [look]; split <;> simp [ih]

end Sys2Proof.Machine
end

