-- ==== Sys2Proof/Laws/State.lean ====
section
/-! SUPPORT. What the updates of State change and what they leave alone: one lemma per field and update. -/

namespace Sys2Proof.Machine

/-! ### The cells -/

theorem cell_setCell (s : State) (c : Nat) (x : Cell) (h : c < s.cells.length) : (s.setCell c x).cell c = x := by
  unfold State.cell State.setCell
  rw [List.getD_eq_getElem?_getD, List.getElem?_set_self h]; rfl

theorem cell_setCell_other (s : State) (c d : Nat) (x : Cell) (h : c ≠ d) : (s.setCell c x).cell d = s.cell d := by
  unfold State.cell State.setCell
  rw [List.getD_eq_getElem?_getD, List.getElem?_set_ne h, List.getD_eq_getElem?_getD]

@[simp] theorem setCell_setCell (s : State) (c : Nat) (x y : Cell) : (s.setCell c x).setCell c y = s.setCell c y := by
  simp [State.setCell]

@[simp] theorem setCell_length (s : State) (c : Nat) (x : Cell) : (s.setCell c x).cells.length = s.cells.length := by
  simp [State.setCell]

@[simp] theorem modCell_length (s : State) (c : Nat) (f : Cell → Cell) : (s.modCell c f).cells.length = s.cells.length :=
  setCell_length ..

theorem cell_modCell (s : State) (c : Nat) (f : Cell → Cell) (h : c < s.cells.length) : (s.modCell c f).cell c = f (s.cell c) :=
  cell_setCell s c _ h

theorem cell_modCell_other (s : State) (c d : Nat) (f : Cell → Cell) (h : c ≠ d) : (s.modCell c f).cell d = s.cell d :=
  cell_setCell_other s c d _ h

theorem modCell_modCell (s : State) (c : Nat) (f g : Cell → Cell) (h : c < s.cells.length) :
    (s.modCell c f).modCell c g = s.modCell c fun x => g (f x) := by
  simp [State.modCell, cell_setCell, h]

@[simp] theorem setCell_agenda (s : State) (c : Nat) (x : Cell) : (s.setCell c x).agenda = s.agenda := rfl
@[simp] theorem setCell_focus (s : State) (c : Nat) (x : Cell) : (s.setCell c x).focus = s.focus := rfl
@[simp] theorem setCell_stalled (s : State) (c : Nat) (x : Cell) : (s.setCell c x).stalled = s.stalled := rfl
@[simp] theorem setCell_free (s : State) (c : Nat) (x : Cell) : (s.setCell c x).free = s.free := rfl
@[simp] theorem setCell_cycle (s : State) (c : Nat) (x : Cell) : (s.setCell c x).cycle = s.cycle := rfl
@[simp] theorem setCell_quads (s : State) (c : Nat) (x : Cell) : (s.setCell c x).quads = s.quads := rfl
@[simp] theorem setCell_mem (s : State) (c : Nat) (x : Cell) : (s.setCell c x).mem = s.mem := rfl
@[simp] theorem setCell_disp (s : State) (c : Nat) (x : Cell) : (s.setCell c x).disp = s.disp := rfl
@[simp] theorem setCell_page (s : State) (c : Nat) (x : Cell) : (s.setCell c x).page = s.page := rfl
@[simp] theorem setCell_link (s : State) (c : Nat) (x : Cell) : (s.setCell c x).link = s.link := rfl
@[simp] theorem setCell_bb (s : State) (c : Nat) (x : Cell) : (s.setCell c x).bb = s.bb := rfl
@[simp] theorem setCell_dev (s : State) (c : Nat) (x : Cell) : (s.setCell c x).dev = s.dev := rfl
@[simp] theorem setCell_timers (s : State) (c : Nat) (x : Cell) : (s.setCell c x).timers = s.timers := rfl

@[simp] theorem modCell_agenda (s : State) (c : Nat) (f : Cell → Cell) : (s.modCell c f).agenda = s.agenda := rfl
@[simp] theorem modCell_focus (s : State) (c : Nat) (f : Cell → Cell) : (s.modCell c f).focus = s.focus := rfl
@[simp] theorem modCell_stalled (s : State) (c : Nat) (f : Cell → Cell) : (s.modCell c f).stalled = s.stalled := rfl
@[simp] theorem modCell_free (s : State) (c : Nat) (f : Cell → Cell) : (s.modCell c f).free = s.free := rfl
@[simp] theorem modCell_cycle (s : State) (c : Nat) (f : Cell → Cell) : (s.modCell c f).cycle = s.cycle := rfl
@[simp] theorem modCell_quads (s : State) (c : Nat) (f : Cell → Cell) : (s.modCell c f).quads = s.quads := rfl
@[simp] theorem modCell_mem (s : State) (c : Nat) (f : Cell → Cell) : (s.modCell c f).mem = s.mem := rfl
@[simp] theorem modCell_disp (s : State) (c : Nat) (f : Cell → Cell) : (s.modCell c f).disp = s.disp := rfl
@[simp] theorem modCell_page (s : State) (c : Nat) (f : Cell → Cell) : (s.modCell c f).page = s.page := rfl
@[simp] theorem modCell_link (s : State) (c : Nat) (f : Cell → Cell) : (s.modCell c f).link = s.link := rfl
@[simp] theorem modCell_bb (s : State) (c : Nat) (f : Cell → Cell) : (s.modCell c f).bb = s.bb := rfl
@[simp] theorem modCell_dev (s : State) (c : Nat) (f : Cell → Cell) : (s.modCell c f).dev = s.dev := rfl
@[simp] theorem modCell_timers (s : State) (c : Nat) (f : Cell → Cell) : (s.modCell c f).timers = s.timers := rfl

/-! ### Quads, the focus, free values -/

@[simp] theorem modQuad_cells (s : State) (n : Nat) (f : Quad → Quad) : (s.modQuad n f).cells = s.cells := rfl
@[simp] theorem modQuad_mem (s : State) (n : Nat) (f : Quad → Quad) : (s.modQuad n f).mem = s.mem := rfl
@[simp] theorem modQuad_disp (s : State) (n : Nat) (f : Quad → Quad) : (s.modQuad n f).disp = s.disp := rfl
@[simp] theorem modQuad_focus (s : State) (n : Nat) (f : Quad → Quad) : (s.modQuad n f).focus = s.focus := rfl
@[simp] theorem stall_cells (s : State) : s.stall.cells = s.cells := rfl
@[simp] theorem stall_mem (s : State) : s.stall.mem = s.mem := rfl
@[simp] theorem stall_focus (s : State) : s.stall.focus = s.focus := rfl
@[simp] theorem stall_stalled (s : State) : s.stall.stalled = true := rfl
@[simp] theorem aim_focus (s : State) (c : Nat) (ag : Agent) : (s.aim c ag).focus = (c, ag) := rfl
@[simp] theorem aim_stalled (s : State) (c : Nat) (ag : Agent) : (s.aim c ag).stalled = false := rfl
@[simp] theorem aim_cells (s : State) (c : Nat) (ag : Agent) : (s.aim c ag).cells = s.cells := rfl
@[simp] theorem aim_mem (s : State) (c : Nat) (ag : Agent) : (s.aim c ag).mem = s.mem := rfl
@[simp] theorem takeFree_snd_free (s : State) : s.takeFree.2.free = s.free + 1 := rfl
@[simp] theorem takeFree_snd_cells (s : State) : s.takeFree.2.cells = s.cells := rfl
@[simp] theorem takeFree_snd_mem (s : State) : s.takeFree.2.mem = s.mem := rfl

/-! ### Registers of S -/

/-- A write to `s0` changes nothing (R139). -/
@[simp] theorem setReg_zero (x : Cell) (ag : Agent) (v : DWord) : x.setReg ag 0 v = x := rfl

/-- `s0` reads 0 (R139). -/
@[simp] theorem reg_zero (x : Cell) (ag : Agent) : x.reg ag 0 = 0 := rfl

theorem reg_setReg (x : Cell) (r : Nat) (v : DWord) (h : r ≠ 0) (hr : r < x.s.regs.length) :
    (x.setReg (.stream .s) r v).reg (.stream .s) r = v := by
  simp [Cell.setReg, Cell.reg, h, hr]

theorem reg_setReg_other (x : Cell) (r k : Nat) (v : DWord) (h : r ≠ k) :
    (x.setReg (.stream .s) r v).reg (.stream .s) k = x.reg (.stream .s) k := by
  by_cases hr : r = 0
  · simp [hr]
  · by_cases hk : k = 0
    · simp [hk]
    · simp [Cell.setReg, Cell.reg, hr, hk, List.getElem?_set_ne h]

end Sys2Proof.Machine
end

