-- ==== Sys2Proof/Laws/Frames.lean ====
section
/-! SUPPORT. What the shared operations leave alone: writes to memory and events of the black box change neither the
dispatcher nor the page unit, the links, the device or the clock. -/

namespace Sys2Proof.Machine

/-- `t` differs from `s` in nothing but the agenda, the cells, memory and the black box, and has as many cells. -/
structure OnlyMem (s t : State) : Prop where
  focus : t.focus = s.focus
  stalled : t.stalled = s.stalled
  free : t.free = s.free
  cycle : t.cycle = s.cycle
  cells : t.cells.length = s.cells.length
  quads : t.quads = s.quads
  disp : t.disp = s.disp
  page : t.page = s.page
  link : t.link = s.link
  dev : t.dev = s.dev
  timers : t.timers = s.timers

theorem OnlyMem.refl (s : State) : OnlyMem s s := ⟨rfl, rfl, rfl, rfl, rfl, rfl, rfl, rfl, rfl, rfl, rfl⟩

theorem OnlyMem.trans {s t u : State} (h : OnlyMem s t) (k : OnlyMem t u) : OnlyMem s u :=
  ⟨k.1.trans h.1, k.2.trans h.2, k.3.trans h.3, k.4.trans h.4, k.5.trans h.5, k.6.trans h.6, k.7.trans h.7, k.8.trans h.8, k.9.trans h.9,
    k.10.trans h.10, k.11.trans h.11⟩

theorem OnlyMem.setCell (s : State) (c : Nat) (x : Cell) : OnlyMem s (s.setCell c x) :=
  ⟨rfl, rfl, rfl, rfl, by simp, rfl, rfl, rfl, rfl, rfl, rfl⟩

theorem OnlyMem.modCell (s : State) (c : Nat) (f : Cell → Cell) : OnlyMem s (s.modCell c f) := .setCell ..

theorem OnlyMem.mem (s : State) (m : MemUnit) : OnlyMem s { s with mem := m } := ⟨rfl, rfl, rfl, rfl, rfl, rfl, rfl, rfl, rfl, rfl, rfl⟩

theorem OnlyMem.foldl {α : Type} {f : State → α → State} (h : ∀ s a, OnlyMem s (f s a)) (l : List α) (s : State) : OnlyMem s (l.foldl f s) := by
  induction l generalizing s with
  | nil => exact .refl s
  | cons a r ih => exact (h s a).trans (ih (f s a))

theorem OnlyMem.ite {s a b : State} {p : Prop} [Decidable p] (h : OnlyMem s a) (k : OnlyMem s b) : OnlyMem s (if p then a else b) := by
  split
  · exact h
  · exact k

/-- An event changes the black box alone. -/
theorem OnlyMem.event (s : State) (code : Nat) (src : Src) (ctx : BitVec 16) (a b : Nat) : OnlyMem s (s.event code src ctx a b) := by
  unfold State.event; simp only; split <;> exact ⟨rfl, rfl, rfl, rfl, rfl, rfl, rfl, rfl, rfl, rfl, rfl⟩

@[simp] theorem event_cells (s : State) (code : Nat) (src : Src) (ctx : BitVec 16) (a b : Nat) : (s.event code src ctx a b).cells = s.cells := by
  unfold State.event; simp only; split <;> rfl

@[simp] theorem event_mem (s : State) (code : Nat) (src : Src) (ctx : BitVec 16) (a b : Nat) : (s.event code src ctx a b).mem = s.mem := by
  unfold State.event; simp only; split <;> rfl

theorem OnlyMem.haltWrite (s : State) (c : Nat) (v : DWord) : OnlyMem s (s.haltWrite c v) := by
  unfold State.haltWrite
  simp only
  split
  · exact .setCell ..
  · split
    · exact .setCell ..
    · split
      · exact ⟨rfl, rfl, rfl, rfl, by simp, rfl, rfl, rfl, rfl, rfl, rfl⟩
      · exact .setCell ..

theorem OnlyMem.ctrlWrite8 (s : State) (c off : Nat) (v : DWord) : OnlyMem s (s.ctrlWrite8 c off v) := by
  unfold State.ctrlWrite8
  extract_lets
  repeat' (with_reducible apply OnlyMem.ite)
  all_goals first | with_reducible apply OnlyMem.setCell | with_reducible apply OnlyMem.haltWrite | with_reducible apply OnlyMem.refl

theorem OnlyMem.setWindowReg8 (s : State) (c off : Nat) (v : DWord) : OnlyMem s (s.setWindowReg8 c off v) := by
  unfold State.setWindowReg8
  extract_lets
  repeat' (with_reducible apply OnlyMem.ite)
  all_goals first | with_reducible apply OnlyMem.setCell | with_reducible apply OnlyMem.ctrlWrite8 | with_reducible apply OnlyMem.refl

theorem OnlyMem.windowRegWrite (s : State) (c off : Nat) (bs : List Byte) : OnlyMem s (s.windowRegWrite c off bs) := by
  unfold State.windowRegWrite
  simp only
  split
  · exact .refl s
  · exact .foldl (fun _ _ => .setWindowReg8 ..) _ s

theorem OnlyMem.markWrite (s : State) (p : Part) (bad : Bool) : OnlyMem s (s.markWrite p bad) := .mem ..

theorem OnlyMem.writeWindow (s : State) (ag : Nat × Agent) (c off : Nat) (p : Part) (bad : Bool) (via : Option AccessOrigin) :
    OnlyMem s (s.writeWindow ag c off p bad via) := by
  unfold State.writeWindow
  exact .ite (.refl s) (.ite ((OnlyMem.modCell s _ _).trans (.markWrite ..)) (.ite (.setCell ..) (.windowRegWrite ..)))

theorem OnlyMem.writeMem (s : State) (d : Nat) (ag : Nat × Agent) (p : Part) (bad : Bool) : OnlyMem s (s.writeMem d ag p bad) := by
  unfold State.writeMem
  exact .ite (.refl s) ((OnlyMem.mem s _).trans (.markWrite ..))

/-- A write by physical address reaches only memory, cells, the black box and the agenda. -/
theorem OnlyMem.writePa (s : State) (d : Nat) (ag : Nat × Agent) (pa : Nat) (bs : List Byte) (bad : Bool) (mask : List Byte) (via : Option AccessOrigin) :
    OnlyMem s (s.writePa d ag pa bs bad mask via) := by
  unfold State.writePa
  simp only
  split
  · exact .event ..
  · exact .writeWindow ..
  · split
    · exact .event ..
    · split
      · exact (OnlyMem.writeMem ..).trans (.writeMem ..)
      · exact .writeMem ..

/-- So does a write of the dispatcher. -/
theorem OnlyMem.dwrite (s : State) (pa : Nat) (bs : List Byte) : OnlyMem s (s.dwrite pa bs) := (OnlyMem.writePa ..).trans (.mem ..)

@[simp] theorem dwrite_disp (s : State) (pa : Nat) (bs : List Byte) : (s.dwrite pa bs).disp = s.disp := (OnlyMem.dwrite s pa bs).disp
@[simp] theorem dwrite_page (s : State) (pa : Nat) (bs : List Byte) : (s.dwrite pa bs).page = s.page := (OnlyMem.dwrite s pa bs).page
@[simp] theorem dwrite_link (s : State) (pa : Nat) (bs : List Byte) : (s.dwrite pa bs).link = s.link := (OnlyMem.dwrite s pa bs).link
@[simp] theorem dwrite_dev (s : State) (pa : Nat) (bs : List Byte) : (s.dwrite pa bs).dev = s.dev := (OnlyMem.dwrite s pa bs).dev
@[simp] theorem dwrite_cycle (s : State) (pa : Nat) (bs : List Byte) : (s.dwrite pa bs).cycle = s.cycle := (OnlyMem.dwrite s pa bs).cycle

/-- An access that a save or a restore keeps away is noted at its cell. -/
theorem OnlyMem.bar (s : State) (who : Nat × Agent) (pa : Nat) : OnlyMem s (s.bar who pa) := by
  unfold State.bar
  split
  · exact .ite (.setCell ..) (.refl s)
  · exact .refl s

/-- A store of the dispatcher that meets no fault. -/
theorem OnlyMem.dstore {s t : State} {ctx : BitVec 16} {va : Nat} {bs : List Byte} (h : s.dstore ctx va bs = .ok t) : OnlyMem s t := by
  unfold State.dstore at h
  split at h
  · cases h
  · split at h
    · cases h; exact .dwrite ..
    · split at h
      · cases h; exact (OnlyMem.bar ..).trans (.modCell ..)
      · cases h; exact .refl s

/-! ### Objects of the dispatcher -/

theorem context_of_disp {s t : State} (h : t.disp.contexts = s.disp.contexts) (c : BitVec 16) : t.context c = s.context c := by
  unfold State.context; rw [h]

@[simp] theorem setContext_context (s : State) (c : BitVec 16) (k : Context) : (s.setContext c k).context c = k := by
  simp [State.setContext, State.context]

theorem setContext_context_other (s : State) (c d : BitVec 16) (k : Context) (h : d ≠ c) : (s.setContext c k).context d = s.context d := by
  unfold State.setContext State.context
  rw [look_store_other]
  exact fun e => h (BitVec.eq_of_toNat_eq e)

theorem OnlyMem.writeCtx (s : State) (c : BitVec 16) : OnlyMem s (s.writeCtx c) := ((OnlyMem.dwrite ..).trans (.dwrite ..)).trans (.dwrite ..)

@[simp] theorem modContext_context (s : State) (c : BitVec 16) (f : Context → Context) : (s.modContext c f).context c = f (s.context c) := by
  exact (context_of_disp (congrArg (·.contexts) (OnlyMem.writeCtx _ c).disp) c).trans (setContext_context ..)

theorem modContext_context_other (s : State) (c d : BitVec 16) (f : Context → Context) (h : d ≠ c) : (s.modContext c f).context d = s.context d := by
  exact (context_of_disp (congrArg (·.contexts) (OnlyMem.writeCtx _ c).disp) d).trans (setContext_context_other _ _ _ _ h)

@[simp] theorem setTask_task (s : State) (n : Nat) (t : Task) : (s.setTask n t).task n = some t := by simp [State.setTask, State.task]

theorem setTask_task_other (s : State) (n m : Nat) (t : Task) (h : m ≠ n) : (s.setTask n t).task m = s.task m := by
  simp [State.setTask, State.task, look_store_other _ _ _ _ h]

@[simp] theorem setGroup_groupAt (s : State) (k : Nat) (g : Group) : (s.setGroup k g).groupAt k = g := by
  simp [State.setGroup, State.groupAt]

theorem setGroup_groupAt_other (s : State) (k j : Nat) (g : Group) (h : j ≠ k) : (s.setGroup k g).groupAt j = s.groupAt j := by
  simp [State.setGroup, State.groupAt, look_store_other _ _ _ _ h]

@[simp] theorem setQueue_queue (s : State) (q : Nat) (x : RQueue) : (s.setQueue q x).queue q = x := by
  simp [State.setQueue, State.queue]

theorem setQueue_queue_other (s : State) (q j : Nat) (x : RQueue) (h : j ≠ q) : (s.setQueue q x).queue j = s.queue j := by
  simp [State.setQueue, State.queue, look_store_other _ _ _ _ h]

@[simp] theorem setBarrier_barrier (s : State) (k : Nat) (b : Barrier) (r : Bool) : (s.setBarrier k b r).barrier k = b := by
  unfold State.setBarrier
  simp only
  split <;> simp [State.barrier]

end Sys2Proof.Machine
end

