-- ==== Sys2Proof/Laws/Issue.lean ====
section
/-! SUPPORT. What the issue of an instruction of S at a boundary, and of an engine instruction at its queue's head,
can do. -/

namespace Sys2Proof.Machine

theorem overwrite_sound {s : State} {e : ErrorSite} (h : s.mem.uncorr = []) : s.overwrite e = s := by
  simp [State.overwrite, h]

theorem setReg_sound {s : State} {c : Nat} {ag : Agent} {r : BitVec 5} {v : DWord} (h : s.mem.uncorr = []) :
    s.setReg c ag r v = s.modCell c fun x => x.setReg ag r.toNat v := by
  simp [State.setReg, overwrite_sound h]

/-- The issue of S at a boundary is the end of its instruction's own operation. -/
theorem sIssue_atS {s : State} {i : Instr} {f : Form} {body : Nat → Agent → Unfinished → State → Fin}
    (h : AtS s f.q) (wf : i.wellFormed = true) (p : f.super = true → (s.whoOf s.focus.1 (.stream .s)).super = true) :
    s.sIssue i f body =
      match body s.focus.1 (.stream .s) (s.entry i f) (s.entered i f) with
      | .stall => s.stall
      | r => (s.entered i f).conclude s.focus.1 (.stream .s) r := by
  obtain ⟨ha, hc, hu, hr, hw, hp, hs⟩ := h
  have hpv : (f.super && !(s.whoOf s.focus.1 (.stream .s)).super) = false := by
    cases hf : f.super <;> simp_all
  simp [State.sIssue, ha, Cell.issue, hu, hr, hw, Issue.blocked, State.runEntry, wf, hp, hs, hpv, Issue.hazard, Issue.acquires, State.regUncorr,
    maxUnfinished, Config.maxUnfinished, State.entered, State.entry] <;>
  cases body s.focus.fst (.stream .s) _ _ <;> rfl

/-- The cell of the focus with an entry issued at the boundary. -/
def Cell.enter (x : Cell) (u : Unfinished) : Cell :=
  { x.passed with s := { x.passed.s with iss := { x.passed.s.iss with unfinished := [u] } } }

/-- The end of issue on the cell. -/
def Cell.exit (x : Cell) (np : Option DWord) : Cell :=
  { x with s := { x.s with iss := { x.s.iss with unfinished := x.s.iss.unfinished.dropLast, wait := none, pc := np.getD x.s.iss.pc } } }

/-- An operation that finishes by doing `g` to the cell retires, when `g` leaves the unfinished entries alone. -/
theorem conclude_done {s : State} {i : Instr} {f : Form} (g : Cell → Cell) (np : Option DWord) {q : BitVec 4} (h : AtS s q)
    (hg : (g (s.here.enter (s.entry i f))).exit np =
      { g s.here.passed with s := { (g s.here.passed).s with iss := { (g s.here.passed).s.iss with pc := np.getD (g s.here.passed).s.iss.pc } } }) :
    (s.entered i f).conclude s.focus.1 (.stream .s) (.done ((s.entered i f).modCell s.focus.1 g) np) = s.retire g np := by
  obtain ⟨ha, hc, hn, hr, hw, hp, hs⟩ := h
  simp only [State.conclude, State.entered, State.issued, State.modIssue, State.retire, Bool.false_eq_true, if_false]
  rw [modCell_modCell _ _ _ _ hc, modCell_modCell _ _ _ _ hc]
  simp only [State.modCell]
  congr 1
  rw [← hg]
  simp only [Cell.modIssue, Cell.exit, Cell.enter, Cell.passed]
  rw [hn]
  rfl

/-- An instruction of S that only writes a register does exactly that. -/
theorem sWrite_atS {s : State} {i : Instr} {f : Form} {val : Unfinished → DWord}
    (h : AtS s f.q) (wf : i.wellFormed = true) (p : f.super = true → (s.whoOf s.focus.1 (.stream .s)).super = true) :
    s.sWrite i f val = s.writes f.dest (val (s.entry i f)) := by
  rw [State.sWrite, sIssue_atS h wf p]
  simp only
  rw [setReg_sound (by exact h.sound)]
  apply conclude_done _ _ h
  have hu := h.unfinished
  have hw := h.wait
  simp only [Cell.exit, Cell.enter, Cell.passed, Cell.setReg]
  split <;> simp [hu, hw]

end Sys2Proof.Machine
end

