-- ==== Sys2Proof/Tests/Slice0.lean ====
section
/-! SUPPORT. Tests: ill-formed terms, words of the specification, single steps, and a witness of the hypotheses of each
statement. -/

set_option Elab.async false

open Sys2Proof Sys2Proof.Machine

/-! ### Small states -/

namespace Sys2Proof.Tests

/-- Whether `i` answers a next state that satisfies `p`. -/
def after (i : Instr) (s : State) (p : State → Bool) : Bool :=
  match exec i s with
  | .next t => p t
  | _ => false

/-- A cached large page: context 1, virtual base `va`, physical base `pa`, tier `t`, all permissions. -/
def pageOf (va pa t : Nat) : TlbEntry := ⟨1, va, true, BitVec.ofNat 64 (pa + 31 + 64 * t)⟩

/-- The page tables of context 1: its first large page is HBM from 0. -/
def tables : Memory :=
  [(0x10000, 1), (0x10001, 0x10), (0x10002, 1), (0x11000, 1), (0x11001, 0x20), (0x11002, 1), (0x12000, 1), (0x12001, 0x30), (0x12002, 1), (0x13000, 31)]

/-- A state with bytes written into every view. -/
def poke (s : State) (l : List (Nat × Byte)) : State :=
  { s with mem := { s.mem with views := s.mem.views.map fun m => l.foldl (fun m (a, b) => m.write a b) m } }

/-- A descriptor of rank 2 with one plane: base, format, uses, dimensions and pitch 1. -/
def desc (base fmt uses d0 d1 p1 : Nat) : BitVec 512 :=
  BitVec.ofNat 512 (base + fmt * 2 ^ 52 + 2 ^ 56 + 2 ^ 116 + uses * 2 ^ 180 + d0 * 2 ^ 256 + d1 * 2 ^ 288 + 2 ^ 320 + 2 ^ 352 + p1 * 2 ^ 384)

/-- Context 1 ACTIVE and resident on cell 0; page 0 is HBM, the next one the scratchpad of cell 0, the third that of
cell 1; the registers s2 and s3 are 8 and 5, predicates are all 1, TVEC is 0x400. -/
def base : State :=
  { State.reset with
    cells := State.reset.cells.set 0 {
      s := { regs := ((List.replicate 32 (0 : DWord)).set 2 8).set 3 5, preds := 0xFF, iss := { pc := 64 } }
      trap := { tvec := 0x400 }
      res := { ctx := 1, image := .active }
      tlb := [pageOf 0 0 0, pageOf 0x200000 0x3C00000000000 3, pageOf 0x400000 0x3C00001000000 3] }
    mem := { State.reset.mem with views := List.replicate 4 tables }
    disp := { State.reset.disp with contexts := [(1, { state := .active, ptroot := 0x10000, fslots := 4, fsize := 64, fpool := 0x20000 })] } }

/-- `base` with a change to cell 0. -/
def cell0 (f : Cell → Cell) : State := base.modCell 0 f

/-- `base` with a change to S of cell 0. -/
def withS (f : SUnit → SUnit) : State := cell0 fun x => { x with s := f x.s }

/-- `base` in SUPER mode. -/
def super : State := withS fun u => { u with super := true }

theorem atS {s : State} {q : BitVec 4} (h : s.focus.2 = .stream .s ∧ s.focus.1 < s.cells.length ∧ s.here.s.iss.unfinished = [] ∧
    s.here.s.iss.replay = [] ∧ s.here.s.iss.wait = none ∧ predHolds s.here.s.preds q = true ∧ s.mem.uncorr = []) : AtS s q := by
  rcases h with ⟨_, _, _, _, _, _, _⟩; constructor <;> assumption

theorem atHead {s : State} {st : Stream} {h : Entry} (k : s.focus.1 < s.cells.length ∧ (s.here.engine st).queue.head? = some h ∧ h.held = none ∧
    (s.here.engine st).started = true ∧ ((s.here.engine st).ended = false ∧ (s.here.engine st).stopped = false ∧ (s.here.engine st).quiesced = false) ∧
    (s.here.m.inject = none ∨ st ≠ .m) ∧ (s.here.engine st).nextStep = 0 ∧ (s.here.engine st).table = none ∧ s.mem.uncorr = []) : AtHead s st h := by
  rcases k with ⟨_, _, _, _, _, _, _, _, _⟩; constructor <;> assumption

theorem free {s : State} {st : Stream} {b : BitVec 4} (k : (s.here.engine st).inprog = [] ∧ s.here.dbg.stepping = none ∧
    (b = 15 → s.here.s.super = true) ∧ s.mem.poison = []) : Free s st b := by
  rcases k with ⟨_, _, _, _⟩; constructor <;> assumption

/-- A command that answers gives its value. -/
theorem ok_of {α : Type} {a : Acc α} {p : α → Bool} (h : (match a with | .ok x => p x | _ => false) = true) : ∃ x, a = .ok x ∧ p x = true := by
  cases a with
  | ok x => exact ⟨x, rfl, h⟩
  | trap t => cases h
  | stall => cases h

/-! ### Witnesses: S -/

theorem base_atS : AtS base 0 := atS (by decide +kernel)
theorem base_atS_q : AtS base 0b1010 := atS (by decide +kernel)

/-- IntegerArithmetic: a divisor that is not 0, one that is, and a predicated instruction. -/
theorem witness_IntegerArithmetic : AtS base 0b1010 ∧ qpOk 0b1010 = true ∧ base.sreg 3 ≠ 0 ∧ ((base.sreg 3).setWidth 32 : Word) ≠ 0 ∧
    (1 : BitVec 11) ≠ 0 ∧ base.sreg 0 = 0 := ⟨base_atS_q, by decide +kernel⟩

/-- LogicAndConstants: a compare into a register and into a predicate, that holds and that does not. -/
theorem witness_LogicAndConstants : AtS base 0b1010 ∧ qpOk 0b1010 = true ∧ (setcOk 31 0x10 = true ∧ setcOk 7 0x20 = true) ∧
    Claims.setcHolds 0 (base.sreg 3) (base.sreg 2) ∧ ¬Claims.setcHolds 0 (base.sreg 2) (base.sreg 3) ∧
    (base.sreg 3).toInt < ((1023 : BitVec 11).signExtend 64).toInt ∧ ((1024 : BitVec 11).signExtend 64).toInt ≤ (base.sreg 3).toInt :=
  ⟨base_atS_q, by decide, by decide, show (base.sreg 3).toInt < (base.sreg 2).toInt by decide +kernel,
    show ¬(base.sreg 2).toInt < (base.sreg 3).toInt by decide +kernel, by decide +kernel⟩

/-- ZeroRegisterAndPredicates: predicate 2 is 0. -/
theorem witness_ZeroRegisterAndPredicates : let s := withS fun u => { u with preds := 0xFB }
    AtS s 0 ∧ qpOk 0b1010 = true ∧ predHolds s.here.s.preds 0b1010 = false ∧
    (Instr.mulImm 0b1010 4 2 3).wellFormed = true ∧ (Instr.st 3 0b1010 4 2 511).wellFormed = true ∧ (Instr.tsig 0b1010 31 0 4095).wellFormed = true ∧
    (Instr.trap 0b1010 2047).wellFormed = true := ⟨atS (by decide +kernel), by decide +kernel⟩

/-- BranchesAndJumps: targets at both ends of the address space and just outside, a register target, a counter at 1 and at 0. -/
theorem witness_BranchesAndJumps : AtS base 0 ∧ qpOk 0 = true ∧ targetCheck (base.here.s.iss.pc.toNat + 4 * (4095 : BitVec 13).toInt) = none ∧
    targetCheck (base.here.s.iss.pc.toNat + 4 * (0x1FFFFF0 : BitVec 25).toInt) = none ∧
    (canonical (base.sreg 2).toNat = true ∧ (base.sreg 2).toNat % 4 = 0) ∧ (base.sreg 2 ≠ base.sreg 3 ∧ base.sreg 2 = base.sreg 2) ∧
    base.sreg 2 ≠ 0 ∧ base.sreg 0 = 0 ∧ 1 < (base.sreg 3).toNat ∧ (base.sreg 0).toNat ≤ 1 ∧ ((2 : BitVec 5) ≠ 3 ∨ (2 : BitVec 5) = 0) ∧
    (base.here.trap.inTrap = false ∧ vectorOk base.here.trap.tvec = true) ∧ ((base.here.s.iss.pc.toNat : Int) + 4 * (0x1FFFFEF : BitVec 25).toInt < 0) ∧
    (let s := withS fun u => { u with iss := { u.iss with pc := BitVec.ofNat 64 (2 ^ 51 - 4) } }
     AtS s 0 ∧ (2 ^ 51 : Int) ≤ s.here.s.iss.pc.toNat + 4 * (1 : BitVec 25).toInt ∧
      (s.here.s.iss.pc.toNat : Int) + 4 * (1 : BitVec 25).toInt < 2 ^ 64 - 2 ^ 51) := by
  and_intros <;> first | exact atS (by decide +kernel) | decide +kernel

/-- StoreCompletes: eight bytes at address 8, and one byte at the last byte of the page. -/
theorem witness_StoreCompletes : AtS base 0 ∧ (Instr.st 3 0 3 2 0).wellFormed = true ∧
    (let i := Instr.st 3 0 3 2 0
     let t := base.entered i { q := 0, a := 2, d := 3 }
     t.accessCheck (t.whoOf 0 (.stream .s)) ((base.sreg 2).toNat + (0 : BitVec 9).toInt * 8) 8 8 { wr := true } = .ok 8) ∧
    place 8 = .hbm ∧ base.sluiceAt 8 = none ∧ base.storesOut (0, .stream .s) < 32 ∧ 0 < base.mem.views.length ∧ (base.mem.views.getD 0 []).wf = true ∧ base.mem.pend = [] ∧
    (let s := withS fun u => { u with regs := u.regs.set 2 0x1FFFFF }
     let t := s.entered (.st 0 0 3 2 0) { q := 0, a := 2, d := 3 }
     AtS s 0 ∧ t.accessCheck (t.whoOf 0 (.stream .s)) 0x1FFFFF 1 1 { wr := true } = .ok 0x1FFFFF) := by
  and_intros <;> first | exact atS (by decide +kernel) | decide +kernel

/-- AtomicsComplete: an `ATOM` and a `CAS` on four bytes at address 8, and on the window of cell 0. -/
theorem witness_AtomicsComplete : AtS base 0 ∧ (Instr.atom 3 0 4 2 3 0).wellFormed = true ∧ (Instr.cas 3 0 4 2 3 0).wellFormed = true ∧ atomWidth 0 = 4 ∧
    (∀ i d, (i = Instr.atom 3 0 4 2 3 0 ∧ d = 0 ∨ i = .cas 3 0 4 2 3 0 ∧ d = 4) →
      let t := base.entered i { a := 2, b := 3, d := d, dest := 4 }
      t.accessCheck (t.whoOf 0 (.stream .s)) (base.sreg 2).toNat 4 4 { rd := true, wr := true } = .ok 8) ∧
    viewed 8 = true ∧ base.sluiceAt 8 = none ∧ base.mem.pend = [] ∧ base.mem.poison = [] ∧ homeDie 8 < base.mem.views.length ∧
    (base.mem.views.getD (homeDie 8) []).wf = true ∧ homeQuad 8 < base.quads.length ∧ (base.quad (homeQuad 8)).requests = [] ∧
    base.performedAt (0, .stream .s) 3 = true ∧ base.mem.covers (homeDie 8) (base.mem.clocks.getD (dieOf 0) []) = true ∧
    base.storesOut (0, .stream .s) < 32 ∧
    (∀ i d, (i = Instr.atom 3 0 4 2 3 0 ∧ d = 0 ∨ i = .cas 3 0 4 2 3 0 ∧ d = 4) →
      let s := withS fun u => { u with regs := u.regs.set 2 0x200000 }
      let t := s.entered i { a := 2, b := 3, d := d, dest := 4 }
      AtS s 0 ∧ t.accessCheck (t.whoOf 0 (.stream .s)) (s.sreg 2).toNat 4 4 { rd := true, wr := true } = .ok 0x3C00000000000 ∧
      place 0x3C00000000000 = .window 0 0) := by
  refine ⟨base_atS, by decide +kernel, by decide +kernel, by decide, ?_, ?_⟩
  · rintro i d (⟨rfl, rfl⟩ | ⟨rfl, rfl⟩) <;> decide +kernel
  · and_intros <;> try decide +kernel
    rintro i d (⟨rfl, rfl⟩ | ⟨rfl, rfl⟩) <;> exact ⟨atS (by decide +kernel), by decide +kernel⟩

/-- A descriptor at address 64, s2 = 64. -/
def described (d : BitVec 512) : State :=
  poke (withS fun u => { u with regs := u.regs.set 2 64 }) ((List.range 64).map fun k => (64 + k, d.extractLsb' (8 * k) 8))

/-- The access of a `TDEF` passes, and its eight pieces are readable and hold a descriptor that satisfies `p`. -/
def TdefReads (s : State) (p : BitVec 512 → Bool) : Prop :=
  let i := Instr.tdef 0 2 255
  let t := s.entered i { q := 0, a := 2 }
  AtS s 0 ∧ t.accessCheck (t.whoOf 0 (.stream .s)) (s.sreg 2).toNat 64 64 { rd := true } = .ok 64 ∧ foreignPad 0 64 = false ∧ place 64 = .hbm ∧
    after i s (fun t => (List.range 8).all (fun k => (t.readPa 0 (64 + 8 * k) 8).bad.isNone) &&
      p (BitVec.ofNat 512 (leNat ((List.range 8).flatMap fun k => (t.readPa 0 (64 + 8 * k) 8).bytes)))) = true

/-- LoadsComplete: a load of page 0, and a `TDEF` of a descriptor with no use, one that passes its checks and one that fails check 4. -/
theorem witness_LoadsComplete : (AtS base 0 ∧ (Instr.ld 3 0 4 2 0).wellFormed = true ∧ (Instr.tdef 0 2 255).wellFormed = true) ∧
    (let i := Instr.ld 3 0 4 2 0
     let t := base.entered i { q := 0, a := 2, dest := 4 }
     t.accessCheck (t.whoOf 0 (.stream .s)) 8 8 8 { rd := true } = .ok 8 ∧ foreignPad 0 8 = false ∧
     after i base (fun t => (t.readPa 0 8 8).bad.isNone && t.regSettled 8) = true) ∧
    TdefReads (described 0) (fun x => x.extractLsb' 180 12 = 0) ∧
    TdefReads (described (desc 0x8000 4 1 1 1 1)) (fun x => x.extractLsb' 180 12 ≠ 0 && tdefCheck x = 0) ∧
    TdefReads (described (desc 0x8000 4 1 0 1 1)) (fun x => x.extractLsb' 180 12 ≠ 0 && tdefCheck x = 4) :=
  ⟨⟨base_atS, by decide +kernel⟩, by decide +kernel, ⟨atS (by decide +kernel), by decide +kernel⟩, ⟨atS (by decide +kernel), by decide +kernel⟩,
    atS (by decide +kernel), by decide +kernel⟩

/-- AccessChecks: addresses where the checks meet: 2^64 − 1 with two bytes, 2^51, 2^64 − 2^51, an odd one, one without a page,
one that is only readable and one that all allow; a tile that is FREE. -/
theorem witness_AccessChecks :
    (let w := base.whoOf 0 (.stream .s)
     ((2 ^ 64 : Int) < (2 ^ 64 - 1) + 2) ∧ (2 ^ 51 : Int) < 2 ^ 64 - 2 ^ 51 ∧
     addrCheck (2 ^ 64 - 2 ^ 51 : Int) 8 = none ∧ addrCheck (2 ^ 51 - 8 : Int) 8 = none ∧ (0x2000001 : Nat) % 8 ≠ 0 ∧ base.lookup w 0x2000000 = .notPresent ∧
     (∃ e large at_, base.lookup w 8 = .leaf e large at_ ∧ place (leafPa e large 8) = .hbm ∧ leafRD e = true ∧ leafWR e = true ∧ leafSUP e = false)) ∧
    (let s := cell0 fun x => { x with tlb := [⟨1, 0, true, 7⟩] }
     ∃ e large at_, s.lookup (s.whoOf 0 (.stream .s)) 8 = .leaf e large at_ ∧ place (leafPa e large 8) = .hbm ∧ leafWR e = false) ∧
    (let s := withS fun u => { u with regs := u.regs.set 2 0x200000 }
     let t := s.entered (.st 3 0 3 2 0) { q := 0, a := 2, d := 3 }
     AtS s 0 ∧ (∃ e large x, t.lookup (t.whoOf 0 (.stream .s)) 0x200000 = .leaf e large x ∧ place (leafPa e large 0x200000) = .window 0 0) ∧ s.here.shutter 0 ≠ 0) := by
  and_intros <;> first | exact atS (by decide +kernel) | exact ⟨_, _, _, rfl, by decide +kernel⟩ | decide +kernel

/-- OrderingForms: no access outstanding, a token that holds its count, tiles that S has and FREE ones, counts 0 and 4,095. -/
theorem witness_OrderingForms :
    let s := cell0 fun x => { x with tokens := x.tokens.set 31 4095, shutters := (x.shutters.set 0 0).set 127 0, s := { x.s with super := true } }
    AtS s 0 ∧ qpOk 0 = true ∧ s.here.s.super = true ∧ s.storesOut (0, .stream .s) ≤ 0 ∧ s.peerStores 0 ≤ 0 ∧ countOk 0 4095 = true ∧ countOk 1 3 = true ∧
    s.performedAt (0, .stream .s) 3 = true ∧ 4095 ≤ s.here.token 31 ∧ s.here.shutter 127 = 0 ∧ s.performedAt (0, .stream .s) 1 = true ∧ s.here.shutter 1 = 5 ∧
    (Instr.fence 0 8 9 2).wellFormed = true ∧ (Instr.fence 0 8 3 0).wellFormed = true ∧ s.performedAt (0, .stream .s) 9 = true ∧ s.mem.pend = [] ∧ 31 < s.here.tokens.length :=
  ⟨atS (by decide +kernel), by decide +kernel⟩

/-- SystemRegisters: USER and SUPER mode, no weir task. -/
theorem witness_SystemRegisters : AtS base 0 ∧ qpOk 0 = true ∧ AtS super 0 ∧ super.here.s.super = true ∧ super.weirTask super.focus.1 = false ∧
    (let s := { super.modCell 0 (fun x => { x with res := { x.res with task := some 0 } }) with
      disp := { super.disp with tasks := [(0, { record := { flags := 4 }, va := 0, state := .running, cell := some 0 })] } }
     AtS s 0 ∧ s.here.s.super = true ∧ s.weirTask s.focus.1 = true) :=
  ⟨base_atS, by decide, atS (by decide +kernel), by decide +kernel, by decide +kernel, atS (by decide +kernel), by decide +kernel⟩

/-- FormTraps: USER mode outside a handler; a FREE tile claimed for another stream; function 6. -/
theorem witness_FormTraps : AtS base 0 ∧ base.here.s.super = false ∧ base.here.trap.inTrap = false ∧ vectorOk base.here.trap.tvec = true ∧
    (Instr.shut 0 127 3).wellFormed = true ∧ base.here.shutter 127 = 5 ∧ (3 : BitVec 3) ≠ 0 ∧ (Instr.wrsys 0 2 4).wellFormed = true ∧
    (Instr.rdsys 0 4 4).wellFormed = true ∧ (Instr.tret 0).wellFormed = true ∧ (Instr.migrStart 0 4 2).wellFormed = true ∧ (Instr.invpg 0 0 2 3).wellFormed = true ∧
    (Instr.twait 0 15 31 0 0).wellFormed = true ∧ (Instr.waitc 0 15 0 0 0 0).wellFormed = true ∧ (5 : BitVec 6) < 6 :=
  ⟨base_atS, by decide +kernel⟩

/-- SelfTrap: outside a handler, in one, and with a vector that is not aligned. -/
theorem witness_SelfTrap : AtS base 0 ∧ qpOk 0 = true ∧ base.here.trap.inTrap = false ∧ vectorOk base.here.trap.tvec = true ∧
    (base.context base.here.res.ctx).state = .active ∧
    (let s := cell0 fun x => { x with trap := { x.trap with inTrap := true } }
     AtS s 0 ∧ s.here.trap.inTrap = true ∧ (s.context s.here.res.ctx).state = .active) ∧
    (let s := cell0 fun x => { x with trap := { x.trap with tvec := 2 } }
     AtS s 0 ∧ vectorOk s.here.trap.tvec = false) :=
  ⟨base_atS, by decide, by decide +kernel, by decide +kernel, by decide +kernel, ⟨atS (by decide +kernel), by decide +kernel⟩, atS (by decide +kernel), by decide +kernel⟩

/-- TretReturns: in a handler and outside. -/
theorem witness_TretReturns : (AtS super 0 ∧ qpOk 0 = true ∧ super.here.s.super = true ∧ super.here.trap.inTrap = false ∧ vectorOk super.here.trap.tvec = true) ∧
    (let s := super.modCell 0 fun x => { x with trap := { x.trap with inTrap := true, tfSpc := 128, tfN := 8 } }
     AtS s 0 ∧ s.here.s.super = true ∧ s.here.trap.inTrap = true) :=
  ⟨⟨atS (by decide +kernel), by decide +kernel⟩, atS (by decide +kernel), by decide +kernel⟩

/-- A kernel header: every stream starts 64 bytes behind it. -/
def header : BitVec 512 := BitVec.ofNat 512 (2 ^ 32 + 2 ^ 96 + 64 * (2 ^ 320 + 2 ^ 352 + 2 ^ 384 + 2 ^ 416))

/-- A task that runs on cell 0, with frame slot 0. -/
def running : State :=
  let s := cell0 fun x => { x with res := { x.res with task := some 0 } }
  { s with disp := { s.disp with tasks := [(0, { record := { ctxid := 1 }, va := 0x1000, state := .running, cell := some 0, slot := some 0, kernel := some (0x100, header) })] } }

/-- TaskEndings: a cell without a task and one with a task; a packet that waits and one that does not. -/
theorem witness_TaskEndings : (AtS base 0 ∧ qpOk 0 = true ∧ base.here.res.stop = none ∧ base.here.res.task = none ∧ base.here.enginesEnded = true) ∧
    (AtS running 0 ∧ running.here.res.stop = none ∧ running.here.res.task = some 0 ∧ running.slotless running.focus.1 = false ∧ (∃ t, running.task 0 = some t) ∧
      running.here.tagWaits ((running.sreg 2).setWidth 16) = false) ∧
    (let s := running.modCell 0 fun x => { x with landing := x.landing.set 0 (some { packet := { sender := 0, scell := 0, tag := 8, ctx := 1, handler := 0, payload := [] } }) }
     AtS s 0 ∧ s.here.res.stop = none ∧ s.here.tagWaits ((s.sreg 2).setWidth 16) = true) :=
  ⟨⟨base_atS, by decide +kernel⟩, ⟨atS (by decide +kernel), by decide +kernel, by decide +kernel, by decide +kernel, ⟨_, rfl⟩, by decide +kernel⟩,
    atS (by decide +kernel), by decide +kernel⟩

/-- A launch block at 64 with its header at 128, one task whose record is written at 0x1000, priority 1, queue 1. -/
def launchBytes : List (Nat × Byte) :=
  [(64, 128), (73, 0x10), (88, 1), (96, 1), (100, 1), (132, 1), (140, 1), (168, 0x40)]

/-- Queue 1, OPEN. -/
def open1 : RQueue := { state := 1, base := 0x2000, rlog := 4, level := 1, ctx := 1 }

/-- Queue 1 OPEN, the launch block in memory, and s2 = 64. -/
def launching : State :=
  let s := poke (withS fun u => { u with regs := u.regs.set 2 64 }) launchBytes
  { s with disp := { s.disp with queues := [(1, open1)] } }

/-- What `QPUT` with s2 reads, and its own statuses. -/
def QputReads (s : State) (p : State → Record → Nat → Bool) : Prop :=
  AtS s 0 ∧ (s.sreg 2).toNat % 64 = 0 ∧ canonical (s.sreg 2).toNat = true ∧ s.performedAt (0, .stream .s) 4 = true ∧
    (let t0 := s.entered (.qput 0 4 2 1) { q := 0, a := 2, dest := 4 }
     (match t0.readVa (t0.whoOf 0 (.stream .s)) s.cycle 40 (s.sreg 2).toNat 64 with
      | .ok (t, bs) => p t (recordOf bs) (t.putStatus 1 (recordOf bs) (some (t.whoOf 0 (.stream .s)).ctx))
      | _ => false) = true)

/-- A record at address 64 of context 1, priority 1, whose launch is group 5 of module 1; s2 = 64, queue 1 as given. -/
def putting (s : State) (q : RQueue) : State :=
  let s := poke s [(64 + 48, 1), (64 + 50, 1), (64 + 52, 5), (64 + 54, 4)]
  { s with disp := { s.disp with queues := [(1, q)] } }.modCell 0 fun x => { x with s := { x.s with regs := x.s.regs.set 2 64 } }

/-- A module 0 of a torus of two, with port 0 UP, and a peer descriptor in tensor entry 0. -/
def linked : State :=
  let s := cell0 fun x => { x with tensors := x.tensors.set 0 (desc 0x8000 4 256 64 1 64), s := { x.s with regs := x.s.regs.set 2 256 } }
  { s with link := { s.link with dxm := 1, ports := s.link.ports.set 0 { en := true, state := 2 } } }

/-- WorkCreation: a record of no launch, put on a queue that is not OPEN; one of a launch of module 1 that a check of this module refuses,
one without a route, and one with one. -/
theorem witness_WorkCreation : qpOk 0 = true ∧ QputReads (withS fun u => { u with regs := u.regs.set 2 64 }) (fun t r _ => r.launchid = 0 && (t.queue 1).state ≠ 1) ∧
    QputReads (putting base {}) (fun t r st => r.launchid ≠ 0 && !t.homed r.launchid && st ≠ 0) ∧
    QputReads (putting base open1) (fun t r st => r.launchid ≠ 0 && !t.homed r.launchid && st = 0 && t.route (gidHome r.launchid) = none) ∧
    QputReads (putting linked open1) (fun t r st => r.launchid ≠ 0 && !t.homed r.launchid && st = 0 && t.route (gidHome r.launchid) = some 0 &&
      !t.routeHeld 0 (gidHome r.launchid) 0 3) :=
  ⟨by decide, ⟨atS (by decide +kernel), by decide +kernel⟩, ⟨atS (by decide +kernel), by decide +kernel⟩, ⟨atS (by decide +kernel), by decide +kernel⟩,
    atS (by decide +kernel), by decide +kernel⟩

/-- What LAUNCH with s2 reads first, and what holds of it. -/
def LaunchReads (s : State) (p : State → List Byte → List Byte → BitVec 512 → Bool) : Prop :=
  AtS s 0 ∧ s.performedAt (0, .stream .s) 4 = true ∧ ∃ t1 lb t2 hb t3 ob,
    (let f : Form := { q := 0, a := 2, dest := 4 }
     let t0 := s.entered (.launch 0 4 2) f; let u := s.entry (.launch 0 4 2) f
     t0.blockRead 0 (.stream .s) u (s.sreg 2).toNat 64 64 = .ok (t1, lb) ∧ t1.blockRead 0 (.stream .s) u (sext52 (bytesAt lb 0 8)) 64 1 = .ok (t2, hb) ∧
     t2.blockRead 0 (.stream .s) u (sext52 (bytesAt lb 48 8)) (16 * (bytesAt lb 56 1 % 32)) 1 = .ok (t3, ob)) ∧
    (lb.length = 64 ∧ hb.length = 64) ∧ p t3 lb ob (BitVec.ofNat 512 (leNat hb)) = true

/-- The launch has a free slot, its records are written without a fault, and the writes are performed at the home. -/
def created (t : State) (lb ob : List Byte) (h : BitVec 512) : Bool :=
  let graph : BitVec 32 := BitVec.ofNat 32 (bytesAt lb 40 4)
  match t.createGroup (Claims.launchGroup 1 lb ob h) with
  | some (gid, t4) =>
    let t5 := (t4.klive (Claims.launchGroup 1 lb ob h) 1).enterParent graph gid (bytesAt lb 44 4 / 65536) 0
    let w := (t5.enqueue (bytesAt lb 36 2) (bytesAt lb 24 4) { launch := gid, ceil := (launchRecord lb h 1 gid 0).ceiling }).writeRecords 0 (.stream .s) lb h gid 0 (bytesAt lb 24 4)
    w.2.isNone && w.1.performedAt (0, .stream .s) 4
  | none => false

theorem witness_LaunchCreated : LaunchReads launching fun t lb ob h =>
    bytesAt lb 40 4 = 0 && t.freeSlotOf = some 1 && t.launchStatus1 1 lb h = 0 && t.launchStatus2 1 lb = 0 && created t lb ob h :=
  ⟨atS (by decide +kernel), by decide +kernel, _, _, _, _, _, _, ⟨rfl, rfl, rfl⟩, by decide +kernel⟩

/-- WorkCreation: a launch at node 1 of graph 2, which this module holds. -/
theorem witness_LaunchInGraph :
    LaunchReads { poke launching [(64 + 40, 2), (64 + 43, 0x40), (64 + 46, 1)] with disp := { launching.disp with
      groups := [(2, { state := 0, level := 1, ctx := 1, node := 2 })] } } fun t lb ob h =>
      t.homed (BitVec.ofNat 32 (bytesAt lb 40 4)) && bytesAt lb 44 4 / 65536 = 1 && t.launchStatus1 1 lb h = 0 && t.launchStatus2 1 lb = 0 && created t lb ob h :=
  ⟨atS (by decide +kernel), by decide +kernel, _, _, _, _, _, _, ⟨rfl, rfl, rfl⟩, by decide +kernel⟩

theorem witness_LaunchNoQueue : LaunchReads { launching with disp := { launching.disp with queues := [] } } fun t lb _ h =>
    bytesAt lb 40 4 = 0 && t.launchStatus1 1 lb h = 0 && t.launchStatus2 1 lb = 1 :=
  ⟨atS (by decide +kernel), by decide +kernel, _, _, _, _, _, _, ⟨rfl, rfl, rfl⟩, by decide +kernel⟩

theorem witness_LaunchBadBlock : LaunchReads (withS fun u => { u with regs := u.regs.set 2 64 }) fun t lb _ h =>
    bytesAt lb 40 4 = 0 && t.launchStatus1 1 lb h = 4 :=
  ⟨atS (by decide +kernel), by decide +kernel, _, _, _, _, _, _, ⟨rfl, rfl, rfl⟩, by decide +kernel⟩

/-! ### Witnesses: groups, barriers, pages, links -/

theorem look_range {α : Type} (g : α) (n a k : Nat) (h : a ≤ k ∧ k < a + n) : look ((List.range' a n).map fun i => (i, g)) k = some g := by
  induction n generalizing a with
  | zero => omega
  | succ n ih =>
    simp only [List.range'_succ, List.map_cons, look]
    split
    · rfl
    · exact ih (a + 1) (by omega)

/-- A state whose group table is full, of graphs with one node; s2 = graph 1. -/
def full : State := { (withS fun u => { u with regs := u.regs.set 2 0x40000001 }) with disp := { base.disp with
  groups := (List.range' 0 (2 ^ 18)).map fun i => (i, { state := 0, level := 1, ctx := 1, node := 1 }) } }

theorem full_none (t : State) (h : t.disp.groups = full.disp.groups) : t.freeSlotOf = none := by
  unfold State.freeSlotOf
  simp only [List.find?_eq_none, List.mem_map]
  rintro k ⟨i, -, rfl⟩
  have h2 : (t.disp.lastSlot + i) % (2 ^ 18 - 1) < 2 ^ 18 - 1 := Nat.mod_lt _ (by omega)
  have h3 : look t.disp.groups ((t.disp.lastSlot + i) % (2 ^ 18 - 1) + 1) = some { state := 0, level := 1, ctx := 1, node := 1 } := by
    rw [h]; exact look_range _ _ _ _ (by omega)
  unfold State.groupAt
  rw [h3]
  decide

/-- An OPEN group of a level in slot 1 of context `ctx`. -/
def grouped (level : BitVec 2) (state : BitVec 3) (ctx : BitVec 16) (r2 : DWord) : State :=
  let s := withS fun u => { u with regs := u.regs.set 2 r2 }
  { s with disp := { s.disp with groups := [(1, { state := state, level := level, ctx := ctx })] } }

/-- GroupForms: OPEN of each level, of a full table and of a bad partition word. -/
theorem witness_GroupForms : (AtS base 0 ∧ qpOk 0 = true ∧ ((base.sreg 0).setWidth 32 : Word) = 0 ∧
      (∀ l : BitVec 2, (base.entered (.gctlOpen 0 4 0 l) { q := 0, a := 0, d := 4, dest := 4 }).freeSlotOf = some 1) ∧
      (full.entered (.gctlOpen 0 4 0 0) { q := 0, a := 0, d := 4, dest := 4 }).freeSlotOf = none ∧ (base.sreg 0).toNat < 2 ^ 25 ∧
      (∀ o, o = 0 ∨ o = 8 ∨ o = 16 → bitsAt (base.sreg 0).toNat o 4 ≤ bitsAt (base.sreg 0).toNat (o + 4) 4)) ∧
    (let s := withS fun u => { u with regs := u.regs.set 2 (2 ^ 25) }
     AtS s 0 ∧ 2 ^ 25 ≤ (s.sreg 2).toNat) :=
  ⟨⟨base_atS, by decide, by decide +kernel, by decide +kernel, full_none _ rfl, by decide +kernel, by
      rintro o (rfl | rfl | rfl) <;> decide +kernel⟩, atS (by decide +kernel), by decide +kernel⟩

/-- GroupForms: a launch under graph 1 (level 1) and a phase under partition 1 (level 3), each accepted, refused by a COMPLETE parent, and without a slot. -/
theorem witness_GroupParents : ∀ p, p = (1, 0, 0x40000001) ∨ p = (3, 2, 0xC0000001) →
    let f : Form := { q := 0, a := 2, d := 4, dest := 4 }
    let i := Instr.gctlOpen 0 4 2 (BitVec.ofNat 2 p.2.1)
    let g : Group := { state := 0, level := BitVec.ofNat 2 p.2.1, ctx := 1, parent := BitVec.ofNat 32 p.2.2 }
    let join := fun (t : State) => t.joinStatus (BitVec.ofNat 32 p.2.2) (p.2.1 + 1) 1 (if p.2.1 = 0 then 0 else t.joinKey 0)
    (∀ st, st = 0 ∨ st = 3 →
      let s := (grouped (BitVec.ofNat 2 p.1) (BitVec.ofNat 3 st) 1 (BitVec.ofNat 64 p.2.2)).setGroup 1 { state := BitVec.ofNat 3 st, level := BitVec.ofNat 2 p.1, ctx := 1, node := 1 }
      AtS s 0 ∧ (s.entered i f).homed ((s.sreg 2).setWidth 32) = true ∧ ((s.sreg 2).setWidth 32 = BitVec.ofNat 32 p.2.2) ∧
      (join (s.entered i f) = 0 ↔ st = 0) ∧ (st = 0 → ((s.entered i f).createGroup g).isSome = true)) := by
  rintro p (rfl | rfl) <;> rintro f i g join st (rfl | rfl) <;> exact ⟨atS (by decide +kernel), by decide +kernel⟩

/-- GroupForms: a launch under a graph when no slot is free. -/
theorem witness_GroupNoSlot : let t0 := full.entered (.gctlOpen 0 4 2 0) { q := 0, a := 2, d := 4, dest := 4 }
    AtS full 0 ∧ t0.homed ((full.sreg 2).setWidth 32) = true ∧ t0.joinStatus ((full.sreg 2).setWidth 32) 1 1 0 = 0 ∧ t0.freeSlotOf = none :=
  ⟨atS (by decide +kernel), by decide +kernel, by decide +kernel, full_none _ rfl⟩

/-- GroupForms: a graph block of two nodes and one edge. -/
theorem witness_GraphOpens :
    let s := poke (withS fun u => { u with regs := u.regs.set 2 64 }) [(68, 2), (72, 128), (80, 1), (130, 1)]
    let f : Form := { q := 0, a := 2, d := 4, dest := 4 }
    let t0 := s.entered (.gctlOpen 0 4 2 1) f; let u := s.entry (.gctlOpen 0 4 2 1) f
    AtS s 0 ∧ ∃ t1 gb t2 eb, (t0.blockRead 0 (.stream .s) u (s.sreg 2).toNat 32 32 = .ok (t1, gb) ∧
      t1.blockRead 0 (.stream .s) u (sext52 (bytesAt gb 8 8)) (4 * bytesAt gb 16 4) 1 = .ok (t2, eb)) ∧
      (bytesAt gb 0 4 = 0 ∧ bytesAt gb 20 12 = 0 ∧ bytesAt gb 8 8 < 2 ^ 52 ∧ 0 < bytesAt gb 4 4 ∧ bytesAt gb 4 4 ≤ 65536 ∧ bytesAt gb 16 4 ≤ 65536) ∧
      (∀ e ∈ edgesOf eb (bytesAt gb 16 4), e.1 < e.2 ∧ e.2 < bytesAt gb 4 4) ∧ t2.freeSlotOf = some 1 ∧ edgesOf eb (bytesAt gb 16 4) = [(0, 1)] ∧ eb.length = 4 * bytesAt gb 16 4 :=
  ⟨atS (by decide +kernel), _, _, _, _, ⟨rfl, rfl⟩, by decide +kernel⟩

/-- GroupForms: no group, one of another context, an OPEN job, a DRAINED one, a terminal one. -/
theorem witness_GroupStates : (∀ p, p = (2, 1) ∨ p = (1, 2) ∨ p = (0, 1) ∨ p = (2, 1) ∨ p = (3, 1) →
      let s := grouped 3 (BitVec.ofNat 3 p.1) (BitVec.ofNat 16 p.2) 0xC0000001
      let gid : BitVec 32 := (s.sreg 2).setWidth 32
      AtS s 0 ∧ gid ≠ 0 ∧ gidHome gid = s.moduleNumber ∧ (s.group gid).isSome = true ∧
        ((s.group gid).getD {}).ctx = BitVec.ofNat 16 p.2 ∧ (((s.group gid).getD {}).terminal = decide (p.1 = 3))) ∧
    (Instr.gctlClose 0 4 2 0).wellFormed = true ∧ base.group 5 = none ∧ gidHome 5 = base.moduleNumber := by
  refine ⟨?_, by decide +kernel⟩
  rintro p (rfl | rfl | rfl | rfl | rfl) <;> exact ⟨atS (by decide +kernel), by decide +kernel⟩

/-- BarrierForms: an IDLE and an ARMED barrier, a past epoch and a past time. -/
theorem witness_BarrierForms : (AtS base 0 ∧ qpOk 0 = true ∧ base.disp.arrivals = [] ∧ (base.barrier (256 + 255)).state = 0 ∧ base.sreg 2 ≠ 0 ∧
      base.performedAt (0, .stream .s) 4 = true ∧ ((base.barrier (256 + (base.sreg 0).toNat % 256)).epoch - (base.sreg 0).extractLsb' 16 16).toNat < 2 ^ 15 ∧
      base.sreg 0 ≤ base.time) ∧
    (let s := { base with disp := { base.disp with barriers := [(511, { state := 1, pend := 8, parts := 1 })] } }
     AtS s 0 ∧ s.disp.arrivals = [] ∧ (s.barrier (256 + 255)).state = 1) :=
  ⟨⟨base_atS, by decide +kernel⟩, atS (by decide +kernel), by decide +kernel⟩

/-- A page of context 1 in migration. -/
def migrating (state : SluiceState) (f : Nat) : Sluice :=
  { ctx := 1, va := 0x40000, pte := 0x14008, src := 0x40000, dst := 0x50000, f := f, state := state, cword := 0x70018 }

/-- What `MIGR` START with s2 reads. -/
def MigrReads (s : State) (pa : Nat) (p : Nat × Option (DWord × Nat) → Bool) : Prop :=
  let start := Instr.migrStart 0 4 2
  let f : Form := { q := 0, a := 2, dest := 4 }
  let t0 := s.entered start f
  AtS s 0 ∧ s.here.s.super = true ∧ t0.blockCheck (t0.whoOf 0 (.stream .s)) (s.sreg 2).toNat 32 = .ok pa ∧
    (match t0.blockRead 0 (.stream .s) (s.entry start f) (s.sreg 2).toNat 32 32 with | .ok (t, blk) => p (t.migrStatus 0 1 blk) | _ => false) = true

/-- The state of `MIGR`: SUPER, page 0x240000 of context 1 mapped to DRAM at 0x40000, a block at 64 that asks for 0x50000, s2 = 64. -/
def migrates : State :=
  poke (super.modCell 0 fun x => { x with s := { x.s with regs := x.s.regs.set 2 64 } })
    [(0x13008, 1), (0x13009, 0x40), (0x1300A, 1), (0x14020, 29), (0x14022, 4), (66, 0x24), (74, 5)]

/-- PageForms: a start that is refused and one that is accepted. -/
theorem witness_MigrStarts : qpOk 0 = true ∧ MigrReads migrates 64 (fun r => r.1 = 0 && r.2.isSome) ∧
    MigrReads { migrates with page := { migrates.page with sluice := List.replicate 64 { migrating .sluice 0 with va := 0x90000, src := 0x90000 } } } 64 (fun r => r = (4, none)) :=
  ⟨by decide, ⟨atS (by decide +kernel), by decide +kernel⟩, atS (by decide +kernel), by decide +kernel⟩

/-- PageForms: a page without an entry that a leaf maps, one that no leaf maps, and pages whose entry copies and does not. -/
theorem witness_PageForms :
    (AtS migrates 0 ∧ migrates.here.s.super = true ∧
      (let walk := fun va => (migrates.entered (.migrQuery 0 4 2) { q := 0, a := 2, dest := 4 }).walkFrom 0 1 va
       migrates.sluiceOf 1 0x240000 = none ∧ (∃ e large at_, walk 0x240000 = .leaf e large at_) ∧ migrates.sluiceOf 1 0 = none ∧ walk 0x2000000 = .notPresent)) ∧
    (∀ st, st = .sluice ∨ st = .switching →
      let s := { super with page := { super.page with sluice := [migrating st 511] } }.modCell 0 fun x => { x with s := { x.s with regs := x.s.regs.set 2 0x4FFFF } }
      AtS s 0 ∧ (∃ k e, s.sluiceOf 1 ((s.sreg 2).toNat / 65536 * 65536) = some (k, e) ∧ e.state = st ∧ e.f < 512)) := by
  refine ⟨⟨atS (by decide +kernel), by decide +kernel, by decide +kernel, ⟨_, _, _, rfl⟩, by decide +kernel⟩, ?_⟩
  rintro st (rfl | rfl) <;> exact ⟨atS (by decide +kernel), _, _, rfl, rfl, by decide⟩

/-- PageForms: an invalidation of every address, of a page and of a large page; nothing uses the range. -/
theorem witness_Invalidates : ∀ k : BitVec 2, k ≠ 3 →
    let r := invRange k.toNat (super.sreg 0).toNat
    let t0 := (super.entered (.invpg 0 0 k 9) { q := 0, a := 0 }).invalidate (cellsIn 9 0) 1 r
    AtS super 0 ∧ (Instr.invpg 0 0 k 9).wellFormed = true ∧ super.here.s.super = true ∧ (k = 2 ∨ canonical (super.sreg 0).toNat = true) ∧
      t0.usesRange (cellsIn 9 0) 1 r = false ∧ super.mem.pend = [] ∧ (∀ e ∈ super.page.sluice, e.ctx = 1 → overlaps e.va 65536 r.1 r.2 = false) ∧
      (∀ x ∈ super.disp.tasks, super.awaitsPage 1 r x.2 = false) ∧ super.cells.length = 192 ∧ super.quads.length = 48 := by
  intro k h
  have h4 : k = 0 ∨ k = 1 ∨ k = 2 := by revert h; revert k; decide
  rcases h4 with rfl | rfl | rfl <;> exact ⟨atS (by decide +kernel), by decide +kernel⟩

/-- LinkForms: a store of 8 bytes to module 1. -/
theorem witness_LinkForms : AtS linked 0 ∧ (Instr.pstf 0 3 0 2 0 3).wellFormed = true ∧
    (let B := (linked.sreg 2).toNat; let D := descOf (linked.here.tensors.getD (B % 256) 0)
     B < 2 ^ 20 ∧ D.may 8 = true ∧ D.blk = 0 ∧ (linked.sreg 0).toNat + 8 ≤ D.extent ∧ (D.base + (linked.sreg 0).toNat) % 2 ^ 64 % 8 = 0 ∧
       linked.inTorus (B / 256 % 4096) = true ∧ linked.route (B / 256 % 4096) = some 0) ∧
    linked.peerStores 0 < 256 ∧ linked.routeHeld 0 1 0 1 = false ∧ linked.here.res.task = none ∧ linked.group 0 = none :=
  ⟨atS (by decide +kernel), by decide +kernel⟩

/-- LinkForms: a current packet of 8 bytes, and none. -/
theorem witness_LinkPackets : (AtS base 0 ∧ base.here.s.packet = none ∧ base.here.trap.inTrap = false ∧ vectorOk base.here.trap.tvec = true) ∧
    (let s := cell0 fun x => { x with s := { x.s with packet := some 15 }, landing := x.landing.set 15 (some { packet := { sender := 0, scell := 0, tag := 0, ctx := 1, handler := 0, payload := List.replicate 8 7 }, held := true }) }
     AtS s 0 ∧ s.here.s.packet = some 15 ∧ s.performedDie (s.focus.1, .stream .s) = true ∧
       ∃ l, s.here.landing.getD 15 none = some l ∧ (s.sreg 0).toNat % 8 = 0 ∧ (s.sreg 0).toNat < l.packet.payload.length) :=
  ⟨⟨base_atS, by decide +kernel⟩, atS (by decide +kernel), by decide +kernel, by decide +kernel, _, rfl, by decide +kernel⟩

theorem okSome_of {α β : Type} {a : Acc (α × Option β)} (h : (match a with | .ok (_, some _) => true | _ => false) = true) : ∃ t l, a = .ok (t, some l) := by
  rcases a with ⟨t, l | l⟩ | t | _
  · cases h
  · exact ⟨t, l, rfl⟩
  · cases h
  · cases h

/-- Stream V runs with nothing queued. -/
def vRuns : State := cell0 fun x => { x with ev := { x.ev with started := true, fetching := true } }

/-- EngineStart: a start of M and C from the kernel's header, one from a start block, and one of a stream that runs. -/
theorem witness_EngineStart :
    (AtS running 0 ∧ (Instr.estart 0 0 6).wellFormed = true ∧
      (∀ st ∈ selected 6, (running.here.engine st).started = false ∨ (running.here.engine st).ended = true) ∧ running.performedAt (0, .stream .s) 3 = true ∧
      running.sreg 0 = 0 ∧ ∃ l, (selected 6).mapM ((running.entered (.estart 0 0 6) { q := 0, a := 0 }).headerStart 0) = some l) ∧
    (let s := withS fun u => { u with regs := u.regs.set 2 64 }
     AtS s 0 ∧ s.sreg 2 ≠ 0 ∧ (s.sreg 2).toNat % 64 = 0 ∧ addrCheck (s.sreg 2).toNat 64 = none ∧
       ∃ t l, (let t0 := s.entered (.estart 0 2 7) { q := 0, a := 2 }
         t0.readStarts (t0.whoOf 0 (.stream .s)) s.cycle (s.sreg 2).toNat (selected 7)) = .ok (t, some l)) ∧
    (AtS vRuns 0 ∧ (Instr.estart 0 0 1).wellFormed = true ∧ (∃ st ∈ selected 1, (vRuns.here.engine st).started = true ∧ (vRuns.here.engine st).ended = false) ∧
      vRuns.here.trap.inTrap = false ∧ vectorOk vRuns.here.trap.tvec = true) :=
  ⟨⟨atS (by decide +kernel), by decide +kernel, by decide +kernel, by decide +kernel, by decide +kernel, Option.isSome_iff_exists.mp (by decide +kernel)⟩,
    ⟨atS (by decide +kernel), by decide +kernel, by decide +kernel, by decide +kernel, okSome_of (by decide +kernel)⟩, atS (by decide +kernel), by decide +kernel⟩

/-- FormTraps: with predicate 2 false, `TRET` outside a handler in SUPER mode, and `ESTART` of the stream V that runs. -/
theorem witness_PredicatedTraps :
    let s := vRuns.modCell 0 fun x => { x with s := { x.s with preds := 0xFB, super := true } }
    AtS s 0 ∧ (Instr.tret 0b1010).wellFormed = true ∧ (Instr.estart 0b1010 0 1).wellFormed = true ∧ predHolds s.here.s.preds 0b1010 = false ∧
      s.here.trap.inTrap = false ∧ vectorOk s.here.trap.tvec = true ∧ s.here.s.super = true ∧
      ∃ st ∈ selected 1, (s.here.engine st).started = true ∧ (s.here.engine st).ended = false :=
  ⟨atS (by decide +kernel), by decide +kernel⟩

/-- TaskEndings: a task that has no save slot, and one whose stream V has not ended. -/
theorem witness_TaskWaits :
    (let s := { running with disp := { running.disp with contexts := [], tasks := [(0, { record := { ctxid := 1 }, va := 0x1000, state := .running, cell := some 0 })] } }
     AtS s 0 ∧ s.here.res.stop = none ∧ s.slotless s.focus.1 = true) ∧ (AtS vRuns 0 ∧ vRuns.here.enginesEnded = false) :=
  ⟨⟨atS (by decide +kernel), by decide +kernel⟩, atS (by decide +kernel), by decide +kernel⟩

/-- EngineStart: a stream without a loop, and one in a loop of 512 passes, before and behind its first pass. -/
theorem witness_Truncates : (AtS base 0 ∧ qpOk 0 = true ∧ (1 : BitVec 2) ≠ 0 ∧ (base.here.engine .v).started = false) ∧
    (let s := vRuns.modCell 0 fun x => { x with ev := { x.ev with loops := [{ first := 64, last := 72, trip := 512 }], queue := [{ pc := 64, word := 0, tag := 1 }] } }
     AtS s 0 ∧ (s.here.engine .v).started = true ∧ ∃ l, (s.here.engine .v).currentLoop (s.here.headBegun .v) = some l ∧ (255 : BitVec 8).toNat < l.trip ∧
       (s.sreg 2).toNat % 2 ^ 16 < l.trip) ∧
    (let s := vRuns.modCell 0 fun x => { x with ev := { x.ev with loops := [{ first := 64, last := 72, trip := 5 }], queue := [{ pc := 64, word := 0, tag := 1 }] } }
     AtS s 0 ∧ ∃ l, (s.here.engine .v).currentLoop (s.here.headBegun .v) = some l ∧ l.trip ≤ (5 : BitVec 8).toNat ∧ l.trip ≤ (s.sreg 2).toNat % 2 ^ 16) :=
  ⟨⟨base_atS, by decide +kernel⟩, ⟨atS (by decide +kernel), by decide +kernel, _, rfl, by decide, by decide +kernel⟩, atS (by decide +kernel), _, rfl, by decide +kernel⟩

/-! ### Witnesses: V -/

/-- The entry at the head of an engine's queue. -/
def entry0 : Entry := { pc := 64, word := 0x04031050 }

/-- Cell 0 with stream V at `entry0`; v2 holds 3 in lane 1 and v3 holds 2 in every lane. -/
def vAt (f : Cell → Cell) : State := { cell0 fun x => f { x with
    v := { x.v with preds := 0xFF, regs := (x.v.regs.set 2 (3 * 2 ^ 32)).set 3 (lineOf 32 64 fun _ => 2) }
    ev := { x.ev with started := true, fetching := true, queue := [entry0] } } with focus := (0, .stream .v) }

theorem vAt_head : AtHead (vAt id) .v entry0 := atHead (by decide +kernel)

/-- VArithmetic: an integer type, the last one, and a float type. -/
theorem witness_VArithmetic : AtHead (vAt id) .v entry0 ∧ predHolds (vAt id).here.v.preds 0b1111 = true ∧ qpOk 0b1111 = true ∧ (10 : BitVec 4) ≤ 10 ∧
    (tyOf 0).fmt.isSome = true ∧ (tyOf 10).fmt.isSome = false := ⟨vAt_head, by decide +kernel⟩

/-- VLaneResults: forms at the ends of their ranges. -/
theorem witness_VLaneResults : AtHead (vAt id) .v entry0 ∧ predHolds (vAt id).here.v.preds 0 = true ∧ qpOk 0 = true ∧ (Instr.vcmp 1 2 3 10 5).wellFormed = true ∧
    (Instr.vbit 0 1 2 0 5).wellFormed = true ∧ (2 : BitVec 2) ≠ 3 ∧ (Instr.vbcast 1 2 63 0).wellFormed = true ∧ (Instr.vbcast 1 2 255 2).wellFormed = true :=
  ⟨vAt_head, by decide +kernel⟩

/-- VConvertResults: a rounding and a stochastic conversion, reductions, and packs of a line and of its last part. -/
theorem witness_VConvertResults : AtHead (vAt id) .v entry0 ∧ (Instr.vcvt 1 2 0 0 0 0 0).wellFormed = true ∧ (Instr.vcvt 1 2 1 0 4 1 0).wellFormed = true ∧
    cvtWidth 0 = cvtWidth 8 ∧ (Instr.vcvt 1 2 0 0 0 0 8).wellFormed = true ∧ (Instr.vred 1 2 0 1).wellFormed = true ∧ (Instr.vred 1 2 5 1).wellFormed = true ∧
    (Instr.vred 1 2 0 0).wellFormed = true ∧ (tyOf 0).fmt.isSome = true ∧ (Instr.vpack 1 2 31 0).wellFormed = true ∧ (Instr.vunpk 1 2 0 7 6).wellFormed = true :=
  ⟨vAt_head, by decide +kernel⟩

/-- VTileAccesses: tile 127 is V's; a bound stream register, a bind of 4,095 lines. -/
theorem witness_VTileAccesses :
    let s := vAt fun x => { x with shutters := x.shutters.set 127 1, v := { x.v with affine := x.v.affine.set 7 { bound := true, count := 2, pos := 127 * 64 + 63 } } }
    AtHead s .v entry0 ∧ predHolds s.here.v.preds 0 = true ∧ qpOk 0 = true ∧ s.mem.poison = [] ∧ s.here.pad.wf = true ∧ s.here.shutter 127 = 1 ∧
      (Instr.vqnt 1 2 0 15 127).wellFormed = true ∧ (s.here.v.stream 7).bound = true ∧ s.here.shutter ((s.here.v.stream 7).pos / 64) = 1 ∧
      bitsAt (lane (s.here.v.reg 1) 0) 22 10 = 0 ∧ bitsAt (lane (s.here.v.reg 1) 0) 18 4 ≠ 15 :=
  ⟨atHead (by decide +kernel), by decide +kernel⟩

/-- VTileAccesses: 64 quantisation records with a valid multiplier at the end of tile 127. -/
theorem witness_Quantises :
    let s := vAt fun x => { x with shutters := x.shutters.set 127 1, pad := (List.range 64).map fun j => (127 * 16384 + 15 * 1024 + 16 * j + 3, 0x40) }
    AtHead s .v entry0 ∧ s.here.pad.wf = true ∧ s.here.shutter 127 = 1 ∧
      ∀ j, j < 64 → quantOk (BitVec.ofNat 128 (leNat (s.here.pad.readN (127 * 16384 + 15 * 1024 + 16 * j) 16))) = true :=
  ⟨atHead (by decide +kernel), by decide +kernel⟩

/-- VMasksAndFlow: an empty and a full stack, backward and forward branches, a pass that is the last one. -/
theorem witness_VMasksAndFlow : AtHead (vAt id) .v entry0 ∧ predHolds (vAt id).here.v.preds 0 = true ∧ qpOk 0 = true ∧ (Instr.vmpush 2 3 0 0 5).wellFormed = true ∧
    (vAt id).here.v.masks.length ≠ 16 ∧ (Instr.bru 1 4095).wellFormed = true ∧ (Instr.loopv 0 0 0x1FFF).wellFormed = true ∧
    (let s := vAt fun x => { x with v := { x.v with masks := List.replicate 16 5 } }
     AtHead s .v entry0 ∧ (∃ M r, s.here.v.masks = M :: r) ∧ (15 : BitVec 4).toNat < s.here.v.masks.length) :=
  ⟨vAt_head, by decide +kernel, by decide, by decide, by decide +kernel, by decide, by decide, atHead (by decide +kernel), ⟨_, _, rfl⟩, by decide +kernel⟩

/-- VpupdResults and VCouplingAndEnd: distinct registers; a token at its count, a tile of V and a FREE one. -/
theorem witness_VpupdResults : AtHead (vAt id) .v entry0 ∧ (vAt id).here.v.masks.length ≠ 16 ∧ (vAt id).here.v.regs.length = 64 ∧ (1 : BitVec 6) ≠ 3 ∧ (4 : BitVec 6) ≠ 3 ∧
    (4 : BitVec 6) ≠ 1 ∧ (Instr.vpupdSgd 1 2 3).wellFormed = true ∧ (Instr.vpupdMom 1 2 3 4).wellFormed = true :=
  ⟨vAt_head, by decide +kernel⟩

theorem witness_VCouplingAndEnd :
    let s := vAt fun x => { x with shutters := x.shutters.set 127 1, tokens := x.tokens.set 31 4095 }
    AtHead s .v entry0 ∧ predHolds s.here.v.preds 0 = true ∧ qpOk 0 = true ∧ (4095 : BitVec 12).toNat ≤ s.here.token 31 ∧ s.tokenTaken s.focus.1 .v 31 = false ∧
      s.here.token 0 < (1 : BitVec 12).toNat ∧ s.here.shutter 127 = 1 ∧ s.here.shutter 0 = 5 ∧ s.here.ev.wantsOwn = false ∧ (5 : BitVec 3) ≤ 5 ∧ (2 : BitVec 3) ≠ 1 ∧
      ((14 : BitVec 4) = 15 → s.here.s.super = true) :=
  ⟨atHead (by decide +kernel), by decide +kernel⟩

/-- VCouplingAndEnd: a token that S waits for, a FREE tile for which V waited while another stream had it, and a tile of M. -/
theorem witness_VWaits :
    let s := vAt fun x => { x with shutters := x.shutters.set 126 2, tokens := x.tokens.set 31 4095
                                   s := { x.s with iss := { x.s.iss with unfinished := [{ instr := .twait 0 5 31 0 1, word := 0, pc := 64 }], wait := some ⟨0, none, 0⟩ } } }
    let s := s.modCell 0 fun x => { x with ev := { x.ev with wantsOwn := true } }
    AtHead s .v entry0 ∧ (4095 : BitVec 12).toNat ≤ s.here.token 31 ∧ s.tokenTaken s.focus.1 .v 31 = true ∧ s.here.shutter 0 = 5 ∧ s.here.ev.wantsOwn = true ∧
      s.here.shutter 126 = 2 :=
  ⟨atHead (by decide +kernel), by decide +kernel⟩

/-! ### Witnesses: M and C -/

/-- Cell 0 with stream M at `entry0`; tensors 0 and 1 are dense INT8 of 32 by 32, 2 and 3 are empty BM8, 4 is empty CSR, 5 takes
drains in INT32, 6 is a parameter tensor of INT32; tiles 126 and 127 are M's. -/
def mAt (f : Cell → Cell) : State := { cell0 fun x => f { x with
    em := { x.em with started := true, fetching := true, queue := [entry0] }, shutters := (x.shutters.set 126 2).set 127 2
    tensors := [desc 0x8000 5 4 32 32 32, desc 0x8800 5 8 32 32 32, desc 0x8000 5 4 32 32 0 + 2 ^ 58, desc 0x8800 5 8 32 32 0 + 2 ^ 58,
      desc 0x8000 5 4 32 32 0 + 2 ^ 59, desc 0xA000 8 16 64 64 64, desc 0xF000 8 32 64 4 64] ++ List.replicate 249 0 } with focus := (0, .stream .m) }

theorem mAt_head : AtHead (mAt id) .m entry0 := atHead (by decide +kernel)
theorem mAt_free : Free (mAt id) .m 3 := free (by decide +kernel)

/-- MatrixProducts: two tiles of M, formats of one group; an accumulation of 255 and 127. -/
theorem witness_MatrixProducts : AtHead (mAt id) .m entry0 ∧ Free (mAt id) .m 3 ∧ operandTile 382 = some 126 ∧ operandTile 383 = some 127 ∧
    (mAt id).here.shutter 126 = 2 ∧ (mAt id).here.shutter 127 = 2 ∧
    (let x := { zeroMma with ta := 4, tb := 5 }
     (Instr.mmaExt 3 3 382 383 1 x).wellFormed = true ∧ x.la = 0 ∧ x.lb = 0 ∧ groupOf (tileFmt x.ta x.ua) = groupOf (tileFmt x.tb x.ub) ∧
       (x.kl = 0 ∨ 8 * x.kl.toNat ≤ 256)) ∧
    (∀ x ∈ [(255, 127), (0, 128)], x.1 < 256 ∧ x.2 < (256 : Nat)) ∧ (Stream.m ≠ .s) :=
  ⟨mAt_head, mAt_free, by decide +kernel⟩

set_option maxRecDepth 4000 in
/-- MatrixProducts: a command with no step begins. -/
theorem witness_Begins : ∃ t n, Begins (mAt id) .m entry0 (.mzero 3 0) t n ∧ (t.here.engine .m).queue.head? = some entry0 ∧ t.here.m.inject = none ∧
    (mAt id).focus.1 < t.cells.length ∧ t.focus = (mAt id).focus := ⟨mAt id, 1, rfl, by decide +kernel⟩

/-- Whether the steps of a command from `k` on, `n` of them, all answer. -/
def stepsB (step : Nat → State → Acc State) (n k : Nat) (s : State) : Bool :=
  match n with
  | 0 => true
  | n + 1 => match step k s with
    | .ok u => stepsB step n (k + 1) u
    | _ => false

theorem steps_of (step : Nat → State → Acc State) (n k : Nat) (s : State) (h : stepsB step n k s = true) : ∃ u, StepsTo step n k s u := by
  induction n generalizing k s with
  | zero => exact ⟨s, rfl⟩
  | succ n ih =>
    simp only [stepsB] at h
    split at h
    · rename_i u hu
      obtain ⟨v, hv⟩ := ih _ _ h
      exact ⟨v, u, hu, hv⟩
    · cases h

/-- What an `MMA` with the extension `q` on operands `a` and `e` asks of its state. -/
def mmaB (a e : BitVec 9) (q : MmaQ) : Bool :=
  let s := mAt id
  let oa := s.here.mOperand a (tileFmt q.ta q.ua) q.la q.rna; let ob := s.here.mOperand e (tileFmt q.tb q.ub) q.lb q.rnb
  let wide : Bool := fmtWidth oa.fmt = 16 ∨ fmtWidth ob.fmt = 16
  let kt := if wide then 128 else 256; let k := if q.kl = 0 then kt else 8 * q.kl.toNat
  let g := if wide then 1 else if oa.fmt = 9 ∧ ob.fmt = 9 then 4 else 2
  let m : Dense := { acc := 3, a := oa, b := ob, ora := origin entry0 q.ora, ork := origin entry0 q.ork, orb := origin entry0 q.orb
                     k := k, g := g, fresh := true, sat := q.sat = 1 }
  (s.here.closedTile .m [a, e]).isNone && oa.ok 2 0 && ob.ok 3 0 && decide (groupOf oa.fmt = groupOf ob.fmt) && oa.aligned m.ork && ob.aligned m.orb &&
    decide ((oa.tile.isSome = true ∨ ob.tile.isSome = true) → k ≤ kt) && stepsB (m.step 0) (k / g) 0 s

/-- MatrixProducts: an `MMA` of tiles with every step, and one of tensors with a short K. -/
theorem witness_MmaRuns : mmaB 382 383 zeroMma = true ∧ mmaB 0 1 { zeroMma with kl := 1 } = true ∧
    (Instr.mma 3 3 382 383 1).wellFormed = true ∧ (Instr.mmaExt 3 3 0 1 1 { zeroMma with kl := 1 }).wellFormed = true :=
  ⟨by decide +kernel, by decide +kernel, by decide, by decide⟩

/-- One output element, no origin. -/
def small : SparseQ := { zeroSparse with rq := 1, cq := 1 }

/-- The state in which the steps of a plan begin: empty row queues, its splits counted. -/
def planned (t : State) (p : Plan) : State :=
  let t1 := t.modCell 0 fun y => { y with m := { y.m with rowq := [], qnow := 0, qplaced := 0 } }
  t1.modCell 0 fun y => { y with m := { y.m with statSplit := y.m.statSplit + BitVec.ofNat 64 (p.parts.filter fun l => decide (1 < l.length)).length } }

/-- What a sparse command of kind `kind` on operands `a` and `e` asks of its state, in `small`. -/
def SparseRuns (kind : Nat) (a e : BitVec 9) : Prop :=
  let s := mAt id; let oa := s.here.mOperand a 1 0 0; let ob := s.here.mOperand e 1 0 0
  sparseOk kind oa ob 0 0 false s.here.detMode = true ∧ ∃ t pa pb, s.sparseHeaders s.focus.1 kind oa ob = .ok (t, some (pa, pb)) ∧
    (let m : Sparse := { kind := kind, acc := 2, a := oa, b := ob, pa := pa, pb := pb, ora := 0, orb := 0, r := 1, cc := 1, fresh := false, sat := false, det := s.here.detMode }
     ∃ t' p u, m.plan s.focus.1 t = some (t', p) ∧ (t'.cell s.focus.1).em = s.here.em ∧ (t'.cell s.focus.1).dbg = s.here.dbg ∧
       StepsTo (m.run p s.focus.1) (p.seqs.length + 1) 0 (planned t' p) u)

/-- The same as a test. -/
def sparseB (kind : Nat) (a e : BitVec 9) : Bool :=
  let s := mAt id; let oa := s.here.mOperand a 1 0 0; let ob := s.here.mOperand e 1 0 0
  sparseOk kind oa ob 0 0 false s.here.detMode && match s.sparseHeaders s.focus.1 kind oa ob with
    | .ok (t, some (pa, pb)) =>
      let m : Sparse := { kind := kind, acc := 2, a := oa, b := ob, pa := pa, pb := pb, ora := 0, orb := 0, r := 1, cc := 1, fresh := false, sat := false, det := s.here.detMode }
      match m.plan s.focus.1 t with
      | some (t', p) => decide ((t'.cell s.focus.1).em = s.here.em) && decide ((t'.cell s.focus.1).dbg = s.here.dbg) &&
        stepsB (m.run p s.focus.1) (p.seqs.length + 1) 0 (planned t' p)
      | none => false
    | _ => false

theorem sparse_runs {kind : Nat} {a e : BitVec 9} (h : sparseB kind a e = true) : SparseRuns kind a e := by
  unfold sparseB at h
  simp only [Bool.and_eq_true] at h
  obtain ⟨h1, h⟩ := h
  refine ⟨h1, ?_⟩
  split at h
  · rename_i t pa pb ht
    refine ⟨t, pa, pb, ht, ?_⟩
    split at h
    · rename_i t' p hp
      simp only [Bool.and_eq_true, decide_eq_true_eq] at h
      obtain ⟨u, hu⟩ := steps_of _ _ _ _ h.2
      exact ⟨t', p, u, hp, h.1.1, h.1.2, hu⟩
    · cases h
  · cases h

/-- SparseProducts: a BM8, a CSR and a scanned command of one output element. -/
theorem witness_SparseProducts : AtHead (mAt id) .m entry0 ∧ Free (mAt id) .m 3 ∧ (mAt id).here.m.rowValid = false ∧ (Instr.mspbExt 3 2 2 3 0 small).wellFormed = true ∧
    SparseRuns 0 2 3 ∧ SparseRuns 1 4 1 ∧ SparseRuns 2 0 1 :=
  ⟨mAt_head, mAt_free, by decide +kernel, by decide +kernel, sparse_runs (by decide +kernel), sparse_runs (by decide +kernel), sparse_runs (by decide +kernel)⟩

/-- The parts of a drain of accumulator 2. -/
def drainOf (s : State) (a : BitVec 9) (x : DrainQ) (q : Bool) (recs : List (BitVec 128)) : Drain :=
  { acc := 2, tile := operandTile a, d := s.here.descAt a, fmt := if (operandTile a).isSome then x.f.toNat else (s.here.descAt a).fmt
    q := q, cr := x.cr = 1, ak := x.ak.toNat, rm := x.rm.toNat, satf := x.satf = 1, rows := if x.rq = 0 then 64 else x.rq.toNat
    cols := if x.cq = 0 then 64 else x.cq.toNat, ord := origin entry0 x.ord, orc := origin entry0 x.orc, recs := recs }

/-- One element of INT8, quantised. -/
def drainX : DrainQ := { zeroDrain with f := 5, ak := 1, rq := 1, cq := 1 }

/-- `mAt` with quantisation records of a valid multiplier in tile 126. -/
def drainS : State := mAt fun x => { x with pad := [(126 * 16384 + 3, 0x40)] }

/-- RowSumsAndDrains: a drain of one element to a tile and one to a tensor. -/
theorem witness_Drains : AtHead (mAt id) .m entry0 ∧ Free (mAt id) .m 3 ∧ (mAt id).here.closedTile .m [383] = none ∧ (mAt id).here.closedTile .m [5] = none ∧
    (Instr.mdrainExt 3 2 383 drainX).wellFormed = true ∧ (Instr.mdrain 3 2 383).wellFormed = true ∧ (drainOf (mAt id) 383 zeroDrain false []).ok = true ∧
    (drainOf (mAt id) 383 drainX false []).ok = true ∧ (drainOf (mAt id) 5 drainX false []).ok = true ∧
    (∃ u, StepsTo ((drainOf (mAt id) 383 zeroDrain false []).step 0) 64 0 (mAt id) u) ∧
    (∃ u, StepsTo ((drainOf (mAt id) 383 drainX false []).step 0) 1 0 (mAt id) u) ∧ ∃ u, StepsTo ((drainOf (mAt id) 5 drainX false []).step 0) 1 0 (mAt id) u := by
  and_intros <;> first | exact mAt_head | exact mAt_free | exact steps_of _ _ _ _ (by decide +kernel) | decide +kernel

theorem drainS_reads : ∃ t bs, drainS.paramRead 0 382 16 = .ok (t, bs) ∧ (decide ((t.cell 0).em = drainS.here.em) && decide ((t.cell 0).dbg = drainS.here.dbg) &&
    let recs := [(BitVec.ofNat 128 (joinBits 8 (bs.take 16)) : BitVec 128)]
    recs.all quantOk && stepsB ((drainOf drainS 383 drainX true recs).step 0) 1 0 t) = true := by
  obtain ⟨⟨t, bs⟩, h, h2⟩ := ok_of (a := drainS.paramRead 0 382 16) (p := fun (t, bs) => decide ((t.cell 0).em = drainS.here.em) && decide ((t.cell 0).dbg = drainS.here.dbg) &&
    let recs := [(BitVec.ofNat 128 (joinBits 8 (bs.take 16)) : BitVec 128)]
    recs.all quantOk && stepsB ((drainOf drainS 383 drainX true recs).step 0) 1 0 t) (by decide +kernel)
  exact ⟨t, bs, h, h2⟩

/-- RowSumsAndDrains: a quantised drain of one element. -/
theorem witness_QuantisedDrain : AtHead drainS .m entry0 ∧ Free drainS .m 3 ∧ drainS.here.closedTile .m [383, 382] = none ∧
    (Instr.mdrainQ 3 2 383 382 (some drainX)).wellFormed = true ∧ (drainOf drainS 383 drainX true []).ok = true ∧ (operandTile 382).isSome = true ∧
    ∃ t bs, drainS.paramRead 0 382 16 = .ok (t, bs) ∧ (t.cell 0).em = drainS.here.em ∧ (t.cell 0).dbg = drainS.here.dbg ∧
      (let recs := [(BitVec.ofNat 128 (joinBits 8 (bs.take 16)) : BitVec 128)]
       (∀ r ∈ recs, quantOk r = true) ∧ ∃ u, StepsTo ((drainOf drainS 383 drainX true recs).step 0) 1 0 t u) := by
  obtain ⟨t, bs, h, h2⟩ := drainS_reads
  simp only [Bool.and_eq_true, decide_eq_true_eq, List.all_eq_true] at h2
  exact ⟨atHead (by decide +kernel), free (by decide +kernel), by decide +kernel, by decide +kernel, by decide +kernel, by decide, t, bs, h, h2.1.1, h2.1.2,
    h2.2.1, steps_of _ _ _ _ h2.2.2⟩

/-- The row reads and sums of `MRSUM` over tensor 1 with parameter `z`. -/
def sumStep (o : MOp) (z : List Nat) (f : BitVec 1) (k : Nat) (v : State) : Acc State :=
  (v.readRows (v.whoOf 0 (.stream .m)) (((List.range 4).filter fun j => 4 * k + j < o.d.dim 1).map fun j => o.req 0 (4 * k + j) 64) true).bind fun (v, rows) =>
    .ok (v.modCell 0 fun x => { x with m := { x.m with corr := corrStep (sextNat 32 (joinBits 8 z)) o.fmt (if k = 0 ∧ f = 0 then 0 else x.m.corr) rows } })

/-- A tensor of 32 columns and one row in entry 7. -/
def sumS : State := mAt fun x => { x with tensors := x.tensors.set 7 (desc 0x8800 5 8 32 1 32) }

/-- RowSumsAndDrains: a row sum of one row. -/
theorem witness_RowSum : AtHead sumS .m entry0 ∧ Free sumS .m 3 ∧ (let o := sumS.here.mOperand 7 5 0 0
    sumS.here.closedTile .m [6, 7] = none ∧ (Instr.mrsum 3 6 7 1).wellFormed = true ∧ o.tile = none ∧ o.ok 3 0 true = true ∧ groupOf o.fmt = some 1 ∧ o.d.dim 1 = 1 ∧
    (sumS.here.descAt 6).may 5 = true ∧
    ∃ t bs, sumS.paramRead 0 6 4 = .ok (t, bs) ∧ (t.cell 0).em = sumS.here.em ∧ (t.cell 0).dbg = sumS.here.dbg ∧ ∃ u, StepsTo (sumStep o bs 1) 1 0 t u) := by
  obtain ⟨⟨t, bs⟩, h, h2⟩ := ok_of (a := sumS.paramRead 0 6 4) (p := fun (t, bs) => decide ((t.cell 0).em = sumS.here.em) && decide ((t.cell 0).dbg = sumS.here.dbg) &&
    stepsB (sumStep (sumS.here.mOperand 7 5 0 0) bs 1) 1 0 t) (by decide +kernel)
  simp only [Bool.and_eq_true, decide_eq_true_eq] at h2
  exact ⟨atHead (by decide +kernel), free (by decide +kernel), by decide +kernel, by decide +kernel, by decide +kernel, by decide +kernel, by decide +kernel, by decide +kernel,
    by decide +kernel, t, bs, h, h2.1.1, h2.1.2, steps_of _ _ _ _ h2.2⟩

/-- EngineControls: M and C at their heads, a tile of each, a token at its count. -/
theorem witness_EngineControls : ∀ st, st = Stream.m ∨ st = .c →
    let s := mAt fun x => { x with tokens := x.tokens.set 31 4095, shutters := (x.shutters.set 126 2).set 125 3, ec := x.em }
    AtHead s st entry0 ∧ Free s st 3 ∧ s.performedDie (s.focus.1, .stream st) = true ∧ s.here.shutter (if st = .m then 126 else 125) = (if st = .m then 2 else 3) ∧
      s.here.shutter 0 = 5 ∧ (s.here.engine st).wantsOwn = false ∧ (4095 : BitVec 12).toNat ≤ s.here.token 31 ∧
      s.tokenTaken s.focus.1 st 31 = false ∧ (63 : BitVec 6) ≠ 0 := by
  rintro st (rfl | rfl) <;> exact ⟨atHead (by decide +kernel), free (by decide +kernel), by decide +kernel⟩

/-- Cell 0 with stream C at `entry0`; tensor 0 is read and 1 written in UINT8, 2 is a list, 3 is BM8 and 4 CSR with headers of zeros,
5 is VQ of bank 0, 6 a codebook, 7 is written in FP16; tiles 126 and 127 are C's; task 0 runs a kernel of one handler; the module
is 0 of a ring of two, both ports UP. -/
def cAt (f : Cell → Cell) : State :=
  let s := cell0 fun x => f { x with
    ec := { x.ec with started := true, fetching := true, queue := [entry0] }, shutters := (x.shutters.set 126 3).set 127 3
    c := { x.c with banks := x.c.banks.set 0 (5, true) }, res := { x.res with task := some 0 }
    tensors := [desc 0x8000 6 1 32 4 32, desc 0x9000 6 2 32 4 32, desc 0xA000 8 64 16 1 16, desc 0xB000 6 3 32 4 0 + 2 ^ 58,
      desc 0xC000 6 3 32 4 0 + 2 ^ 59, desc 0xD000 1 1 32 4 32 + 3 * 2 ^ 58, desc 0xE000 2 128 256 4 256, desc 0xF000 1 2 32 4 32] ++ List.replicate 248 0 }
  { s with focus := (0, .stream .c), link := { s.link with dxm := 1, ports := (s.link.ports.set 0 { en := true, state := 2 }).set 1 { en := true, state := 2 } }
           disp := { s.disp with tasks := [(0, { record := { ctxid := 1 }, va := 0x1000, state := .running, cell := some 0, slot := some 0
                                                 kernel := some (0x100, header + 2 ^ 448 * 64 + 2 ^ 480) })] } }

theorem cAt_head : AtHead (cAt id) .c entry0 := atHead (by decide +kernel)
theorem cAt_free : Free (cAt id) .c 3 := free (by decide +kernel)

/-- TileCommands: two tiles of C. -/
theorem witness_TileCommands : AtHead (cAt id) .c entry0 ∧ Free (cAt id) .c 3 ∧ (cAt id).here.pad.wf = true ∧ operandTile 382 = some 126 ∧ operandTile 383 = some 127 ∧
    (cAt id).here.shutter 126 = 3 ∧ (cAt id).here.shutter 127 = 3 := ⟨cAt_head, cAt_free, by decide +kernel⟩

/-- A gather or scatter of three rows under list 2. -/
def listed : RowQ := ⟨2, 3, 0, 0, 0, 0⟩

/-- CopyAndDecode: a copy and an encoding of a tensor, gathers of tensors and a scatter from a tile. -/
theorem witness_CopyCommands :
    let s := cAt id; let x := s.here; let h := entry0; let w := (encode (.mzero 3 0)).headD 0
    AtHead s .c h ∧ Free s .c 3 ∧ (∀ p ∈ ([(1, 0), (383, 0), (1, 382), (3, 0), (4, 382)] : List (BitVec 9 × BitVec 9)), x.closedTile .c [p.1, p.2] = none) ∧
    (Instr.copyF 3 1 0 0 w).wellFormed = true ∧ injectedUnbounded w = false ∧ (x.copyPlan h 1 0 0 zeroCopy).ok = true ∧
    (∃ u, StepsTo ((x.copyPlan h 1 0 0 zeroCopy).step 0) (x.copyPlan h 1 0 0 zeroCopy).rows 0 s u) ∧
    (Instr.gath 3 383 0 listed).wellFormed = true ∧ (x.movePlan h true 383 0 listed).ok = true ∧
    (∃ u, StepsTo ((x.movePlan h true 383 0 listed).step 0) (x.movePlan h true 383 0 listed).count 0 s u) ∧
    (Instr.scat 3 1 382 listed).wellFormed = true ∧ (x.movePlan h false 1 382 listed).ok = true ∧
    (∃ u, StepsTo ((x.movePlan h false 1 382 listed).step 0) (x.movePlan h false 1 382 listed).count 0 s u) ∧
    (∀ d e, (d, e) ∈ [(3, 0), (4, 382)] → (x.encPlan h d e ⟨0, 0⟩).ok = true ∧
      ∃ u, StepsTo ((x.encPlan h d e ⟨0, 0⟩).step 0) (x.encPlan h d e ⟨0, 0⟩).steps 0 s u) := by
  refine ⟨cAt_head, cAt_free, ?_, by decide +kernel, by decide +kernel, by decide +kernel, steps_of _ _ _ _ (by decide +kernel), by decide +kernel,
    by decide +kernel, steps_of _ _ _ _ (by decide +kernel), by decide +kernel, by decide +kernel, steps_of _ _ _ _ (by decide +kernel), ?_⟩
  · intro p hp
    simp only [List.mem_cons, List.not_mem_nil, or_false] at hp
    rcases hp with rfl | rfl | rfl | rfl | rfl <;> decide +kernel
  intro d e h
  simp only [List.mem_cons, Prod.mk.injEq, List.not_mem_nil, or_false] at h
  rcases h with ⟨rfl, rfl⟩ | ⟨rfl, rfl⟩ <;> exact ⟨by decide +kernel, steps_of _ _ _ _ (by decide +kernel)⟩

/-- CopyAndDecode: a fill of tensor 1. -/
theorem witness_Fills : let s := cAt id; let D := s.here.descAt 1
    AtHead s .c entry0 ∧ Free s .c 3 ∧ (operandTile 1).isNone = true ∧ D.may 1 = true ∧ D.blk = 0 ∧
    ∃ u, StepsTo (fillStep 0 none D 7) ((fmtWidth (fullFmt D.fmt) * (D.dim 0 * D.rowCount) + 2047) / 2048) 0 s u :=
  ⟨cAt_head, cAt_free, by decide +kernel, by decide +kernel, by decide +kernel, steps_of _ _ _ _ (by decide +kernel)⟩

/-- CopyAndDecode: a clone, a clearing, and the last 16 entries of bank 1 loaded. -/
theorem witness_CloneAndBook :
    let s := cAt id; let x := s.here; let D := x.descAt 1; let S := x.descAt 0; let raw := x.tensors.getD 6 0
    (operandTile 1).isNone = true ∧ D.compact = true ∧ D.may 1 = true ∧ S.compact = true ∧ S.may 0 = true ∧ S.fmt = D.fmt ∧ S.dims = D.dims ∧
    s.inDram (s.whoOf 0 (.stream .c)) D.base ((D.arrayBits + 7) / 8) = .ok true ∧ s.inDram (s.whoOf 0 (.stream .c)) S.base ((S.arrayBits + 7) / 8) = .ok true ∧
    (∃ u, StepsTo (cloneStep 0 D (some S)) ((D.arrayBits + 65535) / 65536) 0 s u) ∧ (∃ u, StepsTo (cloneStep 0 D none) ((D.arrayBits + 65535) / 65536) 0 s u) ∧
    (Instr.cbload 3 1 6 15 1).wellFormed = true ∧ (descOf raw).bookOk 16 = true ∧
    (∃ u, StepsTo (fun _ s => (s.loadBook (s.whoOf 0 (.stream .c)) 1 (descOf raw) 240 16).bind fun (s, sb) =>
        .ok ((s.cAccount 0 sb 0).modCell 0 fun y => { y with c := { y.c with lastLoad := y.c.lastLoad.set 1 (some ⟨raw, 240, 16⟩) } })) 1 0 s u) := by
  and_intros <;> first | exact steps_of _ _ _ _ (by decide +kernel) | decide +kernel

/-- The steps of a packed decoding of operand `e` to a tile. -/
def decB (e : BitVec 9) : Bool :=
  let s := cAt id; let m := s.decPlan 0 entry0 383 e zeroDec
  m.ok && decide (m.d.blk ≠ 3) && match s.engineBytes 0 .c m.d.base 32 with
  | .ok (t, hb) => decide ((t.cell 0).ec = s.here.ec) && decide ((t.cell 0).dbg = s.here.dbg) &&
    match (if m.d.blk = 1 then bm8Header m.d 1 hb else (csrHeader m.d hb).map fun p => { p with opnd := 1 }) with
    | some p => stepsB ({ m with p := some p }.step 0) (if m.d.blk = 1 then (m.rows + 7) / 8 else m.rows) 0 t
    | none => false
  | _ => false

/-- What a packed decoding of operand `e` to a tile asks of its state. -/
def DecRuns (e : BitVec 9) : Prop :=
    let s := cAt id; let m := s.decPlan 0 entry0 383 e zeroDec
    m.ok = true ∧ m.d.blk ≠ 3 ∧ ∃ t hb p, s.engineBytes 0 .c m.d.base 32 = .ok (t, hb) ∧ (t.cell 0).ec = s.here.ec ∧ (t.cell 0).dbg = s.here.dbg ∧
      (if m.d.blk = 1 then bm8Header m.d 1 hb else (csrHeader m.d hb).map fun p => { p with opnd := 1 }) = some p ∧
      ∃ u, StepsTo ({ m with p := some p }.step 0) (if m.d.blk = 1 then (m.rows + 7) / 8 else m.rows) 0 t u

theorem dec_runs {e : BitVec 9} (h : decB e = true) : DecRuns e := by
  simp only [decB, Bool.and_eq_true, decide_eq_true_eq] at h
  obtain ⟨⟨h1, h2⟩, h⟩ := h
  refine ⟨h1, h2, ?_⟩
  split at h
  · rename_i t hb ht
    simp only [Bool.and_eq_true, decide_eq_true_eq] at h
    obtain ⟨⟨h3, h4⟩, h⟩ := h
    split at h
    · rename_i p hp
      exact ⟨t, hb, p, ht, h3, h4, hp, steps_of _ _ _ _ h⟩
    · cases h
  · cases h

/-- CopyAndDecode: decodings of VQ, BM8 and CSR. -/
theorem witness_DecRuns : AtHead (cAt id) .c entry0 ∧ Free (cAt id) .c 3 ∧ (Instr.dec 3 383 5).wellFormed = true ∧
    (∀ e ∈ [3, 4, (5 : BitVec 9)], (cAt id).here.closedTile .c [383, e] = none) ∧
    (let m := (cAt id).decPlan 0 entry0 383 5 zeroDec
     m.ok = true ∧ m.d.blk = 3 ∧ ∃ u, StepsTo (m.step 0) m.rows 0 (cAt id) u) ∧ DecRuns 3 ∧ DecRuns 4 :=
  ⟨cAt_head, cAt_free, by decide +kernel, by decide +kernel, ⟨by decide +kernel, by decide +kernel, steps_of _ _ _ _ (by decide +kernel)⟩, dec_runs (by decide +kernel), dec_runs (by decide +kernel)⟩

/-- LinkCommands: a packet to module 1, a collective that has not sent, a barrier's arrival. -/
theorem witness_LinkCommands :
    let s := cAt id; let kern := s.kernelOf 0
    AtHead s .c entry0 ∧ Free s .c 3 ∧ (Instr.land 3 126 0 31 0 ⟨1, 0, 0, 191, 4095⟩).wellFormed = true ∧ (0 : Nat) < bitsAt kern.2.toNat 480 4 ∧
    (s.here.shutter 126 = 3 ∧ s.here.shutter 127 = 3) ∧ s.performedAt (0, .stream .c) 4 = true ∧ s.inTorus 1 = true ∧ s.route 1 = some 0 ∧ s.routeHeld 0 1 0 2 = false ∧
    (∃ r, s.engineBytes 0 .c (kern.1 + hdrField kern.2 56 0 32 + 0) 4 = .ok r ∧
      decide ((r.1.cell 0).pad = s.here.pad ∧ r.1.mem.poison = [] ∧ r.1.mem.uncorr = [] ∧ (r.1.cell 0).ec = s.here.ec ∧ r.1.focus = s.focus ∧ r.1.cells.length = s.cells.length) = true) ∧
    (Instr.coll 3 126 127 0 ⟨3, 9, 63⟩).wellFormed = true ∧ s.here.ec.progress = (0, 0) ∧ s.collDown 0 0 = none ∧ s.routeHeld 0 (s.neighbour 0) 0 3 = false ∧ s.here.c.chunks = [] ∧
    s.mem.poison = [] ∧ s.mem.uncorr = [] ∧
    (Instr.cbar 3 255 2 2047).wellFormed = true := by
  and_intros <;> first | exact cAt_head | exact cAt_free | exact ok_of (by decide +kernel) | decide +kernel

/-- LinkCommands: a collective whose chunk has come. -/
theorem witness_Chunk :
    let q : Chunk := { port := 1, ctx := 1, tag := 9, lines := [5, 6], bad := [] }
    let s := cAt fun x => { x with ec := { x.ec with progress := (1, 0) }, c := { x.c with chunks := [q] } }
    AtHead s .c entry0 ∧ Free s .c 3 ∧ (Instr.coll 3 126 127 0 ⟨1, 9, 1⟩).wellFormed = true ∧ s.here.shutter 126 = 3 ∧ s.here.shutter 127 = 3 ∧ s.here.ec.progress.1 = 1 ∧
    s.collDown 0 0 = none ∧ s.here.c.chunks = [q] ∧ q.port.toNat = otherWay 0 ∧ q.ctx = s.here.res.ctx ∧ ∃ v, StepsTo (fun k s => collStep 0 126 127 1 k q s) 2 0 s v := by
  and_intros <;> first | exact atHead (by decide +kernel) | exact free (by decide +kernel) | exact steps_of _ _ _ _ (by decide +kernel) | decide +kernel

/-- LinkCommands: collectives whose port is DOWN, at their issue and while they wait. -/
theorem witness_CollDown : ∀ p, p = ((0, 0), 2) ∨ p = ((2, 1), 0) →
    let s := cAt fun x => { x with ec := { x.ec with progress := p.1 } }
    AtHead s .c entry0 ∧ Free s .c 3 ∧ s.here.shutter 126 = 3 ∧ s.here.shutter 127 = 3 ∧ (s.collDown 0 p.2).isSome = true := by
  rintro p (rfl | rfl) <;> exact ⟨atHead (by decide +kernel), free (by decide +kernel), by decide +kernel⟩

/-- EngineTrapsAndWaits: a tile that V has not, a full and an empty stack, a FORMAT of C, a tile that C has not. -/
theorem witness_EngineTrapsAndWaits : AtHead (vAt id) .v entry0 ∧ predHolds (vAt id).here.v.preds 0 = true ∧ qpOk 0 = true ∧ (vAt id).here.shutter 127 ≠ 1 ∧
    (Instr.vmpush 1 2 0 0 5).wellFormed = true ∧ (vAt id).here.v.masks = [] ∧ (vAt id).here.v.masks.length ≤ (0 : BitVec 4).toNat ∧ (vAt id).here.s.super = false ∧
    (let s := vAt fun x => { x with v := { x.v with masks := List.replicate 16 5 } }
     AtHead s .v entry0 ∧ s.here.v.masks.length = 16) ∧
    AtHead (cAt id) .c entry0 ∧ Free (cAt id) .c 3 ∧ (Instr.copy 3 383 382 1).wellFormed = true ∧ (cAt id).here.closedTile .c [383, 382] = none ∧
    ((cAt id).here.copyPlan entry0 383 382 1 zeroCopy).ok = false ∧ operandTile 256 = some 0 ∧ (cAt id).here.shutter 0 ≠ 3 := by
  and_intros <;> first | exact atHead (by decide +kernel) | exact free (by decide +kernel) | decide +kernel

/-! ### Witnesses: events of a cell -/

/-- `mAt` with `MZERO` of tiles 0 and 2 in the injection slot. -/
def injecting : State := mAt fun x => { x with m := { x.m with acc := List.replicate 256 7, inject := some { pc := 128, word := (encode (.mzero 3 5)).headD 0, inj := true } } }

/-- `vAt` with no entry queued and `VEND` in the instruction cache at the fetch counter. -/
def fetching : State := (vAt fun x => { x with icache := [((1, 0x100), (encode (.vend 0)).headD 0)] }).modCell 0 fun x => { x with ev := { x.ev with queue := [], fpc := 0x100 } }

/-- Engine M with one command in progress, engine C with another. -/
def inProgress (m c : Instr) (slot : Option Entry) : State :=
  (mAt fun x => { x with ec := { x.ec with inprog := [{ instr := c, entry := entry0 }] }, m := { x.m with inject := slot, openTiles := 5 } }).modCell 0 fun x =>
    { x with em := { x.em with inprog := [{ instr := m, entry := entry0 }] } }

/-- S of cell 0 at an instruction, raised a trap. -/
def unfinishedS (i : Instr) (t : Option TrapInfo) (w : Option SWait) : State :=
  { withS fun u => { u with iss := { u.iss with unfinished := [{ instr := i, word := (encode i).headD 0, pc := 64, trap := t, dest := 4 }], wait := w } } with cycle := 100 }

/-- An engine trap that waits for S. -/
def pendingM : State := cell0 fun x => { x with trap := { x.trap with pending := [⟨.m, ⟨0x19, 0⟩, 5⟩] } }

/-- M at its head with an open tile, beyond its limit. -/
def limited : State := { mAt fun x => { x with m := { x.m with openTiles := 1 }, res := { x.res with maxred := 50 } } with cycle := 51 }

/-- QueueEvents: a command in the injection slot; a cached word behind an empty queue; commands in progress. -/
theorem witness_QueueEvents :
    (let s := injecting; let x := s.cell 0
     0 < s.cells.length ∧ s.mayRun 0 (.stream .m) = true ∧ s.mem.uncorr = [] ∧ (∃ e, x.m.inject = some e ∧ e.held = none ∧ decode .m e.word e.ext = .instr (.mzero 3 5)) ∧
       x.m.rowValid = false ∧ x.em.nextStep = 0 ∧ x.em.table = none ∧ x.em.inprog = [] ∧ x.m.injectHeld = false ∧ x.em.quiesced = false) ∧
    (let s := fetching; let x := s.cell 0; let g := x.engine .v; let w := (encode (.vend 0)).headD 0
     s.mayRun 0 (.stream .v) = true ∧ g.mayFetch .v = true ∧ State.fetchWord.look' x.icache (x.res.ctx, g.fpc) = some w ∧ hasExtension .v w = false ∧
       decode .v w 0 = .instr (.vend 0) ∧ loopOf g.fpc (.vend 0) = none) ∧
    (∀ m c slot, ((inProgress m c slot).cell 0).em.inprog = { instr := m, entry := entry0 } :: [] ∧ ((inProgress m c slot).cell 0).ec.inprog = { instr := c, entry := entry0 } :: [] ∧
      ((inProgress m c slot).cell 0).m.inject = slot) :=
  ⟨⟨by decide +kernel, by decide +kernel, by decide +kernel, ⟨_, rfl, by decide +kernel⟩, by decide +kernel⟩, by decide +kernel, fun _ _ _ => ⟨rfl, rfl, rfl⟩⟩

/-- TrapsTaken: a load whose access traps, and a trap of M that waits. -/
theorem witness_TrapsTaken :
    (let s := unfinishedS (.ld 3 0 4 2 0) (some ⟨0x21, 5⟩) none; let x := s.cell 0
     s.mayRun 0 (.stream .s) = true ∧ x.trap.inTrap = false ∧ vectorOk x.trap.tvec = true ∧ (∃ w, x.s.iss.unfinished = [w] ∧ w.trap = some ⟨0x21, 5⟩ ∧ isBranch w.instr = false) ∧
       x.s.iss.replay = []) ∧
    (let s := pendingM; let x := s.cell 0
     s.mayRun 0 (.stream .s) = true ∧ x.trap.inTrap = false ∧ vectorOk x.trap.tvec = true ∧ x.trap.pending = [⟨.m, ⟨0x19, 0⟩, 5⟩] ∧ x.s.iss.unfinished = []) :=
  ⟨⟨by decide +kernel, by decide +kernel, by decide +kernel, ⟨_, rfl, by decide +kernel⟩, by decide +kernel⟩, by decide +kernel⟩

/-- BoundsAndWaits: a wait of 50 cycles under a bound of 40, and one whose token has come. -/
theorem witness_WaitsOfS : ∀ i, i = Instr.twait 0 14 3 0 5 ∨ i = .waitt 0 4 3 5 ∨ i = .barrWait 0 4 3 5 → ∀ n, n = 0 ∨ n = 5 →
    let s := (unfinishedS i none (some ⟨50, some 40, 77⟩)).modCell 0 fun x => { x with tokens := x.tokens.set 3 n }; let x := s.cell 0
    s.mayRun 0 (.stream .s) = true ∧ s.mem.uncorr = [] ∧ x.s.iss.wait = some ⟨50, some 40, 77⟩ ∧ 50 + 40 < s.cycle ∧
      (∃ u, x.s.iss.unfinished = [u] ∧ u.instr = i ∧ u.trap = none ∧ u.dest = 4 ∧ u.value = none ∧ u.opa ≤ s.time ∧
        ((s.barrier (x.res.ctx.toNat * 256 + u.opa.toNat % 256)).epoch - u.opa.extractLsb' 16 16).toNat < 2 ^ 15) ∧
      x.s.iss.replay = [] ∧ x.s.iss.acquire = false ∧ x.token 3 = n.toNat ∧ x.trap.inTrap = false ∧ vectorOk x.trap.tvec = true := by
  rintro i (rfl | rfl | rfl) n (rfl | rfl) <;> exact ⟨by decide +kernel, by decide +kernel, by decide +kernel, by decide +kernel, ⟨_, rfl, by decide +kernel⟩, by decide +kernel⟩

/-- BoundsAndWaits: a reduction whose `MMA` is in progress after 3 steps. -/
theorem witness_ReductionInside :
    let k : Command := { instr := .mma 3 3 382 383 1, entry := entry0, next := 3 }
    let s := limited.modCell 0 fun x => { x with em := { x.em with inprog := [k] } }; let x := s.cell 0
    s.mayRun 0 (.stream .m) = true ∧ x.em.started = true ∧ x.em.ended = false ∧ x.em.stopped = false ∧ x.em.quiesced = false ∧ x.m.inject = none ∧
      x.em.nextStep = 0 ∧ x.res.maxred.toNat < s.cycle - x.m.retiredAt ∧ x.em.inprog = [] ++ [k] ∧ stopsInside k.instr = true := by decide +kernel

/-- BoundsAndWaits: a reduction of 51 cycles under a limit of 50; a load of V whose tile has come. -/
theorem witness_EngineBounds :
    (let s := limited; let x := s.cell 0
     s.mayRun 0 (.stream .m) = true ∧ x.em.started = true ∧ x.em.ended = false ∧ x.em.stopped = false ∧ x.em.quiesced = false ∧ x.m.openTiles ≠ 0 ∧ x.em.inprog = [] ∧
       x.m.inject = none ∧ x.em.nextStep = 0 ∧ x.em.queue.head? = some entry0 ∧ x.res.maxred.toNat < s.cycle - x.m.retiredAt) ∧
    (let h : Entry := { pc := 64, word := (encode (.vld 0 7 127 63 0)).headD 0 }
     let s := (vAt fun x => { x with shutters := x.shutters.set 127 1 }).modCell 0 fun x => { x with ev := { x.ev with queue := [h] } }; let x := s.cell 0
     s.mayRun 0 (.stream .v) = true ∧ s.mem.uncorr = [] ∧ s.mem.poison = [] ∧ x.ev.queue.head? = some h ∧ decode .v h.word h.ext = .instr (.vld 0 7 127 63 0) ∧ h.held = none ∧
       x.ev.started = true ∧ x.ev.ended = false ∧ x.ev.stopped = false ∧ x.ev.quiesced = false ∧ x.ev.table = none ∧ x.shutter 127 = 1) := by decide +kernel

/-! ### Witnesses: events of memory -/

/-- A message of two bytes for die 1. -/
def messaging : State := { base with mem := { base.mem with pend := [⟨1, 0, 0, (0, .stream .s), [1, 0, 0, 0], [{ addr := 0x40, bytes := [1, 2] }, { addr := 0x80, bytes := [3], mask := [15] }]⟩] } }

/-- The first tile of cell 0 is V's. -/
def closedPad : State := cell0 fun x => { x with shutters := x.shutters.set 0 1 }

/-- A host's access of the window that is out since cycle 0, and its register write. -/
def windowed : State := { cell0 fun x => { x with winRegs := [⟨hostAgent, 0x230000, 8, some (leBytes 8 64), 0, none⟩], winWaits := [⟨hostAgent, 0, 8, some (leBytes 8 64), 0, none⟩] } with cycle := 2 ^ 20 }

/-- The hotness table at 0, its period over. -/
def hot : State := { base with page := { base.page with hotEn := true, decay := 1 }, cycle := 2 ^ 20 }

/-- WindowsAndViews: a message that may be applied; the last 8 bytes of the window and a tile that waits; a register write and a timeout. -/
theorem witness_WindowsAndViews :
    (let s := messaging
     ∃ w, (s.mem.pend.filter fun w => w.dst = 1)[0]? = some w ∧ s.mem.ready w = true ∧ 1 < s.mem.views.length ∧ (s.mem.views.getD 1 []).wf = true ∧
       (∀ p ∈ w.parts, p.mask = [] ∨ p.mask.length = p.bytes.length) ∧ overlaps 0x40 2 0x80 1 = false) ∧
    (let s := closedPad; let x := s.cell 0
     0 < s.cells.length ∧ 0x1FFFF8 + 8 ≤ 0x200000 ∧ outsideSize 0x1FFFF8 8 = true ∧ x.winWaits = [] ∧ x.res.fenced = false ∧ s.mem.poison = [] ∧ s.mem.uncorr = [] ∧
       s.page.sluice = [] ∧ x.pad.wf = true ∧ x.padOpenFor hostAgent 0x1FFFF8 = true ∧ outsideSize 0 8 = true ∧ x.padOpenFor hostAgent 0 = false) ∧
    (let s := windowed; let x := s.cell 0
     (∃ a bs, x.winRegs = [a] ∧ a.since < s.cycle ∧ x.atBoundary a.off = true ∧ a.wr = some bs) ∧
       (∃ a bs, x.winWaits = [a] ∧ a.off < 0x200000 ∧ a.since + 2 ^ 20 ≤ s.cycle ∧ a.wr = some bs) ∧ Claims.BoxTakes s) :=
  ⟨⟨_, rfl, by decide +kernel⟩, by decide +kernel, ⟨_, _, rfl, by decide +kernel, by decide +kernel, rfl⟩,
    ⟨_, _, rfl, by decide +kernel, by decide +kernel, rfl⟩, by decide +kernel, by decide +kernel, by decide +kernel⟩

/-- HostAccesses: an address of HBM, a hole, and the safe state. -/
theorem witness_HostAccesses : outsideSize 8 8 = true ∧ base.dev.mstate ≠ 2 ∧ place 8 = .hbm ∧ base.sluiceAt 8 = none ∧ base.mem.poison = [] ∧ base.mem.uncorr = [] ∧
    base.mem.pend = [] ∧ 0 < base.mem.views.length ∧ (base.mem.views.getD 0 []).wf = true ∧ outsideSize 0x3800000000000 8 = true ∧ place 0x3800000000000 = .hole ∧
    Claims.BoxTakes base ∧ ({ base with dev := { base.dev with mstate := 2 } } : State).dev.mstate = 2 := by
  and_intros <;> decide +kernel

/-- TranslationAndHotness: the large page of the tables, for a walk and for a next page; an address without a page; a table whose period is over. -/
theorem witness_TranslationAndHotness :
    (canonical 0x1FFFFF = true ∧ tlbFind (base.quad 0).tlb 1 0x1FFFFF = none ∧ base.page.hotEn = false ∧ ∃ e a, base.walkFrom 0 1 0x1FFFFF = .leaf e true a) ∧
    (let w := base.whoOf 0 (.stream .m); let x := base.cell 0
     base.mayRun 0 (.stream .m) = true ∧ (base.context w.ctx).state = .active ∧ x.pageRegs.length = 7 ∧ x.pageRegs.getD 3 (none, none) = (none, none) ∧
       (∃ e large a, base.lookup { w with ag := .stream .s } 0x1FFFFF = .leaf e large a ∧ permitted e (leafPa e large 0x1FFFFF) w.super (streamNeed .m 3) = true) ∧
       canonical 0x2000000 = true ∧ base.lookup { w with ag := .stream .s } 0x2000000 = .notPresent) ∧
    (hot.page.hotEn = true ∧ hot.page.decay ≠ 0 ∧ hot.timers.decay + hot.page.decay.toNat * 2 ^ 20 ≤ hot.cycle ∧ hot.mem.pend = [] ∧ hot.page.sluice = [] ∧
      0 < hot.mem.views.length ∧ (hot.mem.views.getD 0 []).wf = true ∧ hot.page.hotbase.toNat + 0x14000000 ≤ 0xC000000000) :=
  ⟨⟨by decide +kernel, by decide +kernel, by decide +kernel, _, _, rfl⟩, ⟨by decide +kernel, by decide +kernel, by decide +kernel, by decide +kernel,
    ⟨_, _, _, rfl, by decide +kernel⟩, by decide +kernel⟩, by decide +kernel⟩

/-! ### Witnesses: events of tasks -/

/-- `base` READY, with a record of context 1 at 0x1000, a page of the scratchpad of cell 1 for the save frames, and a launch in group slot 1. -/
def ready : State :=
  let s := poke base [(0x1032, 1), (0x1030, 5), (0x13008, 223), (0x1300B, 1), (0x1300D, 0xC0), (0x1300E, 3)]
  { s with dev := { s.dev with mstate := 1 }, disp := { s.disp with
      contexts := [(1, { state := .active, ptroot := 0x10000, fslots := 4, fsize := 1, fpool := 0x200000, tvec0 := 0x400 })]
      groups := [(1, { state := 0, level := 0, ctx := 1, count := 1 })] } }

/-- A task of `ready`. -/
def task0 : Task := { record := { ctxid := 1 }, va := 0x1000, state := .ready, slot := some 0, kernel := some (0x100, header) }

/-- What a task stopped on cell 0 leaves. -/
def image0 : Image := ready.here.image { reason := .preempt }

/-- A fresh or restored task in the pool; only cell 1 is free. -/
def dispatching (i : Option Image) : State := { ready with cells := (ready.cells.map fun x => { x with res := { x.res with image := .active } }).set 1 {}, disp := { ready.disp with tasks := [(0, { task0 with image := i })] } }

/-- Cell 0 restoring a task. -/
def restoring (done : Bool) : State :=
  let s := ready.modCell 0 fun x => { x with res := { x.res with image := .restoring, task := some 0, replayed := done } }
  { s with disp := { s.disp with tasks := [(0, { task0 with record := { ctxid := 1, frame := 0x200000 }, state := .dispatched, cell := some 0, image := some image0 })] } }

/-- The task on cell 0, with a stop. -/
def stopping (p : Stop) (f : Cell → Cell) : State :=
  let s := ready.modCell 0 fun x => f { x with res := { x.res with task := some 0, stop := some p } }
  { s with disp := { s.disp with tasks := [(0, { task0 with state := .running, cell := some 0 })] } }

/-- The task on cell 0, ended. -/
def ended : State :=
  let s := ready.modCell 0 fun x => { x with res := { x.res with task := some 0 }, s := { x.s with ended := true } }
  { s with disp := { s.disp with tasks := [(0, { task0 with state := .running, cell := some 0 })] } }

/-- A queue with one slot put, of the launch in slot 1. -/
def taking : State :=
  let s := poke ready [(0x2001, 16), (0x2008, 1)]
  { s with disp := { s.disp with queues := [(0, { state := 1, base := 0x2000, rlog := 4, level := 5, ctx := 1, put := 1, puts := [{ launch := 1 }] })] } }

/-- Every cell has an image, cell 0 a weir task, and a task is READY. -/
def crowded : State :=
  let s := ready.modCell 0 fun x => { x with res := { x.res with task := some 1 } }
  { s with cells := s.cells.map fun x => { x with res := { x.res with image := .active } }, disp := { s.disp with entered := true, tasks :=
      [(0, { task0 with record := { ctxid := 1, basepri := 5, ceilpri := 5 } }), (1, { task0 with record := { ctxid := 1, flags := 4 }, state := .running, cell := some 0 })] } }

/-- A weir setpoint of 100 with a hysteresis of 100, after a period. -/
def weirs : State := { ready with cycle := 30000, dev := { ready.dev with weirSp := 200 } }

/-- A dispatcher access that answers gives its value. -/
theorem exc_of {ε α : Type} {a : Except ε α} {p : α → Bool} (h : (match a with | .ok x => p x | _ => false) = true) : ∃ x, a = .ok x ∧ p x = true := by
  cases a with
  | ok x => exact ⟨x, rfl, h⟩
  | error e => cases h

/-- DispatchAndRestore: a fresh and a restored task in the pool. -/
theorem witness_Dispatch : ∀ i, i = none ∨ i = some image0 → let s := dispatching i; let t := { task0 with image := i }
    s.dev.halted = false ∧ s.dev.mstate = 1 ∧ s.untaken = 0 ∧ firstBy (fun (_, t) => s.rank true t) (s.disp.tasks.filter fun (_, t) => s.eligible t && !(s.cellsFor t).isEmpty) = some (0, t) ∧
    firstBy (s.cellRank t) (s.cellsFor t) = some 1 ∧ s.task 0 = some t ∧ ∃ r, s.rereadRecord t = .ok r ∧
      decide (r.malformed = false ∧ (s.context r.ctxid).state = .active ∧ r.ctxid = t.record.ctxid) = true := by
  rintro i (rfl | rfl) <;> exact (by and_intros <;> first | exact exc_of (by decide +kernel) | decide +kernel)

/-- DispatchAndRestore: restores before and after the replay of the codebooks. -/
theorem witness_Restore : ∀ b, let s := restoring b; let t := (s.task 0).getD task0
    (s.cell 0).res.image = .restoring ∧ (s.cell 0).res.task = some 0 ∧ (s.cell 0).res.replayed = b ∧ s.task 0 = some t ∧ t.image = some image0 ∧ t.cancelReq = false ∧
    (∀ b ∈ image0.lastLoad, b = none) ∧ ∃ v, s.readFrame 0 t.record.ctxid t.record.frame.toNat image0 (declaredTiles (s.taskKernel t).2) = .ok v ∧
      decide (0 < v.1.cells.length ∧ (v.1.context t.record.ctxid).state ≠ .faulted) = true := by
  intro b
  cases b <;> exact (by and_intros <;> first | exact exc_of (by decide +kernel) | decide +kernel)

/-- StopSaveAndRetire: a stop whose M goes on, one whose M has stopped within a command, one whose engines have stopped, and an end. -/
theorem witness_Stops :
    (let p : Stop := { reason := .preempt }; let s := stopping p id; let x := s.cell 0
     x.res.task = some 0 ∧ (s.task 0).isSome = true ∧ x.res.stop = some p ∧ x.mayStop p = true ∧ p.mDone = false ∧ x.em.inprog = [] ∧ x.m.openTiles = 0 ∧ x.em.nextStep = 0) ∧
    (let p : Stop := { reason := .fault }; let s := stopping p fun x => { x with em := { x.em with nextStep := 7 } }; let x := s.cell 0
     x.res.stop = some p ∧ x.mayStop p = true ∧ x.em.inprog = [] ∧ x.em.nextStep ≠ 0) ∧
    (let p : Stop := { reason := .preempt, mDone := true }
     let s := stopping p fun x => { x with ev := { x.ev with quiesced := true, queue := [entry0] }, ec := { x.ec with quiesced := true } }; let x := s.cell 0
     x.res.stop = some p ∧ x.mayStop p = true ∧ x.ev.quiesced = true ∧ x.ec.quiesced = true ∧ s.accessesDone 0 = true ∧ x.ev.queue = entry0 :: []) ∧
    (let x := ended.cell 0
     x.res.task = some 0 ∧ x.res.image = .active ∧ x.s.ended = true ∧ x.enginesEnded = true ∧ x.s.iss.unfinished = [] ∧ (∀ st ∈ engines, (x.engine st).inprog = []) ∧
       (∀ ag ∈ agentsOf, ended.performedAll (0, ag) = true) ∧ ∃ t, ended.task 0 = some t ∧ decide (t.cell = some 0 ∧ t.stolenFrom = none ∧ t.record.launchid = 0) = true) := by
  and_intros <;> first | exact ⟨_, rfl, by decide +kernel⟩ | decide +kernel

/-- The task on cell 0 whose image is being saved. -/
def saving : State := stopping { reason := .yieldLand, mDone := true, tag := 9 } fun x => { x with res := { x.res with image := .saving } }

/-- The record that the save writes. -/
def savedRecord : Record := { (saving.here.savedPcs { ctxid := 1 }) with frame := 0x200000, skind := 3, scause := 0, sinfo := 9 }

/-- What follows the regions in a save. -/
def savedRest (s1 : State) : Bool :=
  match s1.writePrivate 0 1 0x200000 privateRegions with
  | .ok s2 => decide (s2.mem.poison = [] ∧ s2.mem.uncorr = []) && match (s2.chargeVa 0 1 0x1000 64).dstore 1 0x1000 savedRecord.bytes with
    | .ok s3 => decide (0 < s3.cells.length)
    | _ => false
  | _ => false

/-- StopSaveAndRetire: a save into the scratchpad of cell 1. -/
theorem witness_Save : let s := saving; let x := s.cell 0; let p : Stop := { reason := .yieldLand, mDone := true, tag := 9 }; let t := (s.task 0).getD task0
    let k := s.context t.record.ctxid; let h := (s.taskKernel t).2
    (x.res.stop = some p ∧ x.res.image = .saving ∧ x.res.task = some 0 ∧ s.task 0 = some t ∧ t.cancelReq = false ∧ t.record.ctxid = 1 ∧ t.va = 0x1000 ∧ t.argBlock = 0 ∧
      k.fpool + t.slot.getD 0 * k.fsize * 65536 = 0x200000 ∧ frameUnits h = 2 ∧ declaredTiles h = [] ∧ t.record = ({ ctxid := 1 } : Record)) ∧
    ∃ s1 s2 s3, saving.writeRegions 0 1 0x200000 ((saving.cell 0).frameRegions p 0 2 []) = .ok s1 ∧
      s1.writePrivate 0 1 0x200000 privateRegions = .ok s2 ∧ s2.mem.poison = [] ∧ s2.mem.uncorr = [] ∧
      (s2.chargeVa 0 1 0x1000 64).dstore 1 0x1000 savedRecord.bytes = .ok s3 ∧ 0 < s3.cells.length := by
  refine ⟨by decide +kernel, ?_⟩
  obtain ⟨s1, h1, h⟩ := exc_of (p := savedRest)
    (a := saving.writeRegions 0 1 0x200000 ((saving.cell 0).frameRegions { reason := .yieldLand, mDone := true, tag := 9 } 0 2 [])) (by decide +kernel)
  unfold savedRest at h
  split at h
  · rename_i s2 h2
    simp only [Bool.and_eq_true, decide_eq_true_eq] at h
    obtain ⟨⟨h5, h6⟩, h⟩ := h
    split at h
    · rename_i s3 h3
      exact ⟨s1, s2, s3, h1, h2, h5, h6, h3, of_decide_eq_true h⟩
    · cases h
  · cases h

/-- PoolAndPeriods: a slot that is put. -/
theorem witness_QueueTake : let s := taking; let x := s.queue 0; let p : SlotPut := { launch := 1 }
    (x.state = 1 ∧ x.put ≠ x.take ∧ x.puts = [p] ∧ p.gone = false ∧ s.poolHeld s.disp.nextTask < 65536 ∧ s.disp.portWaits = []) ∧
    ∃ bs, s.dread x.ctx (x.slotVa x.take.toNat) 16 = .ok bs ∧
      (let va := sext52 (bytesAt bs 0 8); let launch : BitVec 32 := BitVec.ofNat 32 (bytesAt bs 8 4); let s1 := s.setQueue 0 ({ x with take := x.take + 1, puts := [] } : RQueue).drained
       decide (launch = p.launch ∧ s1.launchGone launch = false ∧ s1.launchHeld launch = false ∧ s.readWaits x.ctx va 64 = false) && match s1.dread x.ctx va 64 with
       | .ok rb => let r := recordOf rb; decide (r.malformed = false ∧ r.skind = 0 ∧ (s.context r.ctxid).state = .active ∧ r.ctxid = x.ctx ∧ (r.weir = true ↔ x.level = 0) ∧
           r.basepri.toNat = x.level.toNat)
       | _ => false) = true :=
  ⟨by decide +kernel, exc_of (by decide +kernel)⟩

/-- PoolAndPeriods: a READY task and a weir task on a machine without a free cell. -/
theorem witness_Preempt : let s := crowded
    s.freeCells = [] ∧ s.dev.halted = false ∧ s.disp.entered = true ∧ ∃ t k, s.preempting = [(t, .inl 0)] ∧ s.task 0 = some t ∧ s.stoppable = [(0, k)] ∧ k.record.weir = true ∧
      1 ≤ s.effective t.record (s.waited t) ∧ (s.cell 0).res.task = some 1 ∧ s.task 1 = some k ∧ (s.cell 0).res.stop = none ∧ k.slot.isSome = true :=
  ⟨by decide +kernel, by decide +kernel, by decide +kernel, { task0 with record := { ctxid := 1, basepri := 5, ceilpri := 5 } }, { task0 with record := { ctxid := 1, flags := 4 }, state := .running, cell := some 0 },
    by decide +kernel⟩

/-- PoolAndPeriods: power at the setpoint, at the hysteresis's edge, below it, and no setpoint; an image in its last residency cycle. -/
theorem witness_Periods : (weirs.timers.weir + 30000 ≤ weirs.cycle ∧ weirs.stoppable = [] ∧ ready.dev.weirSp.toNat = 0 ∧ weirs.dev.weirSp.toNat = 200 ∧ weirs.dev.weirHys.toNat = 100 ∧
      (weirs.dev.tpoint.any (fun t => 2 ≤ t.toNat) || weirs.dev.rfx.any (· = 3)) = false) ∧
    (∀ p, p = (200 : BitVec 12) ∨ p = 100 ∨ p = 99 → (200 ≤ p.toNat ∨ (p.toNat < 200 ∧ 200 ≤ p.toNat + 100) ∨ p.toNat + 100 < 200)) ∧
    (let s := ready.modCell 0 fun x => { x with weights := { x.weights with static := 1000 }, res := { x.res with rc := 1023, ea := 255 } }; let r := (s.cell 0).res
     r.image ≠ .none ∧ r.rc = 1023 ∧ r.energy.toNat + (r.ea + (s.cell 0).weights.static.toNat) / 2 ^ (r.escale.toNat + 8) < 2 ^ 48) := by
  refine ⟨by decide +kernel, ?_, by decide +kernel⟩
  rintro p (rfl | rfl | rfl) <;> decide

/-! ### Witnesses: events of barriers, migration and the fabric -/

/-- A phase of parent 0 in slot 1 that is CLOSING, past its time. -/
def phased : State := grouped 2 1 1 0

/-- The migrating page alone. -/
def moving (state : SluiceState) (f reason : Nat) (ctx : CtxState) : State :=
  { base with page := { base.page with sluice := [{ migrating state f with reason := reason }] }
              disp := { base.disp with contexts := [(1, { state := ctx, ptroot := 0x10000 })] } }

theorem place_hbm {a : Nat} (h : a < 0xC000000000) : place a = .hbm ∧ absent a = false := by
  have e : place a = .hbm := by simp [place, h]
  exact ⟨e, by simp [absent, e]⟩

/-- A ring of two with both ports UP. -/
def ring (s : State) : State :=
  { s with link := { s.link with dxm := 1, ports := (s.link.ports.set 0 { en := true, state := 2 }).set 1 { en := true, state := 2 } } }

/-- `ring` after a publication period, with stealing on; every port is live. -/
def stealing : State :=
  { ready with cycle := 3000, link := { ready.link with dxm := 1, ports := List.replicate 6 { en := true, state := 2 } }, disp := { ready.disp with stealEn := true } }

/-- A stealable task above the high mark. -/
def rich : State := { ring ready with disp := { ready.disp with highMark := 0, tasks := [(0, { task0 with record := { ctxid := 1, flags := 1, basepri := 5, ceilpri := 5 } })] } }

/-- A steal request on port 0. -/
def asking : State := { ring ready with disp := { ready.disp with stealPort := some 0 } }

/-- A granted task. -/
def granted : State := { ring ready with disp := { ready.disp with tasks := [(0, { task0 with stolenTo := some 1, granted := true, wasStolen := true })] } }

/-- A packet of module 1. -/
def packet1 : Packet := { payload := [1, 2, 3], tag := 9, ctx := 1, sender := 1, scell := 7, handler := 0x500 }

/-- A packet in slot 15 of cell 0. -/
def landed : State := ready.modCell 0 fun x => { x with landing := x.landing.set 15 (some { packet := packet1 }) }

/-- A task that waits for the packet. -/
def landTask : Task := { task0 with state := .suspLand, record := { ctxid := 1, sinfo := 9, skind := 3 }, image := some image0 }

/-- The packet of a `LAND` that waits for its credit. -/
def landing : State := (ring base).modCell 0 fun x => { x with c := { x.c with landOut := some (1, 15, packet1) } }

/-- A packet that was sent at cycle 0. -/
def sentOut (l : Payload) (n : Nat) : State := { ring base with cycle := n, link := { (ring base).link with out := [{ dst := 1, port := 0, cell := 0, agent := .stream .s, ctx := 1, sentAt := 0, payload := l }] } }

/-- BarrierEvents: an arrival on its way; a closed phase of no boundary; counts at their edges. -/
theorem witness_BarrierEvents :
    (∃ a l, ({ base with disp := { base.disp with arrivals := [⟨0, .stream .s, 1, 255, 3, 0⟩] } } : State).disp.arrivals = a :: l ∧ base.disp.groups = []) ∧
    (∃ g, phased.group (phased.gidOf 2 1) = some g ∧ g.level = 2 ∧ g.state = 1 ∧ g.count = 0 ∧ phased.boundaryMet g = true ∧ g.parent = 0 ∧ g.waiters = []) ∧
    (∀ b : Barrier, b = { state := 1, pend := 8, parts := 2, arrv := 1 } → (7 : DWord) < b.pend ∧ (8 : DWord) = b.pend ∧ b.arrv + 1 = b.parts ∧ b.pend < (9 : DWord)) ∧
    (∃ b : Barrier, b.state = 2 ∧ b.parts = 0 ∧ b.pend = 8 ∧ b.auto = true) :=
  ⟨⟨_, _, rfl, rfl⟩, ⟨_, rfl, by decide +kernel⟩, by rintro b rfl; decide, { state := 2, pend := 8, auto := true }, by decide⟩

theorem base_views : ∀ v ∈ base.mem.views, v.wf = true := by decide +kernel
theorem moving_apart : 0x40000 + 65536 ≤ 0x50000 ∧ 0x14008 + 8 ≤ 0x40000 ∧ 0x40000 + 65536 ≤ 0x70018 := by decide
theorem moving_hbm (a : Nat) (h : (0x40000 ≤ a ∧ a < 0x40000 + 65536) ∨ (0x50000 ≤ a ∧ a < 0x50000 + 65536) ∨ (0x14008 ≤ a ∧ a < 0x14008 + 8) ∨ (0x70018 ≤ a ∧ a < 0x70018 + 8)) :
    place a = .hbm ∧ absent a = false := place_hbm (by omega)
theorem base_cells : base.cells.length = 192 := by decide +kernel

/-- MigrationRuns: copies of the first and of the last line, a switch, its end, an abort and its end. -/
theorem witness_MigrationRuns : ∀ p, p ∈ [(SluiceState.sluice, 0, 0, CtxState.active), (.sluice, 255, 0, .active), (.sluice, 256, 0, .active), (.switching, 256, 0, .active),
      (.sluice, 5, 0, .destroyed), (.aborting, 5, 4, .destroyed)] → let s := moving p.1 p.2.1 p.2.2.1 p.2.2.2
    ∃ e, s.page.sluice = [e] ∧ e.state = p.1 ∧ e.f = p.2.1 ∧ e.reason = p.2.2.1 ∧ (s.context e.ctx).state = p.2.2.2 ∧ s.shotDown e = true ∧ s.mem.pend = [] ∧ s.mem.poison = [] ∧ s.mem.uncorr = [] ∧ s.dev.halted = false ∧
      s.mem.views.length = 4 ∧ (∀ v ∈ s.mem.views, v.wf = true) ∧ s.cells.length = 192 ∧ s.disp.tasks = [] ∧ s.page.hotEn = false ∧
      (∀ a, ((e.src ≤ a ∧ a < e.src + 65536) ∨ (e.dst ≤ a ∧ a < e.dst + 65536) ∨ (e.pte ≤ a ∧ a < e.pte + 8) ∨ (e.cword ≤ a ∧ a < e.cword + 8)) → place a = .hbm ∧ absent a = false) ∧
      (e.src + 65536 ≤ e.dst ∨ e.dst + 65536 ≤ e.src) ∧ (e.pte + 8 ≤ e.src ∨ e.src + 65536 ≤ e.pte) ∧ (e.cword + 8 ≤ e.src ∨ e.src + 65536 ≤ e.cword) := by
  intro p h
  refine ⟨{ migrating p.1 p.2.1 with reason := p.2.2.1 }, rfl, rfl, rfl, rfl, rfl, ?_⟩
  refine ⟨by revert p; decide +kernel, rfl, rfl, rfl, rfl, rfl, base_views, base_cells, rfl, rfl, fun a ha => moving_hbm a ha,
    .inl moving_apart.1, .inl moving_apart.2.1, .inr moving_apart.2.2⟩

/-- StealingEvents: a publication, a request to a module above its mark, a grant that arrives, a granted task. -/
theorem witness_StealingEvents :
    (let s := stealing; let nbr : List (BitVec 32) := [5, 2000]
     let t : State := { s with timers := { s.timers with occupancy := s.cycle }, disp := { s.disp with occupancy := (List.range 6).map (fun p => nbr.getD p 0), published := BitVec.ofNat 32 s.occupancyOf } }
     (∀ p, p < 6 → (s.link.ports.getD p {}).live = true) ∧ s.timers.occupancy + 3000 ≤ s.cycle ∧ s.disp.stealEn = true ∧ s.occupancyOf < s.disp.lowMark.toNat ∧
       s.disp.stealPort = none ∧ t.stealFrom = some 1) ∧ ready.disp.stealEn = false ∧
    ((rich.link.ports.getD 0 {}).live = true ∧ (∃ t, rich.disp.tasks = [(0, t)] ∧ t.grantable = true) ∧ 0 < rich.disp.stealMax.toNat ∧ rich.disp.highMark.toNat < rich.occupancyOf) ∧
    (asking.disp.stealPort = some 0 ∧ (asking.context (recordOf ({ ctxid := 1 } : Record).bytes).ctxid).state = .active ∧ asking.disp.tasks = []) ∧
    (∃ n t, granted.grantedTask 0x1000 = some (n, t) ∧ t.cancelReq = false) :=
  ⟨by decide +kernel, by decide +kernel, ⟨by decide +kernel, ⟨_, rfl, by decide +kernel⟩, by decide +kernel⟩, by decide +kernel, _, _, rfl, by decide +kernel⟩

/-- MessagesAndPackets: a group with members, a query that waits for its answer. -/
theorem witness_Messages :
    (∃ x, (grouped 0 2 1 0).homed 1 = true ∧ (grouped 0 2 1 0).group 1 = some x ∧ x.terminal = false ∧ x.count ≠ BitVec.allOnes 48) ∧
    (let s := { base with disp := { base.disp with groups := [(1, { state := 0, level := 0, ctx := 1, count := BitVec.allOnes 48 })] } }
     s.homed 1 = true ∧ ∃ x, s.group 1 = some x ∧ x.count = BitVec.allOnes 48) ∧
    (let s := (unfinishedS (.gctlQuery 0 4 3 1) none (some ⟨50, none, 0⟩)).modCell 0 fun x => { x with s := { x.s with iss := { x.s.iss with unfinished := x.s.iss.unfinished.map fun u => { u with sent := true } } } }
     let x := s.cell 0
     x.s.iss.wait.isSome = true ∧ ∃ w, x.s.iss.unfinished.getLast? = some w ∧ w.sent = true ∧ w.value = none ∧ w.instr = .gctlQuery 0 4 3 1) :=
  ⟨⟨_, by decide +kernel, rfl, by decide +kernel⟩, ⟨by decide +kernel, _, rfl, by decide +kernel⟩, by decide +kernel, _, rfl, by decide +kernel⟩

/-- MessagesAndPackets: a full buffer and one with a packet in its last slot, an idle wicket and a task that takes it, an overrun at 65,537
cycles, a packet with its credit. -/
theorem witness_Packets :
    (packet1.sender.toNat ≠ ready.moduleNumber ∧ (ready.modCell 0 fun x => { x with landing := List.replicate 16 (some { packet := packet1 }) }).here.landingRoom = 0) ∧
    (let s := landed; let x := s.cell 0
     x.res.fenced = false ∧ x.landing.findIdx? Option.isNone = some 0 ∧ ∃ l, x.waitingPackets = [(15, l)] ∧ s.landingTask 0 l.packet = none ∧ x.yieldsFor l.packet = false ∧
       s.mayStartWicket 0 l.packet = true ∧ (x.wickets.findIdx? fun w => !w.running) = some 0 ∧ x.loose = 0 ∧ (∀ y ∈ x.wickets, y.ea = 0) ∧ landTask.state = .suspLand ∧ landTask.lastCell = 0 ∧
       landTask.record.ctxid = l.packet.ctx ∧ landTask.record.sinfo = l.packet.tag ∧ (∃ i, landTask.image = some i ∧ i.s.packet = none)) ∧
    (let s := { ready.modCell 0 fun x => { x with wickets := x.wickets.set 2 { running := true, alone := true } } with cycle := 65537 }; let k := (s.cell 0).wicket 2
     2 < (s.cell 0).wickets.length ∧ k.running = true ∧ k.alone = true ∧ k.start + 65536 < s.cycle ∧ (s.cell 0).dbg.holds = false ∧ Claims.BoxTakes s) ∧
    (let s := landing
     (s.cell 0).c.landOut = some (1, 15, packet1) ∧ 1 ≠ s.moduleNumber ∧ s.route 1 = some 0 ∧ s.routeHeld 0 1 0 2 = false) :=
  ⟨by decide +kernel, ⟨by decide +kernel, by decide +kernel, _, rfl, by decide +kernel, by decide +kernel, by decide +kernel, by decide +kernel, by decide +kernel, by decide +kernel, rfl, rfl, by decide +kernel,
    by decide +kernel, _, rfl, by decide +kernel⟩, by and_intros <;> decide +kernel, by decide +kernel⟩

/-- A store of module 1 to the last byte of the page. -/
def peerByte : PeerStore := { port := 5, ctx := 1, va := 0x1FFFFF, size := 1, data := 7 }

/-- PeerEvents: a page that is pinned and one that is not; a store out, a packet at 599,999 and at 600,000 cycles, a chunk of one line. -/
theorem witness_PeerEvents :
    (let s := poke stealing [(0x13001, 2)]
     s.portHeld 5 = false ∧ (s.link.ports.getD 5 {}).live = true ∧ peerByte.va % peerByte.size = 0 ∧ (stealing.peerPlace peerByte = .error 0x09) ∧ s.peerPlace peerByte = .ok 0x1FFFFF ∧ place 0x1FFFFF = .hbm ∧
       absent 0x1FFFFF = false ∧ s.page.sluice = [] ∧ s.mem.pend = [] ∧ s.mem.poison = [] ∧ s.mem.uncorr = [] ∧
       (let d := agentDie (portAgent 5).1
        d < s.mem.views.length ∧ (s.mem.views.getD d []).wf = true)) ∧
    (∃ o, (sentOut (.store 8 8 5 true) 599999).link.out[0]? = some o ∧ o.payload = .store 8 8 5 true ∧ o.dst ≠ (sentOut (.store 8 8 5 true) 0).moduleNumber ∧ o.launch = 0 ∧ 599999 < o.sentAt + 600000) ∧
    (∀ l, l = .stealRequest ∨ l = .chunk ⟨0, 1, 2, [3], []⟩ → ∃ o, (sentOut l 600000).link.out[0]? = some o ∧ o.sentAt + 600000 ≤ (sentOut l 600000).cycle ∧ o.port < (sentOut l 600000).link.ports.length ∧ o.payload = l) ∧
    ([3] : List Line) ≠ [] ∧ ([3] : List Line).length ≤ 64 := by
  refine ⟨?_, ⟨_, rfl, by decide +kernel⟩, ?_, by decide +kernel⟩
  · exact ⟨by decide +kernel, by decide +kernel, by decide +kernel, rfl, rfl, by decide +kernel⟩
  · rintro l (rfl | rfl) <;> exact ⟨_, rfl, by decide +kernel⟩

/-! ### Witnesses: commands of the host -/

/-- A context entry that CREATE takes at number 2, a queue entry at number 1, a header at 0x100, and the record's launch. -/
def hosting (f : Dispatcher → Dispatcher) : State :=
  let s := poke ready [(0x9C, 2), (0x20041, 0x20), (0x20048, 4), (0x20049, 5), (0x2004A, 1), (0x1034, 1), (0x104, 1), (0x10C, 1), (0x128, 64)]
  { s with disp := f { s.disp with qtbl := 0x20000, qcmdArg := 0x1000, jsQid := 1, jsKhdr := 0x100
                                   contexts := [(1, { state := .active, ptroot := 0x10000, fslots := 4, fsize := 2, fpool := 0x200000 })] } }

/-- `hosting` with queue 1. -/
def queued (st : BitVec 3) (put : BitVec 32) : State :=
  hosting fun d => { d with queues := [(1, { state := st, base := 0x2000, rlog := 4, level := 5, ctx := 1, put := put })] }

/-- ContextCommands: a FREE entry that CREATE takes and one that it rejects; contexts ACTIVE, FAULTED and DESTROYED; an invalidation of every address. -/
theorem witness_ContextCommands : (hosting id).dev.mstate ≠ 2 ∧ ({ base with disp := {} } : State).allFree = true ∧ base.allFree = false ∧ base.disp.ctxBusy = false ∧
    (let s := hosting id; let d := s.readPa 0 (s.ctxEntry 2) 64; let e := s.readPa 0 (s.ctxEntry 3) 64
     (s.context 2).state = .free ∧ d.bad = none ∧ ctxEntryBad d.bytes = false ∧ (s.context 3).state = .free ∧ ctxEntryBad e.bytes = true ∧ (s.context 1).state = .active ∧
       s.disp.queues = [] ∧ s.disp.tasks = [] ∧ s.page.sluice = [] ∧ s.page.pginv = none ∧ s.mem.pend = [] ∧ s.cells.length = 192 ∧
       ∀ k : BitVec 2, k ≠ 3 → s.usesRange allCells 1 (invRange k.toNat (sext52 s.page.pginvVa.toNat)) = false) ∧
    (let s := hosting fun d => { d with contexts := [(1, { state := .faulted, ptroot := 0x10000 }), (2, { state := .destroyed, ptroot := 0x10000 })] }
     (s.context 1).state = .faulted ∧ (s.context 2).state = .destroyed ∧ s.contextEmpty 2 = true ∧ Claims.BoxTakes s) := by
  and_intros <;> decide +kernel

/-- QueueAndGroupCommands: a queue entry that CREATE takes and one that it rejects, and every state of a queue. -/
theorem witness_QueueCommands : ((hosting id).disp.qbusy = false ∧ (hosting id).disp.cancels = [] ∧ (hosting id).disp.farPut = none ∧ (hosting id).disp.jsBusy = false) ∧
    (hosting id).dev.mstate ≠ 2 ∧ (1 : BitVec 11) ≠ 0 ∧ ((hosting id).queue 1).state = 5 ∧ ((hosting id).queueOf 1).isSome = true ∧ (hosting id).queueOf 2 = none ∧
    (∀ n, n < 6 → ((queued (BitVec.ofNat 3 n) 1).queue 1).state = BitVec.ofNat 3 n) ∧ ((queued 1 0).queue 1).take = ((queued 1 0).queue 1).put ∧
    ((queued 1 1).queue 1).take ≠ ((queued 1 1).queue 1).put ∧ ({ base with disp := {} } : State).groupsFree = true ∧ ({ base with disp := {} } : State).allFree = true ∧
    ((grouped 3 3 1 0).groupAt 1).terminal = true ∧ ((grouped 3 3 1 0).groupAt 1).parent = 0 ∧ ((grouped 3 0 1 0).groupAt 1).terminal = false := by decide +kernel

/-- QueueAndGroupCommands: a put of a record whose launch is group 1 of module 1, without a route and with one. -/
theorem witness_FarPut : ∀ r, r = none ∨ r = some 0 →
    let s := poke (queued 1 15) [(0x1036, 4)]; let s := if r.isSome then ring s else s
    let x := s.queue 1; let va := sext52 s.disp.qcmdArg.toNat
    x.state ≠ 5 ∧ va % 64 = 0 ∧ canonical va = true ∧ s.disp.portWaits = [] ∧ ∃ bs, s.dread x.ctx va 64 = .ok bs ∧
      decide (s.putStatus 1 (recordOf bs) none = 0 ∧ s.homed (recordOf bs).launchid = false ∧ s.route (gidHome (recordOf bs).launchid) = r) = true := by
  rintro r (rfl | rfl) <;> exact ⟨by decide +kernel, by decide +kernel, by decide +kernel, by decide +kernel, exc_of (by decide +kernel)⟩

/-- QueueAndGroupCommands: a put into a queue with one slot left and into a full one; a job start with a header and without. -/
theorem witness_PutAndJob : (∀ p : BitVec 32, p = 15 ∨ p = 16 → let s := queued 1 p; let x := s.queue 1; let va := sext52 s.disp.qcmdArg.toNat
      x.state ≠ 5 ∧ va % 64 = 0 ∧ canonical va = true ∧ s.disp.portWaits = [] ∧ ∃ bs, s.dread x.ctx va 64 = .ok bs ∧
        (decide (s.putStatus 1 (recordOf bs) none = if p = 15 then 0 else 2) && s.homed (recordOf bs).launchid &&
        match s.writeSlot 1 x.put.toNat va (recordOf bs).launchid with | .ok _ => true | _ => false) = true) ∧
    (∀ k : BitVec 52, k = 0x100 ∨ k = 0x200 → let s := { queued 1 15 with disp := { (queued 1 15).disp with jsKhdr := k } }
      s.disp.portWaits = [] ∧ ∃ rb, s.dread 1 (sext52 (64 * 0x40)) 64 = .ok rb ∧ (match s.dread 1 (sext52 s.disp.jsKhdr.toNat) 64 with
        | .ok hb => decide (headerStatus (BitVec.ofNat 512 (leNat hb)) (s.context 1).fsize = if k = 0x100 then 0 else 5) && decide (s.jobStatus 1 (recordOf rb) = 0) &&
          match s.dplace (s.queue 1).ctx ((s.queue 1).slotVa (s.queue 1).put.toNat) 16 { wr := true } with | .ok _ => true | _ => false
        | _ => false) = true) := by
  refine ⟨?_, ?_⟩
  · rintro p (rfl | rfl) <;> exact ⟨by decide +kernel, by decide +kernel, by decide +kernel, by decide +kernel, exc_of (by decide +kernel)⟩
  · rintro k (rfl | rfl) <;> exact ⟨by decide +kernel, exc_of (by decide +kernel)⟩

/-! ### Witnesses: ports, debugger, device -/

/-- Port 5 in a state. -/
def porting (st : BitVec 3) (n : Nat) : State :=
  let s := { base with cycle := n, link := { base.link with tsEn := true, lock := true, syncGood := 15, ports := base.link.ports.set 5 { en := true, detreq := true, state := st } } }
  s

/-- Cell 0 with a debug unit. -/
def debugging (d : Debug) : State := { cell0 fun x => { x with dbg := d, res := { x.res with task := some 0 } } with cycle := 1024 }

/-- PortsAndTime: a port in every state, at the ends of its times, and a host port of 16 lanes. -/
theorem witness_PortsAndTime : (∀ n, n < 5 → (porting (BitVec.ofNat 3 n) 30000000).link.ports.length = 6 ∧ ((porting (BitVec.ofNat 3 n) 30000000).port 5).state = BitVec.ofNat 3 n ∧
      ((porting (BitVec.ofNat 3 n) 30000000).port 5).detreq = true ∧ ((porting (BitVec.ofNat 3 n) 30000000).port 5).since + 30000000 = 30000000) ∧ (porting 0 0).dev.mstate ≠ 2 ∧
    ((porting 0 0).port 5).en = true ∧ (porting 0 0).coordinatesOk = true ∧ (base.port 5).en = false ∧ (porting 2 0).link.tsEn = true ∧ ((porting 2 0).port 5).live = true ∧
    10000 < (-10001 : Int).natAbs ∧ (10000 : Int).natAbs ≤ 10000 ∧ (porting 2 0).link.lock = true ∧ 4 * (10 : Int).natAbs ≤ (40 : Word).toNat ∧ (porting 2 0).link.syncGood = 15 ∧
    8 < base.dev.hostWidth ∧ ∃ v w : DWord, v.getLsbD 0 = false ∧ w.getLsbD 0 = true ∧ w.getLsbD 1 = false := by
  and_intros <;> first | exact ⟨0, 1, by decide⟩ | decide +kernel

/-- DebugEvents: a cell that runs, one that is stopping, one that is stopped, one stopped for ever, a breakpoint on S and a sample period. -/
theorem witness_DebugEvents : ((debugging {}).here.dbg.why ≠ 4 ∧ (debugging {}).here.dbg.stopped = false ∧ (debugging {}).here.dbg.stopping = none) ∧
    (let x := (debugging { stopping := some 3 }).here
     x.dbg.stopping = some 3 ∧ ∀ ag ∈ issuers, ∀ u ∈ (x.issue ag).unfinished, u.passes = false) ∧
    ((debugging { stopped := true, why := 1 }).here.dbg.why ≠ 4 ∧ (debugging { stopped := true, why := 1 }).here.dbg.stepping = none) ∧
    (debugging { stopped := true, why := 4 }).here.dbg.why = 4 ∧
    (let x := (debugging { brken := true, bps := (List.replicate 4 ({} : Breakpoint)).set 3 { en := true, pcw := 16, anyTag := true } }).here
     x.breakpoint .s = some 3 ∧ x.breakpoint .v = none ∧ x.breakpoint .m = none ∧ x.breakpoint .c = none) ∧
    (let s := debugging { smpPer := 1 }; let x := s.here
     x.dbg.smpPer ≠ 0 ∧ x.dbg.smpAt + 1024 * x.dbg.smpPer.toNat ≤ s.cycle ∧ x.dbg.holds = false ∧ x.res.image = .active ∧ x.res.task.isSome = true) := by decide +kernel

/-- FaultsAndBlackBox: a frozen box; a box that is not, in a new cycle and in one whose events rise in rank. -/
theorem witness_Events : ({ base with bb := { base.bb with frozen := true } } : State).bb.frozen = true ∧
    (let s := { base with cycle := 7 }; s.bb.frozen = false ∧ s.bb.fresh < 4000 ∧ s.bb.lastAt ≠ s.cycle) ∧
    (∀ l : List BbRecord, l = [] → (l.map BbRecord.rank).Pairwise fun x y => y ≤ x) ∧ Claims.freshRecords base = [] := by
  and_intros <;> first | decide +kernel | exact fun l h => by subst h; exact .nil

/-- FaultsAndBlackBox: a cell without a task, a machine without an ACTIVE context, a die's count in its millisecond and before, a record in
the buffer. -/
theorem witness_FaultsAndBlackBox : Claims.BoxTakes base ∧ base.here.res.fenced = false ∧ base.here.res.task = none ∧ 511 < base.here.c.banks.length ∧
    (let s := { base with disp := { base.disp with contexts := [] } }
     s.dev.halted = false ∧ ∀ k ∈ s.disp.contexts, k.2.state ≠ .active) ∧
    (let signals := fun (x : Cell) => issuers.any fun ag => (x.issue ag).unfinished.any Unfinished.passes
     signals base.here = false ∧
     signals { base.here with s := { base.here.s with iss := { unfinished := [{ instr := .tend 0, word := 0, pc := 0, finish := .signal 3 1 }] } } } = true) ∧
    (let s := { base with cycle := 5999999, timers := { base.timers with correctable := [0, 0, 0, 2] } }
     s.timers.correctable.getD 3 0 = s.cycle / 3000000 + 1 ∧ s.timers.correctable.getD 0 0 ≠ s.cycle / 3000000 + 1) ∧
    (∃ r, (({ base with bb := { base.bb with frozen := true, records := [{ seq := 4097 }] } } : State).bb.records.find? fun r => r.seq.toNat % 4096 = (1 : BitVec 12).toNat) = some r) :=
  ⟨by and_intros <;> decide +kernel, by decide +kernel, by decide +kernel, by decide +kernel, ⟨by decide +kernel, fun k hk => absurd hk (by simp)⟩, by decide +kernel, by decide +kernel, _, rfl⟩

/-- DeviceEvents: a self-test that finds nothing, an attestation in progress and none, and every period over; temperatures at the edges. -/
theorem witness_DeviceEvents :
    (∃ t : SelfTest, t.badSteps = 0 ∧ t.badCells = [] ∧ t.imageVersion < 4 ∧ ¬ t.imageVersion < 3) ∧ base.dev.attBusy = false ∧
    ({ base with dev := { base.dev with attBusy := true } } : State).dev.attBusy = true ∧ base.dev.postUnits.getLsbD 2 = false ∧ ready.dev.mstate ≠ 0 ∧
    (let s := { base with cycle := 300000 }
     s.dev.tpoint.length = 4 ∧ s.timers.thermal.getD 3 0 + 30000 ≤ s.cycle ∧ s.dev.tpoint.getD 3 0 = 0 ∧ s.dev.clkpct.length = 4 ∧ s.timers.clock.getD 3 0 + 300000 ≤ s.cycle ∧
       s.dev.rfx.length = 16 ∧ s.dev.rfx.getD 11 0 = 0) ∧
    (∀ T : BitVec 12, T = 1599 ∨ T = 1600 ∨ T = 1679 ∨ T = 1680 ∨ T = 1791 ∨ T = 1792 ∨ T = 1919 ∨ T = 1920 → (hottest ((List.range 8).map fun k => ([0, T] : List (BitVec 12)).getD k 0)).1 = T.toNat) ∧
    (935 : BitVec 12).toInt < 936 ∧ 936 ≤ (936 : BitVec 12).toInt ∧ base.dev.inlet.toInt < 936 ∧ Claims.BoxTakes base ∧ base.here.res.fenced = false ∧
    (0x5B : BitVec 8) ≠ 0x5A := by
  refine ⟨⟨{ badSteps := 0, badCells := [], imageVersion := 3, detail := 0, imageDigest := 0, weights := [], staticW := [] }, by decide⟩, by decide +kernel, by decide +kernel,
    by decide +kernel, by decide +kernel, by decide +kernel, ?_, by and_intros <;> decide +kernel⟩
  rintro T (rfl | rfl | rfl | rfl | rfl | rfl | rfl | rfl) <;> decide

/-- DecodeEncode, StepKeepsSound: an instruction with words, and a sound state. -/
theorem witness_DecodeEncode : (Instr.add 0 1 2 3 0).wellFormed = true ∧ encode (.add 0 1 2 3 0) ≠ [] ∧ (Instr.mmaExt 3 3 382 383 1 zeroMma).wellFormed = true ∧
    (encode (.mmaExt 3 3 382 383 1 zeroMma)).length = 2 := by decide

/-- `base` with `ADD s4, s0, s3` in the instruction cache at the program counter, and an agenda. -/
def coded (l : List Move) : State := { cell0 fun x => { x with icache := [((1, 64), (encode (.add 0 4 0 3 0)).headD 0)] } with agenda := l }

/-- StepRunsDecoded: S at an `ADD`, by the agenda and by the turn, and V at the head of its queue; a focus without a cell. -/
theorem witness_StepRunsDecoded :
    (∀ s, s = (({ coded [.agent 0 (.stream .s)] with agenda := [] } : State).inOrder 0 (.stream .s)).aim 0 (.stream .s) ∨ s = (coded []).turn →
      s.mayRun 0 (.stream .s) = true ∧ (s.cell 0).breakpoint .s = none ∧ (s.cell 0).s.iss.wait = none ∧ (s.cell 0).s.iss.replay = [] ∧ (s.cell 0).s.iss.blocked = false ∧
        (s.cell 0).s.iss.acquires = false ∧ (s.cell 0).s.iss.fetchSince = none ∧
        ∃ x, s.fetchWord 0 (s.cell 0).s.iss.pc (s.whoOf 0 (.stream .s)) none = .ok x ∧ (match decode .s x.2 0 with
          | .instr i => decide (i = .add 0 4 0 3 0) && match exec i x.1 with | .next _ => true | _ => false
          | _ => false) = true) ∧
    (coded []).focus.1 < 192 ∧ (coded []).stalled = false ∧
    (let h : Entry := { pc := 64, word := (encode (.vend 0)).headD 0 }
     let s := (({ (vAt id).modCell 0 fun x => { x with ev := { x.ev with queue := [h] } } with agenda := [] } : State).inOrder 0 (.stream .v)).aim 0 (.stream .v)
     s.mayRun 0 (.stream .v) = true ∧ (s.cell 0).breakpoint .v = none ∧ (s.cell 0).head .v = some h ∧ decode .v h.word h.ext = .instr (.vend 0)) ∧
    encode .hotDecay = [] ∧ 192 ≤ ({ base with focus := (192, .stream .s) } : State).focus.1 := by
  refine ⟨?_, by decide +kernel⟩
  rintro s (rfl | rfl) <;> exact (by and_intros <;> first | exact ok_of (by decide +kernel) | decide +kernel)

/-- StepKeepsSound: a sound state whose step answers. -/
theorem witness_StepKeepsSound : base.Sound ∧ (match step base with | .next _ => true | _ => false) = true := by
  refine ⟨?_, by decide +kernel⟩
  constructor <;> decide +kernel

/-! ### Ill-formed terms, one for each check (R110) -/

theorem test_wf_predicate : Instr.check (.add 0b0011 5 6 7 0) = some .predicate := by decide
theorem test_wf_function : Instr.check (.mulh 0 1 2 3 3) = some .function := by decide
theorem test_wf_scope : Instr.check (.fence 0 8 10 0) = some .scope := by decide
theorem test_wf_condition : Instr.check (.vmpush 1 2 0 1 4) = some .condition := by decide
theorem test_wf_registerClash : Instr.check (.loops 5 5 0) = some .registerClash := by decide
theorem test_wf_shutterCode : Instr.check (.shut 0 7 6) = some .shutterCode := by decide
theorem test_wf_systemRegister : Instr.check (.rdsys 0 3 5) = some .systemRegister := by decide
theorem test_wf_streamMask : Instr.check (.estart 0 0 0) = some .streamMask := by decide
theorem test_wf_elementType : Instr.check (.vadd 0 1 2 3 11) = some .elementType := by decide
theorem test_wf_formatCode : Instr.check (.vcvt 1 2 0 0 0 11 0) = some .formatCode := by decide
theorem test_wf_rounding : Instr.check (.vcvt 1 2 0 0 5 0 0) = some .rounding := by decide
theorem test_wf_part : Instr.check (.vbcast 1 2 64 0) = some .part := by decide
theorem test_wf_offset : Instr.check (.bru 0 0) = some .offset := by decide
theorem test_wf_operand : Instr.check (.copy 0 0x180 0 0) = some .operand := by decide
theorem test_wf_tileFormat : Instr.check (.mmaExt 0 0 0x100 0 0 { zeroMma with ta := 7 }) = some .tileFormat := by decide
theorem test_wf_origin : Instr.check (.mspbExt 0 0 1 2 0 { zeroSparse with ora := 1 }) = some .origin := by decide
theorem test_wf_accKind : Instr.check (.mdrainExt 0 0 0x100 { zeroDrain with ak := 3 }) = some .accKind := by decide
theorem test_wf_loopLength : Instr.check (.mloop 0 1 0 0) = some .loopLength := by decide
theorem test_wf_pitch : Instr.check (.copyExt 0 0x100 1 0 { zeroCopy with tpl := 6 }) = some .pitch := by decide
theorem test_wf_injected : Instr.check (.copyF 0 0x100 1 0 0x24010217) = some .injected := by decide
theorem test_wf_entryRange : Instr.check (.cbload 0 0 7 1 0) = some .entryRange := by decide
theorem test_wf_cellNumber : Instr.check (.land 0 0 0 0 0 ⟨0, 0, 0, 192, 0⟩) = some .cellNumber := by decide
theorem test_wf_port : Instr.check (.coll 0 0 0 6 ⟨0, 0, 0⟩) = some .port := by decide

/-! ### Words that the specification prints -/

theorem test_decode_s_alu : decode .s 0x06032064 0 = .instr (.addImm 0 3 4 100) ∧ decode .s 0x094531C0 0 = .instr (.sub 0b1010 5 6 7 0) := by decide
theorem test_decode_s_mem : decode .s 0x41814C03 0 = .instr (.ld 3 0 5 6 3) ∧ decode .s 0x4D33A121 0 = .instr (.cas 4 3 7 8 9 1) := by decide
theorem test_decode_s_flow : decode .s 0x5C297FFB 0 = .instr (.loops 10 11 0x1FFB) ∧ decode .s 0x60100000 0 = .instr (.waitc 0 4 0 0 0 0) := by decide
theorem test_decode_s_tokens : decode .s 0x64007004 0 = .instr (.tsig 0 3 1 4) ∧ decode .s 0x68106002 0 = .instr (.twait 0 4 3 0 2) ∧
    decode .s 0x6C003A00 0 = .instr (.shut 0 7 2) ∧ decode .s 0x70210000 0 = .instr (.fence 0 8 4 0) := by decide
theorem test_decode_s_regs : decode .s 0x74002005 0 = .instr (.tdef 0 4 5) ∧ decode .s 0x78030010 0 = .instr (.rdsys 0 3 0x10) := by decide
theorem test_decode_s_work : decode .s 0x9004380C 0 = .instr (.qput 0 4 7 12) ∧ decode .s 0x94000007 0 = .instr (.estart 0 0 7) ∧
    decode .s 0x94003002 0 = .instr (.estart 0 6 2) ∧ decode .s 0x9805001E 0 = .instr (.etruncImm 0 5 3 2) ∧ decode .s 0x98054801 0 = .instr (.etruncReg 0 5 9 1) := by decide
theorem test_decode_s_pages : decode .s 0xB0043800 0 = .instr (.migrStart 0 4 7) ∧ decode .s 0xB0043801 0 = .instr (.migrCancel 0 4 7) ∧
    decode .s 0xB0053802 0 = .instr (.migrQuery 0 5 7) ∧ decode .s 0xB4003804 0 = .instr (.invpg 0 7 0 4) ∧ decode .s 0xB4003813 0 = .instr (.invpg 0 7 1 3) ∧
    decode .s 0xB4000024 0 = .instr (.invpg 0 0 2 4) := by decide
theorem test_decode_s_link : decode .s 0xB80531C3 0 = .instr (.pstf 0 5 6 7 0 3) ∧ decode .s 0xB80531C6 0 = .instr (.pstf 0 5 6 7 1 2) := by decide
theorem test_decode_s_rejects : decode .s 0x64007024 0 = .reject (.illFormed .function) ∧ decode .s 0x08600000 0 = .reject (.illFormed .predicate) ∧
    decode .s 0x3A000000 0 = .reject .unassigned := by decide
theorem test_decode_any_rejects : ∀ st, decode st 0 0 = .reject .unassigned ∧ decode st 0xC0000000 0 = .reject .unassigned := by intro st; cases st <;> decide
theorem test_decode_v_alu : decode .v 0x04031050 0 = .instr (.vadd 0 3 4 5 0) ∧ decode .v 0x124824A5 0 = .instr (.vfma 0b1001 8 9 10 5) ∧
    decode .v 0x44144000 0 = .instr (.vli 0 20 0x4000) := by decide
theorem test_decode_v_convert : decode .v 0x3461D420 0 = .instr (.vcvt 6 7 1 0 4 2 0) ∧ decode .v 0x6005410A 0 = .instr (.vmpush 21 1 0 1 2) := by decide
theorem test_decode_v_mem : decode .v 0x4C010419 0 = .instr (.vld 0 1 2 3 1) ∧ decode .v 0x781080C0 0 = .instr (.vpupdSgd 1 2 3) := by decide
theorem test_decode_v_flow : decode .v 0x6C000002 0 = .instr (.bru 0 2) ∧ decode .v 0x70043FFB 0 = .instr (.loopv 4 1 0x1FFB) ∧
    decode .v 0x88106002 0 = .instr (.vtwait 0 4 3 2) ∧ decode .v 0x8C183B00 0 = .instr (.vshut 0 6 7 3) ∧ decode .v 0x90000000 0 = .instr (.vend 0) := by decide
theorem test_decode_m_products : decode .m 0x04400005 0 = .instr (.mzero 2 5) ∧ decode .m 0x0884120B 0 = .instr (.mma 4 0 0x104 0x105 1) ∧
    decode .m 0x0ACC0A06 0x1000004C = .instr (.mmaExt 6 1 0x102 0x103 0 { zeroMma with kl := 8, tb := 4, ua := 1, ta := 4 }) ∧
    decode .m 0x09480E12 0 = .instr (.mma 10 1 3 0x109 0) := by decide
theorem test_decode_m_sparse : decode .m 0x0F982012 0x00100810 = .instr (.mspbExt 12 3 8 9 0 { zeroSparse with sat := 1, cq := 32, rq := 16 }) ∧
    decode .m 0x1900180E 0 = .instr (.mrsum 8 6 7 0) := by decide
theorem test_decode_m_drain : decode .m 0x1EAC2A17 0x00000105 = .instr (.mdrainQ 5 1 0x10A 0x10B (some { zeroDrain with ak := 1, f := 5 })) := by decide
theorem test_decode_m_control : decode .m 0x22000003 0x00400008 = .instr (.mcfg 0 3 { mode := 1, levee := 0, split := 8 }) ∧ decode .m 0x24010217 0 = .instr (.mloop 2 4 1 7) ∧
    decode .m 0x2800A001 0 = .instr (.mtsig 5 1) ∧ decode .m 0x2C806002 0 = .instr (.mtwait 4 3 2) ∧ decode .m 0x30C03800 0 = .instr (.mshut 6 7 0) ∧
    decode .m 0x35E00000 0 = .instr (.mend 15) ∧ decode .m 0x06000000 0 = .reject .unassigned := by decide
theorem test_decode_c_copy : decode .c 0x05103028 0 = .instr (.copy 8 0x103 5 0) ∧ decode .c 0x06C09011 0x08802407 = .instr (.copyF 6 9 2 0 0x08802407) ∧
    decode .c 0x0B10A020 0x06100000 = .instr (.gath 8 0x10A 4 ⟨6, 16, 0, 0, 0, 0⟩) ∧ decode .c 0x18907000 0 = .instr (.cbload 4 1 7 0 0) := by decide
theorem test_decode_c_control : decode .c 0x2C006000 0 = .instr (.cbar 0 3 0 0) ∧ decode .c 0x3400A001 0 = .instr (.ctsig 5 1) ∧ decode .c 0x40000000 0 = .instr (.cend 0) := by decide

/-! ### Examples of the specification, and results computed by hand from its rules -/

/-- The value of `s4` after an instruction. -/
def s4After (i : Instr) (s : State) (v : DWord) : Bool := after i s fun t => t.here.s.regs.getD 4 0 = v

/-- Cell 150's window and its `tile5`, its `v2`, and the cluster SRAM of quad 37 (the example of Device Organization). -/
theorem test_worked_addresses : place 0x3C00096014000 = .window 150 0x14000 ∧ place 0x3C00096900200 = .window 150 0x900200 ∧ homeQuad 0x3D00012800000 = 37 ∧
    place 0x3D00012800000 = .cluster ∧ homeDie 0x3C00096014000 = 3 := by decide
/-- The P16 table of Number Formats: guards, and the RN values of plane 0. -/
theorem test_p16_guards : [0x3C5A, 0x3CA0, 0x3C80, 0x3D80, 0xBCA0, 0x7BFF].map (guardBit 11) = [false, true, false, true, true, true] ∧
    [0x3C, 0x3D, 0xBC, 0x7B].map (fun p => planeRN 11 p true false) = [0x3D, 0x3E, 0xBD, 0x7C] ∧ planeRN 11 0x7B true true = 0x7B ∧ canonPlaned 11 0x7C01 = 0x7E00 := by decide
/-- The P8 sentence after it: −3 and −8 have guard 1, and RN gives 0. -/
theorem test_p8_guards : guardBit 13 0xFD = true ∧ guardBit 13 0xF8 = true ∧ planeRN 13 0xF true false = 0 := by decide
/-- The three L6 contributions of Number Formats. -/
theorem test_l6_contributions : l6Product 20 (32 + 27) 0 = -881664 ∧ l6Product 3 2 0 = 609 ∧ l6Product 1 2 0 = 430 ∧ l6Product 31 31 0 = 11862016 := by decide
/-- The two columns of the quantisation example: bias 0, multiplier 3, z_out −128 or 0, shift 4. -/
theorem test_quantise_columns : quantise 5 1120 120 (BitVec.ofNat 128 (3 + (2 ^ 16 - 128) * 2 ^ 64 + 4 * 2 ^ 80)) = 60 ∧
    quantise 5 (-837) 63 (BitVec.ofNat 128 (3 + (2 ^ 16 - 128) * 2 ^ 64 + 4 * 2 ^ 80)) = -128 := by decide
/-- The parts of the splitting example. -/
theorem test_split_example : partsOf 8 4 [20, 3, 9, 0] = [[0, 4, 5], [1], [2, 6], [3]] ∧ (List.range 20).map (runOf 20 3) = List.replicate 7 0 ++ List.replicate 7 1 ++ List.replicate 6 2 := by
  decide
/-- Elements: the largest E4M3, NaN codes, L6 ends, −0. -/
theorem test_element_values : fmtValue 4 0x7E = .fin false 14 20 ∧ fmtValue 4 0x7F = .nan ∧ fmtValue 9 0x20 = .nan ∧ fmtValue 9 1 = .fin false 1 (-15) ∧
    fmtValue 10 0xFF = .nan ∧ fmtValue 3 0x7C = .inf false ∧ fmtValue 7 0xF = .fin true 1 0 := by decide
/-- R63: the sum clamps with SAT, wraps without, and a NaR accumulator stays NaR (R62). -/
theorem test_accumulate : intStep 0x7FFFFFFF [1] true = 0x7FFFFFFF ∧ intStep 0x7FFFFFFF [1] false = 0x80000000 ∧ l6Step 0x80000000 [some 5] true = 0x80000000 := by decide

theorem test_addWraps : s4After (.add 0 4 2 3 0) (withS fun u => { u with regs := u.regs.set 2 (2 ^ 64 - 1) }) 4 = true := by decide +kernel
theorem test_subImm : s4After (.subImm 0 4 3 6) base (2 ^ 64 - 1) = true := by decide +kernel
theorem test_mulhSigned : s4After (.mulh 0 4 2 3 0) (withS fun u => { u with regs := u.regs.set 2 (2 ^ 64 - 2) }) (2 ^ 64 - 1) = true := by decide +kernel
theorem test_divOverflow : s4After (.divImm 0 4 2 0x7FF) (withS fun u => { u with regs := u.regs.set 2 (2 ^ 63) }) (2 ^ 63) = true := by decide +kernel
theorem test_remOverflow : s4After (.remImm 0 4 2 0x7FF) (withS fun u => { u with regs := u.regs.set 2 (2 ^ 63) }) 0 = true := by decide +kernel
theorem test_divTruncates : s4After (.divImm 0 4 2 3) (withS fun u => { u with regs := u.regs.set 2 (2 ^ 64 - 8) }) (2 ^ 64 - 2) = true := by decide +kernel
theorem test_sraNegative : s4After (.sraImm 0 4 2 1) (withS fun u => { u with regs := u.regs.set 2 (2 ^ 63) }) (3 * 2 ^ 62) = true := by decide +kernel
theorem test_limmSigns : s4After (.limm 0 4 0x8000) base (2 ^ 64 - 2 ^ 15) = true := by decide +kernel
theorem test_limmShifts : s4After (.limmSh 0 4 0x6014) (withS fun u => { u with regs := u.regs.set 4 0x3C0009 }) 0x3C00096014 = true := by decide +kernel
/-- A predicated-off instruction changes nothing but the program counter (q1 reads predicate 1). -/
theorem test_predicateOff : after (.add 9 4 2 3 0) (withS fun u => { u with preds := 0xFD }) (fun t => t.here.s.regs.getD 4 0 = 0 && t.here.s.iss.pc = 68) = true := by decide +kernel
/-- Passes 4 and 5 of the pipelined sum: the last pass that counts, then the fall-through. -/
theorem test_loopsDrains : after (.loops 2 3 0x1FFB) (withS fun u => { u with regs := (u.regs.set 2 0).set 3 2, preds := 3 })
    (fun t => t.here.s.regs.getD 3 0 = 1 && t.here.s.preds = 2 + 4 && t.here.s.iss.pc = 64 - 20) = true := by decide +kernel
theorem test_loopsEnds : after (.loops 2 3 0x1FFB) (withS fun u => { u with regs := (u.regs.set 2 0).set 3 1, preds := 2 })
    (fun t => t.here.s.regs.getD 3 0 = 0 && t.here.s.preds = 4 && t.here.s.iss.pc = 68) = true := by decide +kernel
theorem test_trapEntry : after (.trap 0 0x155) base (fun t => t.here.trap.inTrap && t.here.s.super && t.here.s.iss.pc = 0x400) = true := by decide +kernel

/-- The first conversion of the dither example: four lanes of 0x3F836000 from phase 0, and the phase it leaves. -/
theorem test_ditherExample : after (.vcvt 6 7 0 0 4 2 0) (vAt fun x => { x with v := { x.v with regs := x.v.regs.set 7 (lineOf 32 64 fun _ => 0x3F836000) } })
    (fun t => bitsAt (t.here.v.reg 6).toNat 0 64 = 0x3F833F843F833F84 && t.here.ev.phase = 5) = true := by decide +kernel
theorem test_vliFills : after (.vli 0 20 0x4000) (vAt id) (fun t => lane (t.here.v.reg 20) 63 = 0x40000000) = true := by decide +kernel
theorem test_mzero : after (.mzero 0 5) (mAt fun x => { x with m := { x.m with acc := List.replicate 256 7 } })
    (fun t => (t.here.m.acc.getD 63 7, t.here.m.acc.getD 64 0, t.here.m.acc.getD 191 7, t.here.m.acc.getD 192 0) = (0, 7, 0, 7)) = true := by decide +kernel

end Sys2Proof.Tests
end

/-! What reset leaves, field by field (R4, R444), and that it has the shape every step keeps. -/

namespace Sys2Proof.Machine

/-! ### Lists that hold one value everywhere

The model's files build without Mathlib, so these rest on core's lemmas only. -/

theorem getD_replicate_of_lt {α : Type} {n i : Nat} (a d : α) (h : i < n) : (List.replicate n a).getD i d = a := by
  rw [List.getD_eq_getElem?_getD, List.getElem?_replicate_of_lt h, Option.getD_some]

theorem getD_replicate_self {α : Type} (n i : Nat) (a : α) : (List.replicate n a).getD i a = a := by
  rw [List.getD_eq_getElem?_getD, List.getElem?_replicate]
  split
  · exact Option.getD_some
  · exact Option.getD_none

/-! ### The module after reset -/

@[simp] theorem reset_cells_length : State.reset.cells.length = 192 := List.length_replicate

@[simp] theorem reset_cell (c : Nat) : State.reset.cell c = {} := getD_replicate_self _ _ _

@[simp] theorem reset_port (p : Nat) : State.reset.port p = {} := getD_replicate_self _ _ _

/-- Views and scratchpads are empty memories, which are canonical. -/
theorem reset_sound : State.reset.Sound where
  cells := reset_cells_length
  quads := List.length_replicate
  views := List.length_replicate
  view := reset_wf
  pad x hx := by
    have hx : x = {} := List.eq_of_mem_replicate (n := Config.cells) hx
    rw [hx]; rfl

/-! ### A cell after reset -/

/-- Code 5 is FREE (R97). -/
theorem shutter_default (t : Nat) (h : t < 128) : ({} : Cell).shutter t = 5 := getD_replicate_of_lt _ _ h

theorem reg_default (r : Nat) : ({} : Cell).reg (.stream .s) r = 0 := by
  by_cases h : r = 0
  · rw [h, reg_zero]
  · rw [Cell.reg, if_neg h]
    exact getD_replicate_self _ _ _

/-- Settles O59: the lists of cells, ports, shutters and registers hold their reset values throughout (`reset_cell`,
`reset_port`, `shutter_default`, `reg_default`), the shape is `reset_sound`, and the other fields are as `State.reset`
gives them. -/
theorem resetState : Obligations.ResetState := by
  refine ⟨reset_cells_length, reset_sound, rfl, rfl, rfl, rfl, rfl, rfl, fun p _ => ?port, rfl, rfl, fun c _ => ?cell⟩
  case port => rw [reset_port]
  case cell =>
    rw [reset_cell]
    exact ⟨rfl, shutter_default, reg_default, rfl, rfl, rfl⟩

end Sys2Proof.Machine

/-! What the issue of an instruction of S leaves alone: the cell of the focus has one more unfinished entry, and no condition on
the machine's other parts sees it (R139, R163). -/

namespace Sys2Proof.Machine

/-! ### A cell replaced by one that looks the same -/

theorem cell_eq_getElem {s : State} {c : Nat} (h : c < s.cells.length) : s.cell c = s.cells[c] := by
  rw [State.cell, List.getD_eq_getElem?_getD, List.getElem?_eq_getElem h, Option.getD_some]

theorem setCell_of_not_lt {s : State} {c : Nat} {x : Cell} (h : ¬c < s.cells.length) : s.setCell c x = s := by
  rw [State.setCell, List.set_eq_of_length_le (Nat.le_of_not_lt h)]

/-- A list of what each cell shows is the same after a change of a cell that it does not see. -/
theorem map_setCell {α : Type} (g : Cell → α) {s : State} {c : Nat} {x : Cell} (h : g x = g (s.cell c)) :
    (s.setCell c x).cells.map g = s.cells.map g := by
  by_cases hc : c < s.cells.length
  · refine List.ext_getElem? fun k => ?_
    by_cases hk : c = k
    · subst hk
      simp [State.setCell, hc, h, cell_eq_getElem hc]
    · simp [State.setCell, hk]
  · rw [setCell_of_not_lt hc]

theorem flatMap_setCell {α : Type} (g : Cell → List α) {s : State} {c : Nat} {x : Cell} (h : g x = g (s.cell c)) :
    (s.setCell c x).cells.flatMap g = s.cells.flatMap g := by
  rw [List.flatMap_def, List.flatMap_def, map_setCell g h]

theorem any_setCell (g : Cell → Bool) {s : State} {c : Nat} {x : Cell} (h : g x = g (s.cell c)) :
    (s.setCell c x).cells.any g = s.cells.any g := by
  have := congrArg (·.any id) (map_setCell g h)
  simpa [List.any_map] using this

theorem setCell_self (s : State) (c : Nat) : s.setCell c (s.cell c) = s := by
  by_cases hc : c < s.cells.length
  · rw [State.setCell, cell_eq_getElem hc, List.set_getElem_self]
  · exact setCell_of_not_lt hc

theorem modCell_id (s : State) (c : Nat) : s.modCell c id = s := setCell_self s c

theorem partition_setCell (s : State) (c : Nat) (x : Cell) (fuel : Nat) (g : BitVec 32) :
    (s.setCell c x).partition fuel g = s.partition fuel g := by
  induction fuel generalizing g with
  | zero => rfl
  | succ n ih => simp only [State.partition, ih]; rfl

/-- The conditions on writes on their way and on peer stores see of a cell its waiting accesses and its task alone. -/
structure Cell.SameWaits (x y : Cell) : Prop where
  winWaits : y.winWaits = x.winWaits
  winRegs : y.winRegs = x.winRegs
  task : y.res.task = x.res.task

section
variable {s : State} {c : Nat} {x : Cell} (h : (s.cell c).SameWaits x)
include h

theorem storesOut_setCell (who : Nat × Agent) : (s.setCell c x).storesOut who = s.storesOut who := by
  simp only [State.storesOut, setCell_mem, setCell_disp]
  rw [flatMap_setCell]
  rw [h.winWaits, h.winRegs]

theorem waitingWrites_setCell (who : Nat × Agent) : (s.setCell c x).waitingWrites who = s.waitingWrites who := by
  unfold State.waitingWrites
  rw [any_setCell]
  rw [h.winWaits, h.winRegs]

theorem res_task_setCell (d : Nat) : ((s.setCell c x).cell d).res.task = (s.cell d).res.task := by
  by_cases hd : c = d
  · subst hd
    by_cases hc : c < s.cells.length
    · rw [cell_setCell s c x hc, h.task]
    · rw [setCell_of_not_lt hc]
  · rw [cell_setCell_other s c d x hd]

theorem counted_setCell (d scope dst : Nat) : (s.setCell c x).counted d scope dst = s.counted d scope dst := by
  simp only [State.counted, res_task_setCell h, partition_setCell]
  rfl

theorem peersDone_setCell (who : Nat × Agent) (scope : Nat) : (s.setCell c x).peersDone who scope = s.peersDone who scope := by
  simp only [State.peersDone, counted_setCell h]
  rfl

/-- Whether an agent's writes are performed at a scope does not depend on what its cell computes. -/
theorem performedAt_setCell (who : Nat × Agent) (scope : Nat) : (s.setCell c x).performedAt who scope = s.performedAt who scope := by
  simp only [State.performedAt, State.performedDie, State.performedAll, waitingWrites_setCell h, peersDone_setCell h, setCell_mem]

end

/-! ### The checks of R110 -/

theorem isNone_ck {p : Prop} [Decidable p] {e : IllFormed} : (ck p e).isNone = true ↔ p := by
  unfold ck
  split <;> simp [*]

theorem isNone_ck_or {p : Prop} [Decidable p] {e : IllFormed} {o : Option IllFormed} :
    (ck p e <|> o).isNone = true ↔ p ∧ o.isNone = true := by
  unfold ck
  split <;> simp [*]

theorem isNone_ck_ck {p r : Prop} [Decidable p] [Decidable r] {e g : IllFormed} : (ck p e <|> ck r g).isNone = true ↔ p ∧ r := by
  rw [isNone_ck_or, isNone_ck]

/-! ### The issued entry -/

theorem Cell.enter_sameWaits (x : Cell) (u : Unfinished) : x.SameWaits (x.enter u) := ⟨rfl, rfl, rfl⟩

section
variable {s : State} {q : BitVec 4} {i : Instr} {f : Form} (h : AtS s q)
include h

/-- At the boundary nothing is unfinished, so that the entry is the only one. -/
theorem entered_eq : s.entered i f = s.setCell s.focus.1 (s.here.enter (s.entry i f)) := by
  simp only [State.entered, State.issued, State.modIssue, State.modCell, Cell.modIssue, Cell.enter, Cell.passed, Bool.false_eq_true, if_false,
    h.unfinished, List.nil_append]

theorem entered_here : (s.entered i f).cell s.focus.1 = s.here.enter (s.entry i f) := by
  rw [entered_eq h, cell_setCell _ _ _ h.cell]

theorem olderOf_entered : (s.entered i f).olderOf s.focus.1 (.stream .s) = [] := by
  rw [State.olderOf, entered_here h]
  rfl

theorem storesOut_entered (who : Nat × Agent) : (s.entered i f).storesOut who = s.storesOut who := by
  rw [entered_eq h, storesOut_setCell (Cell.enter_sameWaits ..)]

theorem performedAt_entered (who : Nat × Agent) (scope : Nat) : (s.entered i f).performedAt who scope = s.performedAt who scope := by
  rw [entered_eq h, performedAt_setCell (Cell.enter_sameWaits ..)]

/-- With nothing older, the earlier accesses are performed as soon as the agent's writes are (R88). -/
theorem released_entered {scope : Nat} (hp : s.performedAt (s.focus.1, .stream .s) scope = true) :
    (s.entered i f).released s.focus.1 (.stream .s) [] scope = true := by
  simp [State.released, State.peersQueued, performedAt_entered h, hp]

theorem acquired_entered {scope : Nat} (hp : s.performedAt (s.focus.1, .stream .s) scope = true) :
    (s.entered i f).acquired s.focus.1 (.stream .s) [] scope = true := by
  rw [← performedAt_entered h (i := i) (f := f)] at hp
  have hd := (Bool.and_eq_true _ _).mp hp |>.2
  simp [State.acquired, State.peersSettled, State.peersQueued, hd]

end

/-! ### What an operation does to the cell at the boundary -/

/-- The cell with these unfinished entries and this wait of S. -/
def Cell.withEntries (x : Cell) (l : List Unfinished) (w : Option SWait) : Cell :=
  { x with s := { x.s with iss := { x.s.iss with unfinished := l, wait := w } } }

/-- `g` neither reads nor changes the unfinished entries and the wait of S. -/
def KeepsEntries (g : Cell → Cell) : Prop := ∀ x l w, g (x.withEntries l w) = (g x).withEntries l w

theorem keepsEntries_setReg (ag : Agent) (r : Nat) (v : DWord) : KeepsEntries fun x => x.setReg ag r v := by
  intro x l w
  cases ag <;> simp only [Cell.setReg] <;> split <;> rfl

theorem KeepsEntries.comp {g k : Cell → Cell} (hg : KeepsEntries g) (hk : KeepsEntries k) : KeepsEntries fun x => g (k x) :=
  fun x l w => (congrArg g (hk x l w)).trans (hg _ l w)

section
variable {s : State} {q : BitVec 4} {i : Instr} {f : Form} (h : AtS s q)
include h

/-- Such an operation does to the cell with the entry what it does to the cell that has passed the instruction. -/
theorem exit_enter {g : Cell → Cell} (hg : KeepsEntries g) (u : Unfinished) (np : Option DWord) :
    (g (s.here.enter u)).exit np =
      { g s.here.passed with s := { (g s.here.passed).s with iss := { (g s.here.passed).s.iss with pc := np.getD (g s.here.passed).s.iss.pc } } } := by
  have hu : s.here.passed.withEntries [] none = s.here.passed := by
    simp only [Cell.withEntries, Cell.passed, ← h.unfinished, ← h.wait]
  have he : s.here.enter u = s.here.passed.withEntries [u] s.here.s.iss.wait := rfl
  have hk : g s.here.passed = (g s.here.passed).withEntries [] none := by rw [← hg, hu]
  rw [he, hg, hk]
  rfl

/-- An instruction of S that finishes at issue by doing `g` to the cell does exactly that. -/
theorem retires_of_done {g : Cell → Cell} {np : Option DWord} {body : Nat → Agent → Unfinished → State → Fin} (hq : f.q = q)
    (wf : i.wellFormed = true) (p : f.super = true → s.here.s.super = true) (hg : KeepsEntries g)
    (hb : body s.focus.1 (.stream .s) (s.entry i f) (s.entered i f) = .done ((s.entered i f).modCell s.focus.1 g) np) :
    s.sIssue i f body = s.retire g np := by
  rw [sIssue_atS (hq ▸ h) wf p, hb]
  exact conclude_done g np h (exit_enter h hg _ np)

end

end Sys2Proof.Machine

/-! The waiting and ordering forms of S whose condition holds already (O9). -/

namespace Sys2Proof.Machine

/-! ### Tokens -/

section
variable {x : Cell} {k : Nat}

theorem token_set (h : k < x.tokens.length) {n : Nat} (hn : n < 2 ^ 16) :
    ({ x with tokens := x.tokens.set k (BitVec.ofNat 16 n) } : Cell).token k = n := by
  rw [Cell.token, List.getD_eq_getElem?_getD, List.getElem?_set_self h, Option.getD_some, BitVec.toNat_ofNat, Nat.mod_eq_of_lt hn]

theorem token_signal (h : k < x.tokens.length) (n : Nat) : (x.signal k n).token k = min 65535 (x.token k + n) :=
  token_set h (by omega)

theorem token_consume (h : k < x.tokens.length) (n : Nat) : (x.consume k n).token k = x.token k - n :=
  token_set h (Nat.lt_of_le_of_lt (Nat.sub_le ..) (BitVec.isLt _))

theorem token_signal_other {j : Nat} (h : j ≠ k) (n : Nat) : (x.signal k n).token j = x.token j := by
  simp [Cell.signal, Cell.token, Ne.symm h]

theorem token_consume_other {j : Nat} (h : j ≠ k) (n : Nat) : (x.consume k n).token j = x.token j := by
  simp [Cell.consume, Cell.token, Ne.symm h]

end

theorem tokenCounts : Claims.TokenCounts := fun _ _ _ n hk =>
  ⟨token_signal hk n, fun _ => token_consume hk n, fun hj => ⟨token_signal_other hj n, token_consume_other hj n⟩, rfl, rfl⟩

/-! ### The forms -/

section
variable {s : State} {q b : BitVec 4} (h : AtS s q) (hq : qpOk q = true)
include h hq

/-- `WAITC` with counts that are low enough (R163). -/
theorem waitc_retires {l st : BitVec 5} {cp t : BitVec 4} (hb : b = 15 → s.here.s.super = true)
    (hst : s.storesOut (s.focus.1, .stream .s) ≤ st.toNat) (hcp : s.peerStores s.focus.1 ≤ cp.toNat) :
    Retires s (.waitc q b l st cp t) id := by
  refine congrArg Host.Outcome.next (retires_of_done h rfl ?wf ?p (fun _ _ _ => rfl) ?body)
  case wf => exact isNone_ck.mpr hq
  case p => simpa using hb
  case body =>
    have hp : ∀ f, (s.entered (.waitc q b l st cp t) f).peerStores s.focus.1 = s.peerStores s.focus.1 := fun _ => rfl
    simp [State.classCounts, olderOf_entered h, State.storesClass, storesOut_entered h, hp, hst, hcp, modCell_id]

/-- The count of `TSIG` and `TWAIT`: the 12 bits themselves, or the low half of the register that they name (R164). -/
def State.countAt (s : State) (n : BitVec 1) (m : BitVec 12) : Nat :=
  if n = 1 then (s.sreg (m.extractLsb' 0 5)).toNat % 2 ^ 16 else m.toNat

omit h hq in
theorem countOf_entry (i : Instr) (f : Form) (n : BitVec 1) (m : BitVec 12) (ha : f.a = countReg n m) :
    countOf n m (s.entry i f) = s.countAt n m := by
  unfold countOf State.countAt
  split
  · next hn => simp only [State.entry, newEntry, ha, countReg, if_pos hn, bitsAt, Nat.pow_zero, Nat.div_one]
  · rfl

/-- `TSIG` behind accesses that are performed (R165). -/
theorem tsig_retires {k : BitVec 5} {n : BitVec 1} {m : BitVec 12} (hm : countOk n m = true)
    (hp : s.performedAt (s.focus.1, .stream .s) 3 = true) :
    Retires s (.tsig q k n m) fun x => x.signal k.toNat (s.countAt n m) := by
  refine congrArg Host.Outcome.next (retires_of_done h rfl ?wf ?p (fun _ _ _ => rfl) ?body)
  case wf => exact isNone_ck_ck.mpr ⟨hq, hm⟩
  case p => simp
  case body => simp [olderOf_entered h, released_entered h hp, countOf_entry]

/-- `TWAIT` whose token has its count (R166). -/
theorem twait_retires {k : BitVec 5} {n : BitVec 1} {m : BitVec 12} (hb : b = 15 → s.here.s.super = true) (hm : countOk n m = true)
    (hk : s.countAt n m ≤ s.here.token k.toNat) :
    Retires s (.twait q b k n m) fun x =>
      let y := x.consume k.toNat (s.countAt n m)
      { y with s := { y.s with iss := { y.s.iss with acquire := true } } } := by
  refine congrArg Host.Outcome.next (retires_of_done h rfl ?wf ?p (fun _ _ _ => rfl) ?body)
  case wf => exact isNone_ck_ck.mpr ⟨hq, hm⟩
  case p => simpa using hb
  case body =>
    have ht : ∀ u, (s.here.enter u).token k.toNat = s.here.token k.toNat := fun _ => rfl
    have hl : s.focus.1 < (s.entered (.twait q b k n m) { q := q, a := countReg n m, super := b = 15, wicket := false }).cells.length := by
      rw [entered_eq h, setCell_length]; exact h.cell
    simp only [entered_here h, countOf_entry, ht, hk, if_true, State.modIssue, modCell_modCell _ _ _ _ hl]
    rfl

/-- `SHUT` passes a tile that reads S, behind accesses that are performed at CELL scope (R167). -/
theorem shut_retires_pass {t : BitVec 7} {v : BitVec 3} (hv : v ≤ 5) (ht : s.here.shutter t.toNat = 0)
    (hp : s.performedAt (s.focus.1, .stream .s) 1 = true) :
    Retires s (.shut q t v) fun x => x.setShutter t.toNat v := by
  refine congrArg Host.Outcome.next (retires_of_done h rfl ?wf ?p (fun _ _ _ => rfl) ?body)
  case wf => exact isNone_ck_ck.mpr ⟨hq, hv⟩
  case p => simp
  case body =>
    have he : ∀ i f, (s.here.enter (s.entry i f)).effShutter (.stream .s) t.toNat = s.here.shutter t.toNat := fun _ _ => rfl
    simp [olderOf_entered h, entered_here h, he, ht, agentCode, streamNumber, released_entered h hp, passPending]

/-- `SHUT` claims a FREE tile (R167). -/
theorem shut_retires_claim {t : BitVec 7} (ht : s.here.shutter t.toNat = 5) :
    Retires s (.shut q t 0) fun x => x.setShutter t.toNat 0 := by
  refine congrArg Host.Outcome.next (retires_of_done h rfl ?wf ?p (fun _ _ _ => rfl) ?body)
  case wf => exact isNone_ck_ck.mpr ⟨hq, by decide⟩
  case p => simp
  case body =>
    have he : ∀ i f, (s.here.enter (s.entry i f)).effShutter (.stream .s) t.toNat = s.here.shutter t.toNat := fun _ _ => rfl
    simp [olderOf_entered h, entered_here h, he, ht, agentCode, streamNumber, passPending, codeFree]

omit hq in
/-- `FENCE` behind accesses that are performed at its scope; at PACKAGE scope and wider with no write on its way (R88, R168). -/
theorem fence_retires {sc : BitVec 4} {kd : BitVec 2} (hb : b = 15 → s.here.s.super = true)
    (wf : (Instr.fence q b sc kd).wellFormed = true) (hp : s.performedAt (s.focus.1, .stream .s) sc.toNat = true)
    (hd : sc.toNat ≤ 3 ∨ s.mem.pend = []) : Retires s (.fence q b sc kd) id := by
  refine congrArg Host.Outcome.next (retires_of_done h rfl wf ?p (fun _ _ _ => rfl) ?body)
  case p => simpa using hb
  case body =>
    have hn : ∀ i f n, sc.toNat ≤ 3 ∨ (s.entered i f).undelivered (dieOf s.focus.1) n = false := fun i f n =>
      hd.imp_right fun hd => by simp [State.undelivered, entered_eq h, hd]
    have hl : ∀ i f, (s.entry i f).lost = none := fun _ _ => rfl
    have hv : ∀ i f, (s.entry i f).value = none := fun _ _ => rfl
    simp only [olderOf_entered h, released_entered h hp, acquired_entered h hp, hl, hv, modCell_id, if_true]
    split
    · rfl
    · split
      · rfl
      · rfl
      · simp [hn]

end

/-- Each form retires at once, with its own effect. -/
theorem orderingCompletes : Claims.OrderingCompletes := fun _ _ _ _ _ _ _ _ _ _ _ _ _ _ h hq hb =>
  ⟨waitc_retires h hq hb, tsig_retires h hq, twait_retires h hq hb, shut_retires_pass h hq, shut_retires_claim h hq, fence_retires h hb⟩

/-- Settles O9: the forms whose condition holds finish at issue (`retires_of_done`), and a token's count is set by number. -/
theorem orderingForms : Obligations.OrderingForms := ⟨orderingCompletes, tokenCounts⟩

end Sys2Proof.Machine

/-! A step runs the decoded instruction (O58). -/

namespace Sys2Proof.Machine

/-- S fetches the instruction at its program counter when nothing comes before it (R139, R142). -/
theorem pick_scalar {s t : State} {c : Nat} {w : Word} {i : Instr} (hr : s.mayRun c (.stream .s) = true)
    (hb : (s.cell c).breakpoint .s = none) (hw : (s.cell c).s.iss.wait = none) (hp : (s.cell c).s.iss.replay = [])
    (hk : (s.cell c).s.iss.blocked = false) (ha : (s.cell c).s.iss.acquires = false) (hs : (s.cell c).s.iss.fetchSince = none)
    (hf : s.fetchWord c (s.cell c).s.iss.pc (s.whoOf c (.stream .s)) none = .ok (t, w)) (hd : decode .s w 0 = .instr i) :
    s.pick c (.stream .s) = .instr i t := by
  have hi : (s.cell c).issue (.stream .s) = (s.cell c).s.iss := rfl
  have h1 : s.pick c (.stream .s) = s.pickIssue c (.stream .s) := by simp [State.pick, hr, hb]
  have h2 : s.pickIssue c (.stream .s) = s.pickFetch c (.stream .s) := by simp [State.pickIssue, hi, hk, ha, hw, hp]
  rw [h1, h2]
  simp only [State.pickFetch, hi, hs, hf, hd, Option.isSome_none, Bool.false_eq_true, if_false]

/-- An engine stream executes the entry at its head (R259, R333). -/
theorem pick_engine {s : State} {c : Nat} {st : Stream} {h : Entry} {i : Instr} (hr : s.mayRun c (.stream st) = true) (hst : st ≠ .s)
    (hb : (s.cell c).breakpoint st = none) (hh : (s.cell c).head st = some h) (hd : decode st h.word h.ext = .instr i) :
    s.pick c (.stream st) = .instr i s := by
  simp [State.pick, hr, hb, hst, State.pickHead, hh, hd]

/-- Settles O58: what each agent picks is its decoded instruction (`pick_scalar`, `pick_engine`), which its move executes. -/
theorem stepRunsDecoded : Obligations.StepRunsDecoded := by
  unfold Obligations.StepRunsDecoded
  intro after runs s
  have picks : ∀ {s c ag i t}, runs s c ag i t → s.pick c ag = .instr i t := by
    rintro s c ag i t ⟨hr, ⟨rfl, hb, hw, hp, hk, ha, hs, w, hf, hd⟩ | ⟨st, h, hst, rfl, hb, hh, hd, rfl⟩⟩
    · exact pick_scalar hr hb hw hp hk ha hs hf hd
    · exact pick_engine hr hst hb hh hd
  refine ⟨fun c ag r i t ha => ?agent, fun e r ha he => ?event, fun i t u ha hc hs hu hx => ?turn, fun ha hc => ?noCell⟩
  case agent =>
    intro u hu
    simp only [step, ha]
    change runAgent c ag u = _
    simp only [runAgent, picks hu]
    cases exec i t <;> rfl
  case event => simp [step, ha, isEvent, he]
  case turn =>
    have hcells : ¬Config.cells ≤ s.focus.1 := Nat.not_le_of_lt hc
    simp [step, ha, hcells, hs, runAgent, picks hu, hx]
  case noCell =>
    have hcells : Config.cells ≤ s.focus.1 := hc
    simp [step, ha, hcells]

end Sys2Proof.Machine

/-! Taking a trap in S: what one unfinished instruction leaves behind (R142, R304, R305). -/

namespace Sys2Proof.Machine

/-- The cell in which S has taken a trap (R304). -/
def Cell.trapped (x : Cell) (t : TrapInfo) (ce : BitVec 4) (epos spc : DWord) (entries : List Unfinished) : Cell :=
  { x with
    trap := { x.trap with
      inTrap := true, cause := t.cause, epos := epos
      tfN := BitVec.ofNat 4 entries.length, tfCe := ce, pmode := x.s.super
      tfInfo := t.info, tfSpc := spc, frame := frameOf entries, acquire := x.s.iss.acquire }
    s := { x.s with super := true, iss := { pc := x.trap.tvec }, owed := x.s.unsent } }

/-- Outside a trap, with a vector that is valid, a trap is taken as the frame of R305 has it. -/
theorem enterTrap_eq {s : State} {c : Nat} {t : TrapInfo} {ce : BitVec 4} {epos spc : DWord} {entries : List Unfinished}
    (hi : (s.cell c).trap.inTrap = false) (hv : vectorOk (s.cell c).trap.tvec = true) :
    s.enterTrap c t ce epos spc entries = s.setCell c ((s.cell c).trapped t ce epos spc entries) := by
  simp only [State.enterTrap, hi, hv, Bool.not_true, Bool.false_eq_true, if_false]
  rfl

/-- The decided trap of the only unfinished instruction of S is taken; it is neither NOTPRESENT nor SELF. -/
theorem trapTake_only {s : State} {c : Nat} {u : Unfinished} {t : TrapInfo} (hu : (s.cell c).s.iss.unfinished = [u])
    (ht : u.trap = some t) (hn : t.cause ≠ cNOTPRESENT) (hs : t.cause ≠ cSELF) (hb : isBranch u.instr = false)
    (hi : (s.cell c).trap.inTrap = false) (hv : vectorOk (s.cell c).trap.tvec = true) :
    s.trapTake c (.stream .s) =
      s.setCell c ((s.cell c).trapped t 0 (eposOf .s u.pc 0 false) (s.cell c).s.iss.pc (u :: (s.cell c).s.iss.replay)) := by
  rw [← enterTrap_eq hi hv]
  have hu' : ((s.cell c).issue (.stream .s)).unfinished = [u] := hu
  simp only [State.trapTake, hu', ht, hn, hs, hb, List.any_nil, Bool.false_eq_true, if_false, List.singleton_append]
  rfl

/-- An instruction of S, no memory instruction and no branch, whose own operation decides a trap at the boundary, takes it. -/
theorem traps_of_trap {s : State} {q : BitVec 4} {i : Instr} {f : Form} {t : TrapInfo}
    {body : Nat → Agent → Unfinished → State → Fin} (h : AtS s q) (hq : f.q = q) (wf : i.wellFormed = true)
    (p : f.super = true → s.here.s.super = true) (hm : memInstr i = false) (hbr : isBranch i = false)
    (hn : t.cause ≠ cNOTPRESENT) (hs : t.cause ≠ cSELF) (hi : s.here.trap.inTrap = false) (hv : vectorOk s.here.trap.tvec = true)
    (hb : body s.focus.1 (.stream .s) (s.entry i f) (s.entered i f) = .trap t (s.entry i f))
    (hx : exec i s = .next (s.sIssue i f body)) :
    Traps s i t 0 (s.here.s.iss.pc + 4) 1 := by
  let u : Unfinished := { s.entry i f with trap := some t }
  let y : Cell := s.here.passed.withEntries [u] none
  have hc : (s.setCell s.focus.1 y).cell s.focus.1 = y := cell_setCell _ _ _ h.cell
  have hmark : ((s.entered i f).modIssue s.focus.1 (.stream .s) fun j => { (j.setLast u) with wait := none }) =
      s.setCell s.focus.1 y := by
    rw [State.modIssue, State.modCell, entered_here h, entered_eq h, setCell_setCell]
    rfl
  have hr : y.s.iss.replay = [] := h.replay
  have hi : ((s.setCell s.focus.1 y).cell s.focus.1).trap.inTrap = false := by rw [hc]; exact hi
  have hv : vectorOk ((s.setCell s.focus.1 y).cell s.focus.1).trap.tvec = true := by rw [hc]; exact hv
  have htake := trapTake_only (u := u) (by rw [hc]; rfl) rfl hn hs hbr hi hv
  have hm : memInstr (s.entry i f).instr = false := hm
  refine ⟨_, hx, ?_⟩
  rw [sIssue_atS (hq ▸ h) wf p, hb]
  simp only [State.conclude, State.concludeTrap, hm, Bool.false_eq_true, if_false]
  rw [hmark, htake, hc, setCell_setCell, State.here, setCell_focus, cell_setCell _ _ _ h.cell, hr]
  exact ⟨rfl, rfl, rfl, rfl, rfl, rfl, rfl, rfl, rfl, rfl, rfl, rfl, rfl, rfl⟩

end Sys2Proof.Machine

/-! `ESTART` and `ETRUNC` (O20). -/

namespace Sys2Proof.Machine

/-! ### The engines of a cell -/

@[simp] theorem engine_modEngine (x : Cell) (st : Stream) (f : Engine → Engine) : (x.modEngine st f).engine st = f (x.engine st) := by
  cases st <;> rfl

theorem keepsEntries_modEngine (st : Stream) (f : Engine → Engine) : KeepsEntries fun x => x.modEngine st f := by
  intro x l w
  cases st <;> rfl

theorem keepsEntries_startEngine (st : Stream) (pc : DWord) (idx : List Word) : KeepsEntries fun x => x.startEngine st pc idx :=
  keepsEntries_modEngine st _

theorem engine_enter (x : Cell) (u : Unfinished) (st : Stream) : (x.enter u).engine st = x.engine st := by
  cases st <;> rfl

theorem engine_passed (x : Cell) (st : Stream) : x.passed.engine st = x.engine st := by
  cases st <;> rfl

theorem headBegun_enter (x : Cell) (u : Unfinished) (st : Stream) : (x.enter u).headBegun st = x.headBegun st := by
  cases st <;> rfl

/-- The selected streams with their starts are started one after the other (R336). -/
def Cell.startEngines (x : Cell) (l : List (Stream × DWord × List Word)) : Cell :=
  l.foldl (fun x (st, pc, idx) => x.startEngine st pc idx) x

theorem keepsEntries_startEngines (l : List (Stream × DWord × List Word)) : KeepsEntries fun x => x.startEngines l := by
  induction l with
  | nil => exact fun _ _ _ => rfl
  | cons a r ih => exact ih.comp (keepsEntries_startEngine a.1 a.2.1 a.2.2)

theorem startEngine_engine (x : Cell) (st : Stream) (pc : DWord) (idx : List Word) :
    let g := (x.startEngine st pc idx).engine st
    g.started = true ∧ g.ended = false ∧ g.stopped = false ∧ g.queue = [] ∧ g.fpc = pc ∧ g.idx = idx ∧ g.phase = (x.engine st).phase := by
  simp only [Cell.startEngine, engine_modEngine, and_self]

/-! ### `ESTART` -/

section
variable {s : State} {q : BitVec 4} {a : BitVec 5} {m : BitVec 3} (h : AtS s q) (wf : (Instr.estart q a m).wellFormed = true)
include h wf

/-- What `ESTART` needs at issue. -/
abbrev estartForm (q : BitVec 4) (a : BitVec 5) : Form := { q := q, a := a, wicket := false, tests := true }

theorem estart_running_traps (hr : ∃ st ∈ selected m, (s.here.engine st).started = true ∧ (s.here.engine st).ended = false)
    (hi : s.here.trap.inTrap = false) (hv : vectorOk s.here.trap.tvec = true) :
    Traps s (.estart q a m) ⟨0x01, BitVec.ofNat 64 (wordOf (.estart q a m)).toNat⟩ 0 (s.here.s.iss.pc + 4) 1 := by
  refine traps_of_trap (f := estartForm q a) h rfl wf (fun hf => nomatch hf) rfl rfl
    (show (0x01 : BitVec 8) ≠ 0x08 by decide) (show (0x01 : BitVec 8) ≠ 0x38 by decide) hi hv ?body rfl
  have hany : (selected m).any (fun st => (s.here.engine st).started && !(s.here.engine st).ended) = true := by
    obtain ⟨st, hm, h1, h2⟩ := hr
    exact List.any_eq_true.mpr ⟨st, hm, by simp [h1, h2]⟩
  simp only [entered_here h, engine_enter, hany, if_true]
  rfl

section
variable (hr : ∀ st ∈ selected m, (s.here.engine st).started = false ∨ (s.here.engine st).ended = true)
  (hp : s.performedAt (s.focus.1, .stream .s) 3 = true)
include hr hp

/-- From the kernel's header (R336, R339). -/
theorem estart_header_retires {l : List (DWord × List Word)} (ha : s.sreg a = 0)
    (hl : (selected m).mapM ((s.entered (.estart q a m) (estartForm q a)).headerStart s.focus.1) = some l) :
    Retires s (.estart q a m) fun x => x.startEngines ((selected m).zip l) := by
  refine congrArg Host.Outcome.next (retires_of_done h rfl wf (fun hf => nomatch hf) (keepsEntries_startEngines _) ?body)
  have hany : (selected m).any (fun st => (s.here.engine st).started && !(s.here.engine st).ended) = false :=
    List.any_eq_false.mpr fun st hm => by rcases hr st hm with h1 | h1 <;> simp [h1]
  have ha : (s.entry (.estart q a m) (estartForm q a)).opa = 0 := ha
  simp only [entered_here h, engine_enter, hany, olderOf_entered h, released_entered h hp, ha, hl, if_true, Bool.not_true,
    Bool.false_eq_true, if_false]
  rfl

/-- From the start block (R336). -/
theorem estart_block {t : State} {l : List (DWord × List Word)} (hal : (s.sreg a).toNat % 64 = 0) (ha : s.sreg a ≠ 0)
    (hk : addrCheck (s.sreg a).toNat 64 = none)
    (hl : (s.entered (.estart q a m) (estartForm q a)).readStarts ((s.entered (.estart q a m) (estartForm q a)).whoOf s.focus.1 (.stream .s))
      s.cycle (s.sreg a).toNat (selected m) = .ok (t, some l)) :
    exec (.estart q a m) s =
      .next (t.conclude s.focus.1 (.stream .s) (.done (t.modCell s.focus.1 fun x => x.startEngines ((selected m).zip l)) none)) := by
  refine congrArg Host.Outcome.next ((sIssue_atS (f := estartForm q a) h wf fun hf => nomatch hf).trans ?_)
  have hany : (selected m).any (fun st => (s.here.engine st).started && !(s.here.engine st).ended) = false :=
    List.any_eq_false.mpr fun st hm => by rcases hr st hm with h1 | h1 <;> simp [h1]
  have hopa : (s.entry (.estart q a m) (estartForm q a)).opa = s.sreg a := rfl
  have hsince : (s.entry (.estart q a m) (estartForm q a)).since = s.cycle := rfl
  have hea : effAddr (s.entry (.estart q a m) (estartForm q a)) 0 = ((s.sreg a).toNat : Int) := by
    rw [effAddr, hopa, Int.add_zero]
    rfl
  simp only [entered_here h, engine_enter, hany, olderOf_entered h, released_entered h hp, hopa, hsince, ha, hea, hk, hal, hl,
    Int.toNat_natCast, afterRead, Bool.not_true, Bool.false_eq_true, if_false, ne_eq, not_true_eq_false]
  rfl

end
end

theorem estartCompletes : Claims.EstartCompletes :=
  ⟨fun _ _ _ _ _ _ h wf => ⟨fun hr hp => ⟨estart_header_retires h wf hr hp, estart_block h wf hr hp⟩, estart_running_traps h wf⟩,
    fun x st pc idx _ => startEngine_engine x st pc idx⟩

/-! ### `ETRUNC` -/

/-- The queue that a truncation leaves: the head when it has issued, the entries in front of the loop, and those of the
passes that remain (R39, R334). -/
theorem truncate_queue (g : Engine) (l : LoopState) (n : Nat) (begun : Bool) :
    (g.truncate l n begun).queue =
      let head := if begun then g.queue.take 1 else []
      let rest := g.queue.drop head.length
      head ++ (rest.takeWhile fun e => !l.has e) ++ (rest.filter l.has).filter fun e => decide (e.tag < n) := by
  unfold Engine.truncate
  simp only
  split <;> rfl

/-- An entry that stays behind the head is one of the queue, of the loop only when its pass remains. -/
theorem mem_truncated {l : LoopState} {n : Nat} {rest : List Entry} {e : Entry}
    (h : e ∈ (rest.takeWhile fun e => !l.has e) ++ (rest.filter l.has).filter fun e => decide (e.tag < n)) :
    e ∈ rest ∧ (l.has e = true → e.tag < n) := by
  rcases List.mem_append.mp h with h | h
  · have hn : l.has e = false := by simpa using List.all_eq_true.mp List.all_takeWhile e h
    exact ⟨(List.takeWhile_sublist _).subset h, fun hl => by simp [hn] at hl⟩
  · obtain ⟨h, ht⟩ := List.mem_filter.mp h
    exact ⟨(List.mem_filter.mp h).1, fun _ => of_decide_eq_true ht⟩

theorem truncate_keeps (g : Engine) (l : LoopState) (n : Nat) (begun : Bool) :
    (g.truncate l n begun).inprog = g.inprog ∧ (g.truncate l n begun).phase = g.phase := by
  unfold Engine.truncate
  simp only
  split <;> exact ⟨rfl, rfl⟩

theorem truncates : Claims.Truncates := by
  intro g l n begun u
  have hq : u.queue = _ := truncate_queue g l n begun
  refine ⟨?head, ?rest, ?fetch, truncate_keeps g l n begun⟩
  case head =>
    intro hb
    rw [hq]
    cases g.queue <;> simp [hb]
  case rest =>
    rw [hq]
    intro e he
    cases begun with
    | false => exact mem_truncated (by simpa using he)
    | true =>
      cases hg : g.queue with
      | nil => simp [hg] at he
      | cons a r =>
        obtain ⟨hm, ht⟩ := mem_truncated (l := l) (n := n) (rest := r) (by simpa [hg] using he)
        exact ⟨List.mem_cons_of_mem _ hm, ht⟩
  case fetch =>
    intro hl
    have hn : ¬(l.unrolling ∧ l.pass ≤ n) := fun ⟨h1, h2⟩ => hl.elim (fun h => by simp [h] at h1) fun h => Nat.not_le_of_lt h h2
    show (g.truncate l n begun).fpc = _
    simp only [Engine.truncate, hn, if_false]

/-! ### `ETRUNC` on a running stream -/

section
variable {x : Cell} {st : Stream} {l : LoopState} {n : Nat}

theorem etrunc_no_loop (h : ((x.engine st).started = false ∨ (x.engine st).ended = true) ∨ (x.engine st).currentLoop (x.headBegun st) = none) :
    x.etrunc st n = (65535, x) := by
  unfold Cell.etrunc
  rcases h with (h | h) | h
  · simp [h]
  · simp [h]
  · simp only [h, ite_self]

variable (hs : (x.engine st).started = true) (he : (x.engine st).ended = false) (hl : (x.engine st).currentLoop (x.headBegun st) = some l)
include hs he hl

theorem etrunc_short (hn : l.trip ≤ n) : x.etrunc st n = (l.trip, x) := by
  simp [Cell.etrunc, hs, he, hl, hn]

theorem etrunc_truncates (hn : n < l.trip) : x.etrunc st n = (n, x.modEngine st fun g => g.truncate l n (x.headBegun st)) := by
  simp [Cell.etrunc, hs, he, hl, Nat.not_le_of_lt hn]

end

section
variable {s : State} {q : BitVec 4} {i : Instr} {f : Form} (h : AtS s q) (hq : f.q = q) (wf : i.wellFormed = true)
  (hf : f.super = false) {e : BitVec 2} {n v : Nat} {body : Nat → Agent → Unfinished → State → Fin}
  (hb : ∀ c ag t, body c ag (s.entry i f) t = etruncBody e n c ag (s.entry i f) t)
include h hq wf hf hb

/-- The cell with the entry is truncated as the cell itself would be. -/
theorem etruncBody_retires {k : Cell → Cell} (hk : KeepsEntries k)
    (ht : (s.here.enter (s.entry i f)).etrunc (streamOf e.toNat) n = (v, k (s.here.enter (s.entry i f)))) :
    s.sIssue i f body = s.retire fun x => (k x).setReg (.stream .s) f.dest.toNat (BitVec.ofNat 64 v) := by
  refine retires_of_done h hq wf (by simp [hf]) (KeepsEntries.comp (keepsEntries_setReg _ _ _) hk) ?_
  have hu : ((s.entered i f).setCell s.focus.1 (k (s.here.enter (s.entry i f)))).mem.uncorr = [] := by
    rw [entered_eq h]; exact h.sound
  rw [hb, etruncBody, entered_here h, ht]
  simp only
  rw [setReg_sound hu, ← entered_here h, ← State.modCell, modCell_modCell _ _ _ _ (by rw [entered_eq h, setCell_length]; exact h.cell)]
  rfl

/-- What `ETRUNC` with the count `n` does (R337). -/
theorem etrunc_results (hx : exec i s = .next (s.sIssue i f body)) :
    let st := streamOf e.toNat
    let g := s.here.engine st
    let begun := s.here.headBegun st
    (((g.started = false ∨ g.ended = true) ∨ g.currentLoop begun = none) → Writes s i f.dest 65535) ∧
    (∀ l, g.started = true → g.ended = false → g.currentLoop begun = some l →
      (l.trip ≤ n → Writes s i f.dest (BitVec.ofNat 64 l.trip)) ∧
      (n < l.trip → ∃ y : Cell → Cell, Retires s i (fun x => (y x).setReg (.stream .s) f.dest.toNat (BitVec.ofNat 64 n)) ∧
        (y s.here.passed).engine st = g.truncate l n begun)) := by
  intro st g begun
  have hg : (s.here.enter (s.entry i f)).engine st = g := engine_enter ..
  have hbg : (s.here.enter (s.entry i f)).headBegun st = begun := headBegun_enter ..
  simp only [Writes, Retires, hx, Host.Outcome.next.injEq]
  refine ⟨fun hn => ?noLoop, fun l hs he hl => ⟨fun hn => ?short, fun hn => ?long⟩⟩
  case noLoop =>
    refine etruncBody_retires h hq wf hf hb (k := id) (fun _ _ _ => rfl) (etrunc_no_loop ?_)
    rw [hg, hbg]
    exact hn
  case short =>
    refine etruncBody_retires h hq wf hf hb (k := id) (fun _ _ _ => rfl) (etrunc_short ?_ ?_ ?_ hn)
    all_goals rwa [hg]
  case long =>
    refine ⟨fun x => x.modEngine st fun g => g.truncate l n begun, etruncBody_retires h hq wf hf hb (keepsEntries_modEngine _ _) ?_, ?_⟩
    · rw [← hbg]
      refine etrunc_truncates ?_ ?_ ?_ hn
      all_goals rwa [hg]
    · rw [engine_modEngine, engine_passed]

end

theorem etruncCompletes : Claims.EtruncCompletes := by
  intro s q d a n e h hq he st g A begun
  have hn : (n.setWidth 64 : DWord) = BitVec.ofNat 64 n.toNat := by simp
  have hA : bitsAt (s.sreg a).toNat 0 16 = A := by rw [bitsAt, Nat.pow_zero, Nat.div_one]
  rw [hn]
  obtain ⟨noLoopI, loopI⟩ := etrunc_results (i := .etruncImm q d n e) (f := { q := q, dest := d, wicket := false }) h rfl
    (isNone_ck_ck.mpr ⟨hq, he⟩) rfl (fun _ _ _ => rfl) rfl
  obtain ⟨noLoopR, loopR⟩ := etrunc_results (i := .etruncReg q d a e) (f := { q := q, a := a, dest := d, wicket := false }) (n := A)
    (body := fun c ag u t => etruncBody e (bitsAt u.opa.toNat 0 16) c ag u t) h rfl
    (isNone_ck_ck.mpr ⟨hq, he⟩) rfl (fun c ag t => congrArg (etruncBody e · c ag (s.entry _ _) t) hA) rfl
  refine ⟨fun hn => ⟨noLoopI hn, noLoopR hn⟩, fun l hs hend hl => ?_⟩
  obtain ⟨shortI, longI⟩ := loopI l hs hend hl
  obtain ⟨shortR, longR⟩ := loopR l hs hend hl
  exact ⟨shortI, shortR, longI, longR⟩

/-- Settles O20: a start and a truncation are what `retires_of_done` says of the cell's engines; a running stream traps. -/
theorem engineStart : Obligations.EngineStart := ⟨estartCompletes, truncates, etruncCompletes⟩

end Sys2Proof.Machine

/-! The issue of an engine instruction at its queue's head, and what V's coupling instructions do there (O27). -/

namespace Sys2Proof.Machine

/-! ### The head of an engine's queue -/

theorem head_of_queue {x : Cell} {st : Stream} (h : x.m.inject = none ∨ st ≠ .m) : x.head st = (x.engine st).queue.head? := by
  unfold Cell.head
  split
  · next hi => exact (h.elim (fun h => by simp [h] at hi) fun h => absurd rfl h)
  · rfl

theorem fromSlot_false {x : Cell} {st : Stream} (h : x.m.inject = none ∨ st ≠ .m) : x.fromSlot st = false := by
  rcases h with h | h <;> simp [Cell.fromSlot, h]

theorem headRuns_of_running {x : Cell} {st : Stream} (hs : x.m.inject = none ∨ st ≠ .m) (hg : (x.engine st).started = true)
    (hr : (x.engine st).ended = false ∧ (x.engine st).stopped = false ∧ (x.engine st).quiesced = false) : x.headRuns st = true := by
  obtain ⟨he, hst, hq⟩ := hr
  simp [Cell.headRuns, fromSlot_false hs, hg, he, hst, hq]

/-- A well-formed instruction at a head that runs, whose predicate holds and whose bound it may have, does its own operation. -/
theorem eIssue_running {s : State} {st : Stream} {h : Entry} {i : Instr} {f : EForm} {body : Nat → Entry → State → EFin}
    (hh : s.here.head st = some h) (hr : s.here.headRuns st = true) (hfree : h.held = none) (wf : i.wellFormed = true)
    (hb : f.unbounded = true → s.here.s.super = true) (hp : st = .v → predHolds s.here.v.preds f.q = true)
    (ht : (s.here.engine st).table = none) (hs : s.mem.uncorr = []) :
    s.eIssue st i f body = s.eConclude s.focus.1 st i h (body s.focus.1 h s) := by
  have hpriv : (f.unbounded && !s.here.s.super) = false := by
    cases hf : f.unbounded with
    | false => rfl
    | true => rw [hb hf]; rfl
  have hpred : (decide (st = .v) && !predHolds s.here.v.preds f.q) = false := by
    by_cases hv : st = .v
    · rw [hp hv]; simp
    · simp [hv]
  simp only [State.eIssue, hh, hr, hfree, wf, hpriv, hpred, ht, State.vregUncorr, hs, State.onTable, Bool.not_true, Bool.false_and,
    List.isEmpty_nil, Bool.false_eq_true, if_false]

theorem eIssue_atHead {s : State} {st : Stream} {h : Entry} {i : Instr} {f : EForm} {body : Nat → Entry → State → EFin}
    (k : AtHead s st h) (wf : i.wellFormed = true) (hb : f.unbounded = true → s.here.s.super = true)
    (hp : st = .v → predHolds s.here.v.preds f.q = true) :
    s.eIssue st i f body = s.eConclude s.focus.1 st i h (body s.focus.1 h s) :=
  eIssue_running (by rw [head_of_queue k.noSlot]; exact k.head) (headRuns_of_running k.noSlot k.started k.running) k.free wf hb hp k.table
    k.sound

/-! ### The end of V's instruction -/

theorem vDone_id (s : State) (c : Nat) : s.vDone c id = .done (s.modCell c fun x => x.charge x.weights.vector.toNat) := rfl

theorem stall_here (s : State) : s.stall.here = s.here := rfl

/-- The state in which V has finished an instruction that does `g` to the cell (R315). -/
abbrev State.vLeaves (s : State) (g : Cell → Cell) : State := s.leave .v fun x => (g x).charge x.weights.vector.toNat

/-- `i` waits at V's head: the cell's state and memory stay as they were, but for the marks of the wait (R98, R205). -/
def VWaits (s : State) (i : Instr) : Prop :=
  ∃ u, exec i s = .next u ∧ u.stalled = true ∧ u.here.ev.queue = s.here.ev.queue ∧ u.here.tokens = s.here.tokens ∧
    u.here.shutters = s.here.shutters ∧ u.here.v = s.here.v ∧ u.mem = s.mem

section
variable {s : State} {h : Entry} {i : Instr} {f : EForm} {body : Nat → Entry → State → EFin} (k : AtHead s .v h) (wf : i.wellFormed = true)
  (hb : f.unbounded = true → s.here.s.super = true) (hp : predHolds s.here.v.preds f.q = true)
  (hx : exec i s = .next (s.eIssue .v i f body))
include k wf hb hp hx

/-- An instruction of V that finishes by doing `g` to the cell leaves the queue, charged. -/
theorem leaves_of_done {g : Cell → Cell} (hd : body s.focus.1 h s = (s.modCell s.focus.1 g).vDone s.focus.1 id)
    (hw : ∀ x, (g x).weights = x.weights) : exec i s = .next (s.vLeaves g) := by
  rw [hx, eIssue_atHead k wf hb fun _ => hp, hd]
  simp only [vDone_id, State.eConclude, State.leave, modCell_modCell _ _ _ _ k.cell, modCell_cycle, hw]

theorem waits_of_wait {g : Engine → Engine} (hd : body s.focus.1 h s = .wait (s.modCell s.focus.1 fun x => x.modEngine .v g))
    (hg : ∀ x, (g x).queue = x.queue) : VWaits s i := by
  refine ⟨_, hx, ?_⟩
  simp only [eIssue_atHead k wf hb fun _ => hp, hd, State.eConclude]
  have hc : ((s.modCell s.focus.1 fun x => x.modEngine .v g).modCell s.focus.1 fun x =>
      x.waitHead .v (s.modCell s.focus.1 fun x => x.modEngine .v g).cycle).stall.here =
      (s.here.modEngine .v g).waitHead .v s.cycle := by
    rw [modCell_modCell _ _ _ _ k.cell, stall_here]
    exact cell_modCell _ _ _ k.cell
  rw [hc]
  exact ⟨rfl, hg _, rfl, rfl, rfl, rfl⟩

end

/-! ### `VTSIG`, `VTWAIT`, `VSHUT` and `VEND` -/

section
variable {s : State} {h : Entry} {q b : BitVec 4} (at_ : AtHead s .v h) (hq : qpOk q = true) (hp : predHolds s.here.v.preds q = true)
include at_ hq hp

theorem vtsig_leaves (k : BitVec 5) (n : BitVec 12) : exec (.vtsig q k n) s = .next (s.vLeaves fun x => x.signal k.toNat n.toNat) :=
  leaves_of_done (i := .vtsig q k n) (f := { q := q }) at_ (isNone_ck.mpr hq) (fun hu => nomatch hu) hp rfl rfl fun _ => rfl

theorem vend_leaves :
    exec (.vend q) s = .next (s.vLeaves fun x => { x with ev := { x.ev with ended := true, fetching := false } }) :=
  leaves_of_done (i := .vend q) (f := { q := q }) at_ (isNone_ck.mpr hq) (fun hu => nomatch hu) hp rfl rfl fun _ => rfl

variable (hb : b = 15 → s.here.s.super = true)
include hb

theorem vtwait_leaves {k : BitVec 5} {n : BitVec 12} (hn : n.toNat ≤ s.here.token k.toNat)
    (ht : s.tokenTaken s.focus.1 .v k.toNat = false) :
    exec (.vtwait q b k n) s = .next (s.vLeaves fun x => x.consume k.toNat n.toNat) := by
  refine leaves_of_done (i := .vtwait q b k n) (f := { q := q, unbounded := b = 15 }) at_ (isNone_ck.mpr hq) (by simpa using hb) hp rfl ?_ fun _ => rfl
  simp [Nat.not_lt_of_le hn, ht]

/-- The token lacks its count, or an earlier stream takes it (R36). -/
theorem vtwait_waits {k : BitVec 5} {n : BitVec 12} (hn : s.here.token k.toNat < n.toNat ∨ s.tokenTaken s.focus.1 .v k.toNat = true) :
    VWaits s (.vtwait q b k n) := by
  refine waits_of_wait (i := .vtwait q b k n) (f := { q := q, unbounded := b = 15 }) (g := id) at_ (isNone_ck.mpr hq) (by simpa using hb) hp rfl ?_ fun _ => rfl
  have hcond : (decide (s.here.token k.toNat < n.toNat) || s.tokenTaken s.focus.1 .v k.toNat) = true := by simpa using hn
  simp only [hcond, if_true]
  exact congrArg EFin.wait (modCell_id s _).symm

/-- `VSHUT` where the pass or the claim is permitted (R205). -/
theorem vshut_leaves {t : BitVec 7} {c : BitVec 3} (hc : c ≤ 5)
    (ht : s.here.shutter t.toNat = 1 ∨ s.here.shutter t.toNat = 5 ∧ c = 1 ∧ s.here.ev.wantsOwn = false) :
    exec (.vshut q b t c) s = .next (s.vLeaves fun x => x.setShutter t.toNat c) := by
  refine leaves_of_done (i := .vshut q b t c) (f := { q := q, unbounded := b = 15 }) at_ (isNone_ck_ck.mpr ⟨hq, hc⟩) (by simpa using hb) hp rfl ?_ fun _ => rfl
  have hpass : s.here.enginePass .v t.toNat c = some (s.here.setShutter t.toNat c) := by
    refine if_pos (ht.imp_right fun ⟨h1, h2, h3⟩ => ⟨h1, h2, ?_⟩)
    show (!s.here.ev.wantsOwn) = true
    rw [h3]; rfl
  simp only [hpass]
  rfl

theorem vshut_waits {t : BitVec 7} {c : BitVec 3} (hc : c ≤ 5) (h1 : s.here.shutter t.toNat ≠ 1)
    (h2 : s.here.shutter t.toNat ≠ 5 ∨ c ≠ 1 ∨ s.here.ev.wantsOwn = true) : VWaits s (.vshut q b t c) := by
  refine waits_of_wait (i := .vshut q b t c) (f := { q := q, unbounded := b = 15 }) (g := fun g => { g with wantsOwn := true }) at_ (isNone_ck_ck.mpr ⟨hq, hc⟩)
    (by simpa using hb) hp rfl ?_ fun _ => rfl
  have hpass : s.here.enginePass .v t.toNat c = none := by
    refine if_neg fun hor => hor.elim h1 fun ⟨h5, h6, h7⟩ => ?_
    have h7 : (!s.here.ev.wantsOwn) = true := h7
    rcases h2 with h2 | h2 | h2
    · exact h2 h5
    · exact h2 h6
    · simp [h2] at h7
  simp only [hpass]
  rfl

end

/-- Settles O27: each instruction finishes by its effect (`leaves_of_done`), or waits (`waits_of_wait`). -/
theorem vCouplingAndEnd : Obligations.VCouplingAndEnd := fun _ _ _ _ k n _ _ at_ hp hq hb =>
  ⟨vtsig_leaves at_ hq hp k n, vtwait_leaves at_ hq hp hb, vtwait_waits at_ hq hp hb, fun hc ht => vshut_leaves at_ hq hp hb hc (.inl ht),
    fun h5 hw => vshut_leaves at_ hq hp hb (by decide) (.inr ⟨h5, rfl, hw⟩), vshut_waits at_ hq hp hb, vend_leaves at_ hq hp⟩

end Sys2Proof.Machine

/-! Fetch into a queue, issue from the injection slot, and the completion of commands (O36). -/

namespace Sys2Proof.Machine

/-! ### Fetch -/

/-- A cached word that is one word long and no loop enters the queue at the fetch address (R333). -/
theorem placeEntry_cached {s : State} {c : Nat} {st : Stream} {w : Word} {i : Instr} (hst : st ≠ .s)
    (hm : ((s.cell c).engine st).mayFetch st = true)
    (hw : State.fetchWord.look' (s.cell c).icache ((s.cell c).res.ctx, ((s.cell c).engine st).fpc) = some w)
    (hx : hasExtension st w = false) (hd : decode st w 0 = .instr i) (hl : loopOf ((s.cell c).engine st).fpc i = none) :
    let g := (s.cell c).engine st
    s.placeEntry c st = s.modCell c fun x => x.modEngine st fun k =>
      { k with queue := k.queue ++ [{ pc := g.fpc, word := w, tag := g.tagAt g.fpc, idx := g.idx }], fpc := g.fpc + 4, fetchSince := none } := by
  intro g
  have hf : ∀ t, s.fetchWord c g.fpc (s.whoOf c (.stream st)) t = .ok (s, w) := fun t => by
    simp only [State.fetchWord, State.whoOf, hw, g]
  have hm : ((s.cell c).engine st).mayFetch st = true := hm
  simp only [State.placeEntry, hst, hm, decide_false, Bool.not_true, Bool.or_self, Bool.false_eq_true, if_false]
  rw [hf]
  simp only [hx, Bool.false_eq_true, if_false, hd, hl]
  rfl

theorem engineFetch_cached {s : State} {c : Nat} {st : Stream} {w : Word} {i : Instr} (hc : c < s.cells.length) (hst : st ≠ .s)
    (hm : ((s.cell c).engine st).mayFetch st = true)
    (hw : State.fetchWord.look' (s.cell c).icache ((s.cell c).res.ctx, ((s.cell c).engine st).fpc) = some w)
    (hx : hasExtension st w = false) (hd : decode st w 0 = .instr i) (hl : loopOf ((s.cell c).engine st).fpc i = none) :
    let g := (s.cell c).engine st
    let t := s.engineFetch c st
    ((t.cell c).engine st).queue = g.queue ++ [{ pc := g.fpc, word := w, tag := g.tagAt g.fpc, idx := g.idx }] ∧
      ((t.cell c).engine st).fpc = g.fpc + 4 ∧ t.mem = s.mem := by
  intro g t
  have ht : t = s.engineFetch c st := rfl
  rw [State.engineFetch, placeEntry_cached hst hm hw hx hd hl] at ht
  split at ht
  · rw [modCell_modCell _ _ _ _ hc] at ht
    rw [ht, cell_modCell _ _ _ hc]
    simp only [engine_modEngine]
    exact ⟨rfl, rfl, rfl⟩
  · rw [ht, cell_modCell _ _ _ hc]
    simp only [engine_modEngine]
    exact ⟨rfl, rfl, rfl⟩

/-! ### The injection slot -/

/-- The cell whose head command has issued with `n` steps performed. -/
def Cell.issueHead (x : Cell) (st : Stream) (i : Instr) (h : Entry) (n now : Nat) : Cell :=
  let fresh : Bool := st = Stream.m && x.m.openTiles = 0 && (x.engine st).inprog.isEmpty && (x.engine st).nextStep = 0
  let k : Command :=
    { instr := i, entry := h, since := (x.reachedAt st).getD now, next := n, table := (x.engine st).table.getD x.tensors, rounds := (x.engine st).rounds }
  let x := (x.leaveHead st now).modEngine st fun g => { g with inprog := g.inprog ++ [k] }
  if st = Stream.m then { x with m := { x.m with rowValid := false, retiredAt := if fresh then now else x.m.retiredAt } } else x

theorem eConclude_issued (s t : State) (c : Nat) (st : Stream) (i : Instr) (h : Entry) (n : Nat) :
    s.eConclude c st i h (.issued t n) = t.modCell c fun x => x.issueHead st i h n t.cycle := rfl

/-- A command that issues from the slot leaves it empty and is the last in progress; the queue stays. -/
theorem issueHead_slot {x : Cell} (hs : x.fromSlot .m = true) (i : Instr) (h : Entry) (n now : Nat) :
    let y := x.issueHead .m i h n now
    y.m.inject = none ∧ y.em.inprog.map (·.instr) = x.em.inprog.map (·.instr) ++ [i] ∧ y.em.queue = x.em.queue ∧ y.m.acc = x.m.acc := by
  have hl : x.leaveHead .m now = { x with m := { x.m with inject := none } } := if_pos hs
  simp only [Cell.issueHead, hl]
  exact ⟨rfl, List.map_append, rfl, rfl⟩

/-- The steps of `MZERO` (R238). -/
def Cell.zeroTiles (x : Cell) (m : BitVec 4) : Cell :=
  { x with m := { x.m with acc := (List.range 256).map fun r => if m.getLsbD (r / 64) then 0 else x.m.acc.getD r 0 } }

theorem acc_zeroTiles (x : Cell) (m : BitVec 4) {r : Nat} (h : r < 256) :
    (x.zeroTiles m).m.acc.getD r 0 = if m.getLsbD (r / 64) then 0 else x.m.acc.getD r 0 := by
  rw [Cell.zeroTiles, List.getD_eq_getElem?_getD, List.getElem?_map, List.getElem?_range h]
  rfl

/-- The command that waits in the slot is at M's head while no stopped command resumes there (R38). -/
theorem head_injected {x : Cell} {e : Entry} (hi : x.m.inject = some e) (hr : x.m.rowValid = false) (hn : x.em.nextStep = 0) :
    x.head .m = some { e with inj := true } := by
  simp [Cell.head, hi, hr, hn]

theorem headRuns_injected {x : Cell} {e : Entry} (hi : x.m.inject = some e) (hr : x.m.rowValid = false) (hn : x.em.nextStep = 0)
    (hh : x.m.injectHeld = false) (hq : x.em.quiesced = false) : x.headRuns .m = true := by
  simp [Cell.headRuns, Cell.fromSlot, Cell.engine, hi, hr, hn, hh, hq]

/-- `MZERO` at a head that runs, with no command in progress, issues with its one step performed (R238). -/
theorem mzero_issues {s : State} {h : Entry} {b m : BitVec 4} (hh : s.here.head .m = some h) (hr : s.here.headRuns .m = true)
    (hfree : h.held = none) (hb : b ≠ 15) (ht : s.here.em.table = none) (hs : s.mem.uncorr = []) (hp : s.here.em.inprog = [])
    (hc : s.focus.1 < s.cells.length) :
    exec (.mzero b m) s = .next (s.modCell s.focus.1 fun x => (x.zeroTiles m).issueHead .m (.mzero b m) h 1 s.cycle) := by
  refine congrArg Host.Outcome.next ((eIssue_running (f := { unbounded := b = 15 }) hh hr hfree rfl (fun hu => absurd (of_decide_eq_true hu) hb)
    (fun hv => nomatch hv) ht hs).trans ?_)
  have hclosed : s.here.closedTile .m [] = none := rfl
  have hfreeTiles : s.here.tilesFree (.mzero b m) false = true := by simp [Cell.tilesFree, hp]
  have hclear : ∀ l, s.accClear s.focus.1 l = s := fun l => by simp [State.accClear, hs]
  simp only [hclosed, hfreeTiles, hclear, eConclude_issued, Option.isSome_none, Bool.not_true, Bool.or_self, Bool.false_eq_true, if_false]
  exact modCell_modCell _ _ _ _ hc

theorem cell_refocus (t : State) (f : Nat × Agent) (b : Bool) (c : Nat) : ({ t with focus := f, stalled := b } : State).cell c = t.cell c :=
  rfl

/-- An event that tries the head of an engine's queue leaves what its instruction does, with the focus where it was. -/
theorem headEvent_of_exec {s t : State} {c : Nat} {st : Stream} {h : Entry} {i : Instr} (hrun : s.mayRun c (.stream st) = true)
    (hh : (s.cell c).head st = some h) (hd : decode st h.word h.ext = .instr i)
    (hx : engineExec i { s with focus := (c, .stream st) } = .next t) :
    s.headEvent c st = { t with focus := s.focus, stalled := s.stalled } := by
  rw [State.headEvent, if_pos hrun, State.headTry, hh]
  simp only [hd, State.under, hx]
  rfl

theorem fetchAndInjection : Claims.FetchAndInjection := by
  constructor
  case left =>
    intro s c e b m hc hrun hsound x hi hfree hrow hstep htab hprog hb hd hheld hquiet
    let v : State := { s with focus := (c, .stream .m) }
    have hhead : x.head .m = some { e with inj := true } := head_injected hi hrow hstep
    have hx : execMzero b m v = .next (v.modCell c fun y => (y.zeroTiles m).issueHead .m (.mzero b m) { e with inj := true } 1 v.cycle) :=
      mzero_issues (s := v) hhead (headRuns_injected hi hrow hstep hheld hquiet) hfree hb htab hsound hprog hc
    have hany : (x.head .m).any (·.inj) = true := by rw [hhead]; rfl
    have hslot : (x.zeroTiles m).fromSlot .m = true := by
      rw [Cell.fromSlot, Cell.zeroTiles, hi, hrow, hstep]
      rfl
    obtain ⟨hinj, hin, hq, hacc⟩ := issueHead_slot hslot (.mzero b m) { e with inj := true } 1 s.cycle
    have hin : _ = [Instr.mzero b m] := hin.trans (by rw [show (x.zeroTiles m).em.inprog = [] from hprog]; rfl)
    refine ⟨s.headEvent c .m, congrArg Host.Outcome.next (if_pos hany), ?_⟩
    rw [headEvent_of_exec hrun hhead hd hx]
    have hcell : ({ v.modCell c (fun y => (y.zeroTiles m).issueHead .m (.mzero b m) { e with inj := true } 1 v.cycle) with
        focus := s.focus, stalled := s.stalled } : State).cell c = (x.zeroTiles m).issueHead .m (.mzero b m) { e with inj := true } 1 s.cycle :=
      (cell_refocus ..).trans (cell_modCell v c _ hc)
    rw [hcell]
    exact ⟨hinj, hin, hq, fun r hr => (congrArg (·.getD r 0) hacc).trans (acc_zeroTiles x m hr)⟩
  case right =>
    intro s c st w i hc hst hrun x g hm hw hx hd hl
    refine ⟨_, rfl, ?_⟩
    rw [if_pos hrun]
    exact engineFetch_cached hc hst hm hw hx hd hl

/-! ### The completion of commands -/

theorem settlePhase_fields (g : Engine) :
    g.settlePhase.inprog = g.inprog ∧ g.settlePhase.queue = g.queue ∧ (g.phaseNext = none → g.settlePhase.phase = g.phase) := by
  unfold Engine.settlePhase
  split
  · exact ⟨rfl, rfl, fun h => by simp [h]⟩
  · exact ⟨rfl, rfl, fun _ => rfl⟩

/-- The oldest command leaves those in progress, and the dither phase moves on by 5 when it has rounded with SR (R53). -/
theorem complete_fields {g : Engine} {k : Command} {r : List Command} (h : g.inprog = k :: r) :
    g.complete.inprog = r ∧ g.complete.queue = g.queue ∧
      (g.phaseNext = none → g.complete.phase = if k.rounds then g.phase + 5 else g.phase) := by
  simp only [Engine.complete, h]
  obtain ⟨hi, hq, hp⟩ := settlePhase_fields
    { g with inprog := r, phase := if (k.rounds && g.phaseNext.isNone) = true then phaseStep g.phase else g.phase }
  refine ⟨hi, hq, fun hn => (hp hn).trans ?_⟩
  simp [hn, phaseStep]

section
variable {x : Cell} {k : Command} {b : BitVec 4} {d e : BitVec 9} {t : BitVec 2} {w : Word}

theorem completeC_fill (hk : k.instr = .fill b d w) (now : Nat) : x.completeC k now = some (x.modEngine .c Engine.complete) := by
  simp only [Cell.completeC, hk]

/-- `COPY.F` fills the empty injection slot of M with its word (R38). -/
theorem completeC_copyF (hk : k.instr = .copyF b d e t w) (hi : x.m.inject = none) (now : Nat) :
    x.completeC k now = some { x.modEngine .c Engine.complete with m := { x.m with
      inject := some { pc := k.entry.pc, word := w, tag := k.entry.tag, inj := true }, injectSince := now } } := by
  have hroom : (x.modEngine .c Engine.complete).m.inject.isSome = false := congrArg Option.isSome hi
  simp only [Cell.completeC, hk, hroom, Bool.false_eq_true, if_false]
  rfl

theorem completeC_copyF_full (hk : k.instr = .copyF b d e t w) (hi : x.m.inject.isSome = true) (now : Nat) : x.completeC k now = none := by
  have hfull : (x.modEngine .c Engine.complete).m.inject.isSome = true := hi
  simp only [Cell.completeC, hk, hfull, if_true]

end

section
variable {s : State} {c : Nat} {k : Command} {r : List Command} (hc : c < s.cells.length)
include hc

/-- A command of M completes: its tiles open and close (R227). -/
theorem completion_m (hp : (s.cell c).em.inprog = k :: r) {v : BitVec 4}
    (hv : ((s.cell c).m.openTiles ||| (tilesOpened k.instr).1) &&& ~~~(tilesOpened k.instr).2 = v) :
    let x := s.cell c
    ∃ u, exec (.commandCompletion c .m) s = .next u ∧ (u.cell c).em.inprog = r ∧ (u.cell c).m.openTiles = v ∧
      (u.cell c).m.rowValid = x.m.rowValid ∧ (u.cell c).m.rowNext = (if x.m.rowValid then x.m.rowNext else 0) ∧
      (x.em.phaseNext = none → (u.cell c).em.phase = if k.rounds then x.em.phase + 5 else x.em.phase) ∧
      (u.cell c).m.acc = x.m.acc ∧ (u.cell c).em.queue = x.em.queue ∧ u.mem = s.mem := by
  intro x
  have hx : exec (.commandCompletion c .m) s = .next (s.setCell c (x.completeM k s.cycle)) := by
    have hp : ((s.cell c).engine .m).inprog = k :: r := hp
    show execCommandCompletion c .m s = _
    simp only [execCommandCompletion, hp]
    rfl
  obtain ⟨hi, hq, hph⟩ := complete_fields hp
  refine ⟨_, hx, ?_⟩
  rw [cell_setCell _ _ _ hc]
  exact ⟨hi, hv, rfl, rfl, hph, rfl, hq, rfl⟩

omit hc in
/-- A command of C completes when it may (R38, R409). -/
theorem completion_c {y : Cell} (hp : (s.cell c).ec.inprog = k :: r) (hy : (s.cell c).completeC k s.cycle = some y) :
    exec (.commandCompletion c .c) s = .next (s.setCell c y) := by
  have hp : ((s.cell c).engine .c).inprog = k :: r := hp
  show execCommandCompletion c .c s = _
  simp only [execCommandCompletion, hp, hy]

omit hc in
theorem completion_c_waits (hp : (s.cell c).ec.inprog = k :: r) (hy : (s.cell c).completeC k s.cycle = none) :
    exec (.commandCompletion c .c) s = .next s := by
  have hp : ((s.cell c).engine .c).inprog = k :: r := hp
  show execCommandCompletion c .c s = _
  simp only [execCommandCompletion, hp, hy]

end

theorem commandsComplete : Claims.CommandsComplete := by
  intro s c k r hc x tiles
  refine ⟨fun hp => ⟨fun b m hk => ?mzero, fun b a d e f hk => ?mma, fun b a d hk => ?mdrain⟩,
    fun hp => ⟨fun b d y hk => ?fill, fun b d e t w hk => ⟨fun hi => ?room, fun hi => ?full⟩⟩⟩
  case mzero => exact completion_m hc hp (by rw [hk]; simp [tilesOpened, x])
  case mma =>
    have hall : ∀ v : BitVec 4, v &&& ~~~0 = v := fun _ => BitVec.and_allOnes
    exact completion_m hc hp (by rw [hk]; exact hall _)
  case mdrain => exact completion_m hc hp (by rw [hk]; simp [tilesOpened, x])
  all_goals obtain ⟨hin, -, -⟩ := complete_fields hp
  case fill =>
    refine ⟨_, completion_c hp (completeC_fill hk _), ?_⟩
    rw [cell_setCell _ _ _ hc]
    exact ⟨hin, rfl, rfl⟩
  case room =>
    refine ⟨_, completion_c hp (completeC_copyF hk hi _), ?_⟩
    rw [cell_setCell _ _ _ hc]
    exact ⟨hin, rfl⟩
  case full => exact completion_c_waits hp (completeC_copyF_full hk hi _)

/-- Settles O36: fetch and injection by what one try of a head does, completion by `complete_fields` on the engine. -/
theorem queueEvents : Obligations.QueueEvents := ⟨fetchAndInjection, commandsComplete⟩

end Sys2Proof.Machine

/-! Waits that end by their bound or by what they wait for (O38). -/

namespace Sys2Proof.Machine

/-! ### S: the bound of a wait -/

/-- BOUND at the only unfinished instruction of S, whose wait has overrun its bound (R114, R306). -/
theorem expireIssue_only {s : State} {c : Nat} {w : SWait} {u : Unfinished} {n : Nat} (hc : c < s.cells.length)
    (hw : (s.cell c).s.iss.wait = some w) (hb : w.bound = some n) (hn : w.since + n < s.cycle)
    (hu : (s.cell c).s.iss.unfinished = [u]) (hr : (s.cell c).s.iss.replay = []) (hbr : isBranch u.instr = false)
    (hi : (s.cell c).trap.inTrap = false) (hv : vectorOk (s.cell c).trap.tvec = true) :
    let t : TrapInfo := ⟨cBOUND, w.info⟩
    let v : Unfinished := { u with trap := some t }
    s.expireIssue c (.stream .s) =
      s.setCell c (((s.cell c).withEntries [v] none).trapped t 0 (eposOf .s u.pc 0 false) (s.cell c).s.iss.pc [v]) := by
  intro t v
  have hcell : (s.setCell c ((s.cell c).withEntries [v] none)).cell c = (s.cell c).withEntries [v] none := cell_setCell _ _ _ hc
  have hmark : s.markTrap c (.stream .s) ((s.cell c).s.iss.unfinished.length - 1) t = s.setCell c ((s.cell c).withEntries [v] none) := by
    rw [State.markTrap, State.modIssue, State.modCell]
    congr 1
    simp only [Cell.modIssue, Cell.withEntries, hu, List.length_singleton, Nat.sub_self, modAt, if_true]
    rfl
  have htake := trapTake_only (s := s.setCell c ((s.cell c).withEntries [v] none)) (u := v) (t := t) (by rw [hcell]; rfl) rfl
    (show (0x11 : BitVec 8) ≠ 0x08 by decide) (show (0x11 : BitVec 8) ≠ 0x38 by decide) hbr (by rw [hcell]; exact hi) (by rw [hcell]; exact hv)
  have hw' : ((s.cell c).issue (.stream .s)).wait = some w := hw
  have hlate : (w.bound.any fun n => s.overrun w.since n) = true := by simp [hb, State.overrun, hn]
  simp only [State.expireIssue, hw', hlate, Bool.not_true, Bool.false_eq_true, if_false]
  have hlen : ((s.cell c).issue (.stream .s)).unfinished.length = (s.cell c).s.iss.unfinished.length := rfl
  rw [hlen, hmark, htake, hcell, setCell_setCell]
  have hr' : ((s.cell c).withEntries [v] none).s.iss.replay = [] := hr
  rw [hr']
  rfl

theorem waitBoundExpires {s : State} {c : Nat} {w : SWait} {u : Unfinished} {n : Nat} (hc : c < s.cells.length)
    (hrun : s.mayRun c (.stream .s) = true)
    (hw : (s.cell c).s.iss.wait = some w) (hb : w.bound = some n) (hn : w.since + n < s.cycle)
    (hu : (s.cell c).s.iss.unfinished = [u]) (hr : (s.cell c).s.iss.replay = []) (hbr : isBranch u.instr = false)
    (hi : (s.cell c).trap.inTrap = false) (hv : vectorOk (s.cell c).trap.tvec = true) :
    let x := s.cell c
    ∃ t, exec (.cycleBoundExpiry c (.stream .s)) s = .next t ∧
      let y := t.cell c
      y.trap.inTrap = true ∧ y.trap.cause = 0x11 ∧ y.trap.tfInfo = w.info ∧ y.trap.tfN = 1 ∧ y.trap.tfSpc = x.s.iss.pc ∧ y.s.iss.pc = x.trap.tvec ∧
      y.tokens = x.tokens ∧ y.s.regs = x.s.regs ∧ t.mem = s.mem := by
  intro x
  have hx : exec (.cycleBoundExpiry c (.stream .s)) s = .next (s.expireIssue c (.stream .s)) := by
    show execCycleBoundExpiry c (.stream .s) s = _
    simp only [execCycleBoundExpiry, hrun, Bool.not_true, Bool.false_eq_true, if_false]
  refine ⟨_, hx, ?_⟩
  rw [expireIssue_only hc hw hb hn hu hr hbr hi hv, cell_setCell _ _ _ hc]
  exact ⟨rfl, rfl, rfl, rfl, rfl, rfl, rfl, rfl, rfl⟩

/-! ### Engine traps -/

/-- A trap that is neither POISON nor UNCORR leaves nothing behind where it read. -/
theorem badAt_of_cause {s : State} {w : Who} {fetch : Bool} {n : Nat} {t : TrapInfo} (hu : t.cause ≠ cUNCORR) (hp : t.cause ≠ cPOISON) :
    s.badAt w fetch n t = s := by
  simp only [State.badAt, hu, hp, ne_eq, not_false_eq_true, and_self, true_or, if_true]

/-- The cell whose stream has stopped with the trap `t` at the entry `h`, for S to take (R307). -/
def Cell.stoppedBy (x : Cell) (st : Stream) (h : Entry) (t : TrapInfo) : Cell :=
  let y := x.modEngine st fun g => { g with stopped := true }
  { y with trap := { y.trap with pending := y.trap.pending ++ [⟨st, t, eposOf st h.pc h.tag h.inj⟩] } }

theorem engineTrap_eq {s : State} {c : Nat} {st : Stream} {h : Entry} {t : TrapInfo} (hn : t.cause ≠ cNOTPRESENT) (hu : t.cause ≠ cUNCORR)
    (hp : t.cause ≠ cPOISON) (hs : (s.cell c).m.inject = none ∨ st ≠ .m) :
    s.engineTrap c st h t = s.setCell c ((s.cell c).stoppedBy st h t) := by
  have hslot : ((s.cell c).modEngine st fun g => { g with stopped := true }).fromSlot st = false := by
    refine fromSlot_false (hs.imp_left fun hi => ?_)
    cases st <;> exact hi
  simp only [State.engineTrap, hn, if_false, badAt_of_cause hu hp, ite_self, State.modCell, hslot, Bool.false_and, Bool.false_eq_true]
  rfl

/-! ### M: the reduction limit -/

/-- The reduction count has passed its limit for a stream that runs (R228). -/
structure ReductionDue (s : State) (c : Nat) : Prop where
  cell : c < s.cells.length
  run : s.mayRun c (.stream .m) = true
  started : (s.cell c).em.started = true
  ended : (s.cell c).em.ended = false
  stopped : (s.cell c).em.stopped = false
  quiesced : (s.cell c).em.quiesced = false
  inject : (s.cell c).m.inject = none
  step : (s.cell c).em.nextStep = 0
  due : (s.cell c).res.maxred.toNat < s.cycle - (s.cell c).m.retiredAt

/-- The trap of the reduction limit (R228, R306). -/
def Cell.reductionTrap (x : Cell) : TrapInfo := ⟨cREDUCTION, x.res.maxred.setWidth 64⟩

section
variable {s : State} {c : Nat} (d : ReductionDue s c)
include d

/-- With no command in progress, the entry at the head stops. -/
theorem reductionLimit_head {h : Entry} (ho : (s.cell c).m.openTiles ≠ 0) (hp : (s.cell c).em.inprog = [])
    (hq : (s.cell c).em.queue.head? = some h) :
    exec (.reductionLimit c) s = .next (s.setCell c (((s.cell c).modEngine .m fun g =>
      { g with headSince := none, waiting := false, wantsOwn := false, table := none }).stoppedBy .m h (s.cell c).reductionTrap)) := by
  have hh : (s.cell c).head .m = some h := (head_of_queue (.inl d.inject)).trans hq
  have hr : (s.cell c).headRuns .m = true := headRuns_of_running (.inl d.inject) d.started ⟨d.ended, d.stopped, d.quiesced⟩
  have htrap : ∀ {t : State}, (t.cell c).m.inject = none →
      t.engineTrap c .m h (s.cell c).reductionTrap = t.setCell c ((t.cell c).stoppedBy .m h (s.cell c).reductionTrap) := fun hi =>
    engineTrap_eq (show (0x12 : BitVec 8) ≠ 0x08 by decide) (show (0x12 : BitVec 8) ≠ 0x30 by decide)
      (show (0x12 : BitVec 8) ≠ 0x0A by decide) (.inl hi)
  show execReductionLimit c s = _
  simp only [execReductionLimit, d.run, d.stopped, d.quiesced, ho, hp, d.step, Nat.not_le_of_lt d.due, hh, hr, State.eConclude,
    Bool.not_true, Bool.or_self, List.isEmpty_nil, Bool.false_eq_true, if_false, if_true, false_and, Bool.and_false]
  refine congrArg Host.Outcome.next ((htrap ?_).trans ?_)
  · rw [cell_modCell _ _ _ d.cell]
    exact d.inject
  · rw [cell_modCell _ _ _ d.cell, State.modCell, setCell_setCell]

/-- The youngest command in progress goes back to the head of the queue with the steps that it has done (R225, R258). -/
def Cell.reopened (x : Cell) (k : Command) (r : List Command) : Cell :=
  let y := x.modEngine .m fun g =>
    { g with inprog := r, queue := k.entry :: g.queue, nextStep := k.next, table := some k.table, rounds := k.rounds }
  { y with m := { y.m with rowNext := BitVec.ofNat 24 k.next, rowValid := true } }

omit d in
theorem reopen_youngest {x : Cell} {k : Command} {r : List Command} (hp : x.em.inprog = r ++ [k]) (hk : stopsInside k.instr = true) :
    x.reopen = some (x.reopened k r) := by
  simp only [Cell.reopen, hp, List.reverse_append, List.reverse_singleton, List.singleton_append, List.takeWhile_cons, hk, Bool.not_true,
    Bool.false_eq_true, if_false, List.length_nil, List.drop_zero, List.reverse_reverse]
  rfl

/-- With commands in progress, the youngest stops, at its next boundary. -/
theorem reductionLimit_inprog {k : Command} {r : List Command} (hp : (s.cell c).em.inprog = r ++ [k]) (hk : stopsInside k.instr = true) :
    exec (.reductionLimit c) s = .next (s.setCell c (((s.cell c).reopened k r).stoppedBy .m k.entry (s.cell c).reductionTrap)) := by
  have hne : (s.cell c).em.inprog.isEmpty = false := by rw [hp]; cases r <;> rfl
  have hh : ((s.cell c).reopened k r).head .m = some k.entry := (head_of_queue (x := (s.cell c).reopened k r) (.inl d.inject)).trans rfl
  have hcell : (s.setCell c ((s.cell c).reopened k r)).cell c = (s.cell c).reopened k r := cell_setCell _ _ _ d.cell
  have htrap : (s.setCell c ((s.cell c).reopened k r)).engineTrap c .m k.entry (s.cell c).reductionTrap = _ :=
    engineTrap_eq (show (0x12 : BitVec 8) ≠ 0x08 by decide) (show (0x12 : BitVec 8) ≠ 0x30 by decide)
      (show (0x12 : BitVec 8) ≠ 0x0A by decide) (.inl (by rw [hcell]; exact d.inject))
  show execReductionLimit c s = _
  simp only [execReductionLimit, d.run, d.stopped, d.quiesced, d.step, Nat.not_le_of_lt d.due, hne, reopen_youngest hp hk, hh,
    Bool.not_true, Bool.or_self, Bool.false_eq_true, if_false, if_true, false_and, and_false, Bool.not_false, Bool.and_self, decide_true]
  refine congrArg Host.Outcome.next (htrap.trans ?_)
  rw [hcell, setCell_setCell]

end

theorem boundsExpire : Claims.BoundsExpire := by
  constructor
  case left =>
    intro s c w u n hc hrun x hw hb hn hu hr hbr hi hv
    exact waitBoundExpires hc hrun hw hb hn hu hr hbr hi hv
  case right =>
    intro s c h hc hrun x hst hend hstop hq hi hstep hdue stops
    have d : ReductionDue s c := ⟨hc, hrun, hst, hend, hstop, hq, hi, hstep, hdue⟩
    refine ⟨fun ho hp hh => ⟨_, reductionLimit_head d ho hp hh, ?_⟩, fun r k hp hk hkh => ⟨_, reductionLimit_inprog d hp hk, ?_⟩⟩
    · simp only [stops, cell_setCell _ _ _ hc]
      exact ⟨⟨rfl, rfl, rfl⟩, rfl⟩
    · simp only [stops, cell_setCell _ _ _ hc, ← hkh]
      exact ⟨⟨rfl, rfl, rfl⟩, rfl, rfl, rfl, rfl, rfl⟩

/-! ### What an energy charge leaves alone (R315) -/

section
variable (x : Cell) (n : Nat)

theorem charge_cases : (∃ r, x.charge n = { x with res := r }) ∨ ∃ l, x.charge n = { x with loose := l } := by
  unfold Cell.charge
  split
  · exact .inl ⟨_, rfl⟩
  · split
    · exact .inr ⟨_, rfl⟩
    · exact .inr ⟨x.loose, rfl⟩

@[simp] theorem charge_s : (x.charge n).s = x.s := by
  rcases charge_cases x n with ⟨_, h⟩ | ⟨_, h⟩ <;> rw [h]

@[simp] theorem charge_tokens : (x.charge n).tokens = x.tokens := by
  rcases charge_cases x n with ⟨_, h⟩ | ⟨_, h⟩ <;> rw [h]

@[simp] theorem charge_v : (x.charge n).v = x.v := by
  rcases charge_cases x n with ⟨_, h⟩ | ⟨_, h⟩ <;> rw [h]

@[simp] theorem charge_ev : (x.charge n).ev = x.ev := by
  rcases charge_cases x n with ⟨_, h⟩ | ⟨_, h⟩ <;> rw [h]

end

/-! ### S: the end of a wait -/

/-- S of cell `c` waits with one unfinished instruction `u`, which no trap has stopped. -/
structure WaitsOnly (s : State) (c : Nat) (u : Unfinished) : Prop where
  cell : c < s.cells.length
  run : s.mayRun c (.stream .s) = true
  sound : s.mem.uncorr = []
  wait : (s.cell c).s.iss.wait.isSome = true
  unfinished : (s.cell c).s.iss.unfinished = [u]
  trap : u.trap = none
  acquire : (s.cell c).s.iss.acquire = false

/-- The state with the focus on S of cell `c` and nothing stalled. -/
def State.atWait (s : State) (c : Nat) : State := { s with stalled := false, focus := (c, .stream .s) }

section
variable {s : State} {c : Nat} {u : Unfinished} (k : WaitsOnly s c u)
include k

/-- A waiting instruction tests again (R139). -/
theorem sIssue_waiting {i : Instr} {f : Form} {body : Nat → Agent → Unfinished → State → Fin} (hi : u.instr = i) :
    (s.atWait c).sIssue i f body = (s.atWait c).conclude c (.stream .s) (body c (.stream .s) u (s.atWait c)) := by
  have hb : (s.cell c).s.iss.blocked = false := by simp [Issue.blocked, k.unfinished, k.trap]
  have ha : (s.cell c).s.iss.acquires = false := by simp [Issue.acquires, k.acquire]
  have hl : (s.cell c).s.iss.unfinished.getLast? = some u := by rw [k.unfinished]; rfl
  have hiss : ((s.atWait c).cell c).issue (.stream .s) = (s.cell c).s.iss := rfl
  have ht : u.trap.isNone = true := by rw [k.trap]; rfl
  rw [State.sIssue]
  simp only [State.atWait] at hiss ⊢
  simp only [hiss, hb, ha, k.wait, hl, hi, ht, Bool.or_self, Bool.false_eq_true, if_false, if_true, decide_true, Bool.and_self]

/-- A wait whose condition has come ends by doing `g` to the cell. -/
theorem completes_of_done {i : Instr} {f : Form} {body : Nat → Agent → Unfinished → State → Fin}
    {run : State → Host.Outcome State Fault Refusal} (g : Cell → Cell) (hi : u.instr = i)
    (hw : ∀ t : State, t.cells = s.cells → t.waitTry c (.stream .s) = t.under c (.stream .s) fun t => outcomeOr (run t) t)
    (hx : ∀ t, run t = .next (t.sIssue i f body))
    (hb : body c (.stream .s) u (s.atWait c) = .done ((s.atWait c).modCell c g) none) :
    (s.completes fun s => s.waitTry c (.stream .s)) = some (s.modCell c fun x => ((g x).exit none).chargeScalar) := by
  have ht : (({ s with stalled := false } : State).waitTry c (.stream .s)) =
      { (s.atWait c).modCell c fun x => ((g x).exit none).chargeScalar with focus := s.focus } := by
    refine (hw { s with stalled := false } rfl).trans ?_
    have hs := sIssue_waiting k (f := f) (body := body) hi
    rw [hb, State.conclude] at hs
    have hm : ((s.atWait c).modCell c g).modCell c (fun x => (x.modIssue (.stream .s) fun i =>
        { i with unfinished := i.unfinished.dropLast, wait := none, pc := (none : Option DWord).getD i.pc }).chargeScalar) = _ :=
      modCell_modCell (s.atWait c) c g _ k.cell
    rw [hm] at hs
    have ho : outcomeOr (run (s.atWait c)) (s.atWait c) = _ := (congrArg (outcomeOr · _) (hx _)).trans hs
    exact congrArg (fun t : State => { t with focus := s.focus }) ho
  rw [State.completes, ht]
  rfl

end

section
variable {s : State} {c : Nat} {u : Unfinished} (k : WaitsOnly s c u) {q b : BitVec 4} {d a : BitVec 5}
include k

theorem getLast_waiting {t : State} (ht : t.cells = s.cells) : ((t.cell c).issue (.stream .s)).unfinished.getLast? = some u := by
  have hcell : t.cell c = s.cell c := by rw [State.cell, State.cell, ht]
  show (t.cell c).s.iss.unfinished.getLast? = some u
  rw [hcell, k.unfinished]
  rfl

/-- The token has its count: it is taken away, and the wait acts as an acquire (R36, R166). -/
theorem completes_twait {t : BitVec 5} {m : BitVec 12} (hi : u.instr = .twait q b t 0 m) (hm : m.toNat ≤ (s.cell c).token t.toNat) :
    (s.completes fun s => s.waitTry c (.stream .s)) = some (s.modCell c fun x =>
      (({ x.consume t.toNat m.toNat with s := { x.s with iss := { x.s.iss with acquire := true } } } : Cell).exit none).chargeScalar) := by
  refine completes_of_done (run := execTwait q b t 0 m) k _ hi (fun v hv => ?_) (fun _ => rfl) ?_
  · simp only [State.waitTry, getLast_waiting k hv, hi]
  · have hcount : countOf 0 m u = m.toNat := rfl
    have hm : m.toNat ≤ ((s.atWait c).cell c).token t.toNat := hm
    simp only [hcount, hm, if_true, State.modIssue]
    exact congrArg (Fin.done · none) (modCell_modCell (s.atWait c) c _ _ k.cell)

/-- A result of a wait that has ended is written to its register. -/
theorem giveResult_atWait (v : DWord) :
    giveResult (v, s.atWait c) c (.stream .s) u = .done ((s.atWait c).modCell c fun x => x.setReg (.stream .s) u.dest.toNat v) none :=
  congrArg (Fin.done · none) (setReg_sound k.sound)

/-- The time has come (R375). -/
theorem completes_waitt (hi : u.instr = .waitt q d a b) (ht : u.opa ≤ s.time) :
    (s.completes fun s => s.waitTry c (.stream .s)) =
      some (s.modCell c fun x => ((x.setReg (.stream .s) u.dest.toNat s.time).exit none).chargeScalar) := by
  refine completes_of_done (run := execWaitt q d a b) k _ hi (fun v hv => ?_) (fun _ => rfl) ?_
  · simp only [State.waitTry, getLast_waiting k hv, hi]
  · have ht : u.opa ≤ (s.atWait c).time := ht
    simp only [ht, if_true]
    exact giveResult_atWait k _

/-- The word that a wait on a barrier gives (R373). -/
def Barrier.waitWord (k : Barrier) : DWord := BitVec.ofNat 64 (k.epoch.toNat + 65536 * k.state.toNat + if k.err then 2 ^ 18 else 0)

/-- The barrier has passed the epoch (R373). -/
theorem completes_barrWait (hi : u.instr = .barrWait q d a b) {v : Barrier}
    (hv : s.barrier ((s.cell c).res.ctx.toNat * 256 + u.opa.toNat % 256) = v)
    (he : (v.epoch - u.opa.extractLsb' 16 16).toNat < 2 ^ 15) :
    (s.completes fun s => s.waitTry c (.stream .s)) =
      some (s.modCell c fun x => ((x.setReg (.stream .s) u.dest.toNat v.waitWord).exit none).chargeScalar) := by
  refine completes_of_done (run := execBarrWait q d a b) k _ hi (fun v hv => ?_) (fun _ => rfl) ?_
  · simp only [State.waitTry, getLast_waiting k hv, hi]
  · have hb : (s.atWait c).barrier (barrierKey ((s.atWait c).whoOf c (.stream .s)).ctx (bitsAt u.opa.toNat 0 8)) = v := by
      rw [bitsAt, Nat.pow_zero, Nat.div_one]
      exact hv
    have he : (v.epoch - (field u.opa 16 16 : BitVec 16)).toNat < 2 ^ 15 := he
    have hw : BitVec.ofNat 64 (v.epoch.toNat + 65536 * v.state.toNat + 2 ^ 18 * bit v.err) = v.waitWord := by
      rw [Barrier.waitWord]
      cases v.err <;> rfl
    simp only [hb, he, if_true, hw]
    exact giveResult_atWait k _

end

section
variable {s : State} {c : Nat} {u : Unfinished} (k : WaitsOnly s c u)
include k

/-- The event of a token wait of S ends it when its condition has come (R36). -/
theorem tokenWait_ends {q b : BitVec 4} {t : BitVec 5} {m : BitVec 12} {v : State} (hi : u.instr = .twait q b t 0 m)
    (hv : (s.completes fun s => s.waitTry c (.stream .s)) = some v) : exec (.tokenWaitSatisfied c .s) s = .next v := by
  have hl : (s.cell c).s.iss.unfinished.getLast? = some u := by rw [k.unfinished]; rfl
  have hw : (s.cell c).waitsOn .s = some t.toNat := by
    obtain ⟨w, hw⟩ := Option.isSome_iff_exists.mp k.wait
    simp [Cell.waitsOn, Cell.tokenWait, hw, hl, hi]
  show execTokenWaitSatisfied c .s s = _
  simp only [execTokenWaitSatisfied, hw, streamNumber, List.take_zero, List.filter_nil, List.nil_append, List.foldl_cons, List.foldl_nil,
    State.tokenTry, k.run, hv, Option.isNone_some, Option.getD_some, Bool.not_true, Bool.or_self, Bool.false_eq_true, if_false]

theorem waitEnds_of_completes {kind : Instr → Bool} {v : State} (hk : kind u.instr = true)
    (hv : (s.completes fun s => s.waitTry c (.stream .s)) = some v) : s.waitEnds c kind = v := by
  have hl : (s.cell c).s.iss.unfinished.getLast? = some u := by rw [k.unfinished]; rfl
  simp only [State.waitEnds, hl, Option.any_some, hk, k.wait, k.run, hv, Bool.and_self, if_true, Option.getD_some]

/-- A wait that ends with a value for a register leaves everything else of S as it was. -/
theorem wait_gets {g : Cell → Cell} {v : DWord} (hg : g = fun x => x.setReg (.stream .s) u.dest.toNat v) :
    let t := s.modCell c fun x => ((g x).exit none).chargeScalar
    (t.cell c).s.regs = ((s.cell c).setReg (.stream .s) u.dest.toNat v).s.regs ∧ (t.cell c).s.iss.unfinished = [] ∧
      (t.cell c).s.iss.wait = none ∧ (t.cell c).s.iss.pc = (s.cell c).s.iss.pc ∧ t.mem = s.mem := by
  intro t
  have hs : ((s.cell c).setReg (.stream .s) u.dest.toNat v).s.iss = (s.cell c).s.iss := by
    rw [Cell.setReg]
    split <;> rfl
  have ht : (t.cell c).s = (((s.cell c).setReg (.stream .s) u.dest.toNat v).exit none).s := by
    rw [cell_modCell _ _ _ k.cell, hg]
    exact charge_s ..
  rw [ht]
  exact ⟨rfl, by simp only [Cell.exit, hs, k.unfinished, List.dropLast_singleton], rfl,
    show ((s.cell c).setReg (.stream .s) u.dest.toNat v).s.iss.pc = _ from congrArg Issue.pc hs, rfl⟩

end

/-! ### V: a shutter that reads V -/

/-- A full line load of a tile that reads V is V's instruction done (R191, R192). -/
theorem vld_done {s : State} {h : Entry} {d : BitVec 6} {t : BitVec 7} {l : BitVec 6} (hh : s.here.head .v = some h)
    (hr : s.here.headRuns .v = true) (hfree : h.held = none) (htab : s.here.ev.table = none) (hs : s.mem.uncorr = [])
    (hp : s.mem.poison = []) (ht : s.here.shutter t.toNat = 1) :
    let v := s.here.v
    exec (.vld 0 d t l 0) s = .next (s.eConclude s.focus.1 .v (.vld 0 d t l 0) h (s.vDone s.focus.1 fun w =>
      w.setReg d (loadLine v.top 0 (v.reg d) (s.here.pad.readN (t.toNat * 16384 + l.toNat * 256) 256)))) := by
  intro v
  refine congrArg Host.Outcome.next ((eIssue_running (f := { q := 0, srcs := [] }) hh hr hfree rfl (fun hu => nomatch hu)
    (fun _ => rfl) htab hs).trans ?_)
  have htile : s.here.tileV t.toNat = true := decide_eq_true ht
  have hbad : ∀ l m, s.padBad s.focus.1 l m = none := fun l m => by simp [State.padBad, hp, hs]
  have hclear : s.vClear s.focus.1 d = s := by
    rw [State.vClear]
    split
    · exact overwrite_sound hs
    · rfl
  have hz : (0 : BitVec 3).toNat = 0 := rfl
  simp only [htile, Bool.not_true, Bool.false_eq_true, if_false, State.vLoad, hbad, hz, if_true, hclear]
  rfl

theorem shutterRelease_v {s : State} {c : Nat} {h : Entry} {d : BitVec 6} {t : BitVec 7} {l : BitVec 6} (hc : c < s.cells.length)
    (hrun : s.mayRun c (.stream .v) = true) (hs : s.mem.uncorr = []) (hp : s.mem.poison = [])
    (hh : (s.cell c).ev.queue.head? = some h) (hd : decode .v h.word h.ext = .instr (.vld 0 d t l 0)) (hfree : h.held = none)
    (hst : (s.cell c).ev.started = true) (he : (s.cell c).ev.ended = false ∧ (s.cell c).ev.stopped = false ∧ (s.cell c).ev.quiesced = false)
    (htab : (s.cell c).ev.table = none) (ht : (s.cell c).shutter t.toNat = 1) :
    let x := s.cell c
    ∃ u, exec (.shutterStallRelease c .v) s = .next u ∧ (u.cell c).ev.queue = x.ev.queue.drop 1 ∧
      (u.cell c).v = x.v.setReg d (loadLine x.v.top 0 (x.v.reg d) (x.pad.readN (t.toNat * 16384 + l.toNat * 256) 256)) := by
  intro x
  have hhead : x.head .v = some h := (head_of_queue (.inr (by decide))).trans hh
  have hinstr : x.headInstr .v = some (.vld 0 d t l 0) := by simp only [Cell.headInstr, hhead, hd]
  let v : State := { s with focus := (c, .stream .v) }
  have hx := vld_done (s := v) (d := d) (l := l) hhead (headRuns_of_running (.inr (by decide)) hst he) hfree htab hs hp ht
  refine ⟨s.headEvent c .v, ?_, ?_⟩
  · show execShutterStallRelease c .v s = _
    have hi : ((s.cell c).headInstr .v).any shutterInstr = true := by rw [hinstr]; rfl
    simp only [execShutterStallRelease, hi, engines, streamNumber, List.take_succ_cons, List.take_zero, List.foldl_cons, List.foldl_nil,
      decide_true, Bool.true_or, Bool.and_self, if_true, ne_eq, reduceCtorEq, not_false_eq_true]
  · rw [headEvent_of_exec hrun hhead hd hx, cell_refocus]
    simp only [State.vDone, State.eConclude]
    have hm : ∀ f g : Cell → Cell, ((v.modCell c f).modCell c g).cell c = g (f x) := fun f g =>
      (congrArg (State.cell · c) (modCell_modCell v c f g hc)).trans (cell_modCell v c _ hc)
    rw [hm]
    constructor
    · exact congrArg (fun g : Engine => g.queue.drop 1) (charge_ev _ _)
    · exact charge_v _ _

theorem waitsEnd : Claims.WaitsEnd := by
  constructor
  case left =>
    intro s c w u i q b d a t m hc hrun hs hw hu ht hacq hi hdest _ x ctx gets
    have k : WaitsOnly s c u := ⟨hc, hrun, hs, by rw [hw]; rfl, hu, ht, hacq⟩
    refine ⟨fun hit hm => ?token, fun hit htime => ?time, fun hit => ?barrier⟩
    case token =>
      refine ⟨_, tokenWait_ends k (hi.trans hit) (completes_twait k (hi.trans hit) hm), ?_⟩
      rw [cell_modCell _ _ _ hc]
      simp only [Cell.chargeScalar, charge_s, charge_tokens]
      have hnone : (s.cell c).s.iss.unfinished.dropLast = [] := by rw [hu]; rfl
      exact ⟨rfl, hnone, rfl, rfl, rfl⟩
    case time =>
      have hend := waitEnds_of_completes (kind := fun i => match i with | .waitt .. => true | _ => false) k (by rw [hi, hit])
        (completes_waitt k (hi.trans hit) htime)
      refine ⟨_, congrArg Host.Outcome.next hend, ?_⟩
      rw [← hdest]
      exact wait_gets k rfl
    case barrier =>
      intro v he
      have hend := waitEnds_of_completes (kind := fun i => match i with | .barrWait .. => true | _ => false) k (by rw [hi, hit])
        (completes_barrWait k (hi.trans hit) rfl he)
      refine ⟨_, congrArg Host.Outcome.next hend, ?_⟩
      rw [← hdest]
      exact wait_gets k rfl
  case right =>
    intro s c h d t l hc hrun hs hp x hh hd hfree hst he hstop hq htab ht
    exact shutterRelease_v hc hrun hs hp hh hd hfree hst ⟨he, hstop, hq⟩ htab ht

/-- Settles O38: a bound ends in a trap that is taken (`trapTake_only`, `engineTrap_eq`), a condition in a try that goes on
(`completes_of_done`). -/
theorem boundsAndWaits : Obligations.BoundsAndWaits := ⟨boundsExpire, waitsEnd⟩

end Sys2Proof.Machine

/-! PROOFS. Dispatch and restore (R27, R31, R34, R297, R300): what a dispatch leaves on the cell, and how a restore ends. -/

namespace Sys2Proof.Machine

open Host

/-! ### Taking slots and choosing a cell -/

/-- The state with other accesses of the dispatcher waiting. -/
def State.withPortWaits (s : State) (l : List (Nat × Nat)) : State := { s with disp := { s.disp with portWaits := l } }

/-- An access of the dispatcher that has gone through changes only which of its accesses wait. -/
theorem dcame_eq (s : State) (ctx : BitVec 16) (va : Nat) : ∃ l, s.dcame ctx va = s.withPortWaits l := by
  unfold State.dcame
  split
  · exact ⟨s.disp.portWaits, rfl⟩
  · split
    · exact ⟨_, rfl⟩
    · exact ⟨s.disp.portWaits, rfl⟩

theorem taskKernel_congr {s : State} {t t' : Task} (hk : t'.kernel = t.kernel) (hl : t'.record.launchid = t.record.launchid) :
    s.taskKernel t' = s.taskKernel t := by
  unfold State.taskKernel; rw [hk, hl]

/-- A record read again keeps the launch that counts the task (R332). -/
theorem rereadRecord_launchid {s : State} {t : Task} {r : Record} (h : s.rereadRecord t = .ok r) : r.launchid = t.record.launchid := by
  unfold State.rereadRecord at h
  split at h
  · cases h; rfl
  · split at h
    · cases h
    · cases h; rfl

theorem changeCtx_same {s : State} {t : Task} {ctx : BitVec 16} (h : ctx = t.record.ctxid) : s.changeCtx t ctx = (s, t) := if_pos h

/-- What the dispatcher does with the task and the cell of its choice, when no slot has to be taken before. -/
theorem dispatchTask_eq {s : State} {n c : Nat} {t : Task} (hh : s.dev.halted = false) (hm : s.dev.mstate = 1) (hu : s.untaken = 0)
    (ht : firstBy (fun x => s.rank true x.2) (s.disp.tasks.filter fun x => s.eligible x.2 && !(s.cellsFor x.2).isEmpty) = some (n, t))
    (hc : firstBy (s.cellRank t) (s.cellsFor t) = some c) : exec .dispatchTask s = .next (s.dispatchTo n c) := by
  show execDispatchTask s = _
  have hs : s.takeSlots s.untaken = s := by rw [hu]; rfl
  unfold execDispatchTask
  rw [if_neg (by simp [hh, hm]), hs]
  refine congrArg Outcome.next ?_
  extract_lets l
  split
  next h => cases h.symm.trans ht
  next m u h =>
    cases h.symm.trans ht
    split
    next h => cases h.symm.trans hc
    next d h => cases h.symm.trans hc; rfl

/-! ### A fresh task -/

theorem shutter_freshShutters (x : Cell) (h : BitVec 512) (hx : x.shutters = freshShutters (declaredTiles h)) {n : Nat} (hn : n < 128) :
    x.shutter n = if (hdrField h 16 0 128).testBit n then 0 else 5 := by
  have hd : (declaredTiles h).contains n = (hdrField h 16 0 128).testBit n := by
    rw [Bool.eq_iff_iff]
    simp only [declaredTiles, List.contains_iff_mem, List.mem_filter, List.mem_range, hn, true_and]
  unfold Cell.shutter freshShutters at *
  rw [hx, List.getD_eq_getElem?_getD, List.getElem?_map, List.getElem?_range hn]
  show (if (declaredTiles h).contains n = true then (0 : BitVec 3) else codeFree) = _
  rw [hd]; rfl

/-- The cell of a task that has just started. -/
theorem startFresh_cell {s : State} {n c prio : Nat} {t : Task} (hc : c < s.cells.length) : (s.startFresh n t c prio).cell c =
    (s.cell c).fresh n t (s.context t.record.ctxid) (s.taskKernel t).1 (s.taskKernel t).2 prio s.cycle :=
  cell_modCell (s.clearErrors c ((s.cell c).clearedTiles t.record.ctxid (declaredTiles (s.taskKernel t).2))) c
    (fun x => x.fresh n t (s.context t.record.ctxid) (s.taskKernel t).1 (s.taskKernel t).2 prio s.cycle) hc

theorem startFresh_task {s : State} {n c prio : Nat} {t : Task} : (s.startFresh n t c prio).task n =
    some { t with state := .running, cell := some c, lastCell := c, dispatchedAt := s.cycle } := setTask_task ..

section
variable {s : State} {n c : Nat} {t : Task} {r : Record} (ht : s.task n = some t) (hr : s.rereadRecord t = .ok r)
  (hm : r.malformed = false) (ha : (s.context r.ctxid).state = .active) (hx : r.ctxid = t.record.ctxid)
include ht hr hm ha hx

/-- A task without an image starts with its record as it reads now. -/
theorem dispatchTo_fresh (hi : t.image = none) : ∃ l prio, s.dispatchTo n c =
    (s.withPortWaits l).startFresh n { t with record := r, wants := none } c prio := by
  obtain ⟨l, hl⟩ := dcame_eq s t.record.ctxid t.va
  unfold State.dispatchTo
  simp only [ht, hr, hl]
  rw [if_neg, changeCtx_same hx]
  · simp only [hi]
    exact ⟨l, _, rfl⟩
  · rintro (h | h)
    · rw [hm] at h; cases h
    · exact h ha

/-- The cell of a task whose restore begins. -/
def Cell.beginRestore (x : Cell) (i : Resident) (n prio : Nat) (r : Record) : Cell :=
  { x with res := { i with
      task := some n, image := .restoring, stop := none, lastCtx := x.res.lastCtx, ctx := r.ctxid, prio := BitVec.ofNat 6 prio
      det := r.det, fenced := false, replayed := false } }

/-- A task with an image begins its restore. -/
theorem dispatchTo_restore {i : Image} (hi : t.image = some i) : ∃ l prio, s.dispatchTo n c =
    (((s.withPortWaits l).modCell c fun x => x.beginRestore i.res n prio r).chargeVa
      c r.ctxid t.va 64).setTask n { t with record := r, wants := none, state := .dispatched, cell := some c, dispatchedAt := s.cycle } := by
  obtain ⟨l, hl⟩ := dcame_eq s t.record.ctxid t.va
  unfold State.dispatchTo
  simp only [ht, hr, hl]
  rw [if_neg, changeCtx_same hx]
  · simp only [hi]
    exact ⟨l, _, rfl⟩
  · rintro (h | h)
    · rw [hm] at h; cases h
    · exact h ha
end

/-! ### A restore -/

/-- A charge changes no field of the residency but the sub-accumulator. -/
theorem charge_res (x : Cell) (n : Nat) : ∃ ea, (x.charge n).res = { x.res with ea := ea } := by
  unfold Cell.charge
  split
  · exact ⟨_, rfl⟩
  · exact ⟨x.res.ea, by split <;> rfl⟩

theorem chargeVa_res {s : State} {c : Nat} (hc : c < s.cells.length) (ctx : BitVec 16) (va n : Nat) :
    ∃ ea, ((s.chargeVa c ctx va n).cell c).res = { (s.cell c).res with ea := ea } := by
  unfold State.chargeVa
  split
  next e large a h =>
    unfold State.chargeBytes
    rw [cell_modCell _ _ _ hc]
    exact charge_res ..
  all_goals exact ⟨(s.cell c).res.ea, rfl⟩

/-- Nothing is replayed when no bank was loaded. -/
theorem replayBanks_none {s : State} {w : Who} {l : List (Option CbLoad)} (h : ∀ b ∈ l, b = none) (k : Nat) : s.replayBanks w k l = (s, none) := by
  induction l generalizing k with
  | nil => rfl
  | cons b l ih =>
    rw [h b (by simp)]
    exact ih (fun a m => h a (by simp [m])) (k + 1)

/-- A cell whose codebook banks hold nothing. -/
def Cell.dropBooks (x : Cell) : Cell := { x with c := { x.c with banks := x.c.banks.map fun e => (e.1, false) } }

section
variable {s : State} {c n : Nat} {t : Task} {i : Image} (hr : (s.cell c).res.image = .restoring) (hn : (s.cell c).res.task = some n)
  (ht : s.task n = some t) (hi : t.image = some i)
include hr hn ht hi

/-- The replay of a task that had loaded no bank. -/
theorem codebookReplay_none (hp : (s.cell c).res.replayed = false) (hl : ∀ b ∈ i.lastLoad, b = none) : exec (.codebookReplay c) s =
    .next ((s.modCell c Cell.dropBooks).modCell c fun x => { x with res := { x.res with replayed := true } }) := by
  show execCodebookReplay c s = _
  unfold execCodebookReplay
  simp only [hr, hn, ht, hi, hp, replayBanks_none hl]
  rw [if_neg (by simp)]
  rfl

/-- The end of a restore whose frame reads without a fault. -/
theorem restoreComplete_ok {v : State} {f : FrameData} (hl : (s.cell c).res.replayed = true ∨ ∀ b ∈ i.lastLoad, b = none)
    (hf : s.readFrame c t.record.ctxid t.record.frame.toNat i (declaredTiles (s.taskKernel t).2) = .ok (v, f))
    (hq : t.cancelReq = false) (hk : (v.context t.record.ctxid).state ≠ .faulted) : ∃ w : State, exec (.restoreComplete c) s =
      .next ((w.modCell c fun x => x.restore i f (s.taskKernel t).2 t.record.spc w.cycle).setTask n { t with state := .running, image := none }) ∧
      w.cells.length = v.cells.length := by
  have hg : ¬(!(s.cell c).res.replayed && i.lastLoad.any Option.isSome) = true := by
    rcases hl with hp | hl
    · simp [hp]
    · simp only [Bool.and_eq_true, not_and, List.any_eq_true]
      rintro - ⟨b, hb, hs⟩
      rw [hl b hb] at hs; cases hs
  show ∃ w : State, execRestoreComplete c s = _ ∧ _
  unfold execRestoreComplete
  simp only [hr, hn, ht, hi, hf, hq]
  rw [if_neg (by simp), if_neg hg, if_neg (by simp)]
  cases i.lastLoad.any Option.isSome with
  | true => exact ⟨v.clearErrors c _, congrArg Outcome.next (if_neg hk), rfl⟩
  | false => exact ⟨(v.modCell c Cell.dropBooks).clearErrors c _, congrArg Outcome.next (if_neg hk), modCell_length ..⟩
end

/-- Settles O42: a dispatch takes the record as it reads now and starts the task or begins its restore; a restore ends with what the
frame and the image hold. -/
theorem dispatchAndRestore : Obligations.DispatchAndRestore := by
  unfold Obligations.DispatchAndRestore
  refine ⟨?dispatch, ?restore⟩
  case dispatch =>
    intro s n c t r hlt hh hm hu hf hc ht hr k hmal hk hx
    have hd := dispatchTask_eq hh hm hu hf hc
    have hkern (l : List (Nat × Nat)) : (s.withPortWaits l).taskKernel { t with record := r, wants := none } =
        s.taskKernel t := taskKernel_congr (s := s) rfl (rereadRecord_launchid hr)
    refine ⟨fun hi => ?fresh, fun i hi => ?image⟩
    case fresh =>
      intro h
      obtain ⟨l, prio, hs⟩ := dispatchTo_fresh (c := c) ht hr hmal hk hx hi
      refine ⟨_, hd.trans (congrArg Outcome.next hs), ⟨_, startFresh_task, rfl, rfl, rfl⟩, ?_⟩
      have hy := startFresh_cell (s := s.withPortWaits l) (n := n) (prio := prio) (t := { t with record := r, wants := none }) hlt
      rw [hkern] at hy
      intro y
      have e : y = _ := hy
      clear_value y
      subst e
      exact ⟨rfl, rfl, rfl, rfl, rfl, rfl, rfl, rfl, rfl, fun m hm => shutter_freshShutters _ h rfl hm, rfl, rfl, rfl, rfl, rfl⟩
    case image =>
      obtain ⟨l, prio, hs⟩ := dispatchTo_restore (c := c) ht hr hmal hk hx hi
      obtain ⟨ea, hv⟩ := chargeVa_res (s := (s.withPortWaits l).modCell c fun x => x.beginRestore i.res n prio r)
        (by rw [modCell_length]; exact hlt) r.ctxid t.va 64
      rw [cell_modCell (s.withPortWaits l) c _ hlt] at hv
      exact ⟨_, hd.trans (congrArg Outcome.next hs), congrArg Resident.image hv, congrArg Resident.task hv, congrArg Resident.det hv,
        _, setTask_task .., rfl, rfl⟩
  case restore =>
    intro s c n t i hlt hr hn ht hi
    refine ⟨fun hp hl => ?replay, fun v f hl hf hc hq hk => ?complete⟩
    case replay =>
      refine ⟨_, codebookReplay_none hr hn ht hi hp hl, ?_⟩
      rw [cell_modCell _ _ _ (by simpa using hlt), cell_modCell _ _ _ hlt]
      refine ⟨rfl, fun b hb => ?_, rfl, rfl, rfl⟩
      obtain ⟨e, -, he⟩ := List.mem_map.mp hb
      rw [← he]
    case complete =>
      obtain ⟨w, he, hw⟩ := restoreComplete_ok hr hn ht hi hl hf hq hk
      have hy := cell_modCell w c (fun x => x.restore i f (s.taskKernel t).2 t.record.spc w.cycle) (hw ▸ hc)
      refine ⟨_, he, setTask_task .., ?_⟩
      intro y
      have e : y = _ := hy
      clear_value y
      subst e
      exact ⟨rfl, rfl, rfl, rfl, rfl, rfl, rfl, rfl, rfl⟩

end Sys2Proof.Machine

/-! PROOFS. Stop, save and retirement of a task (R31, R298 to R301): what the events of a stop do to the cell, what the dispatcher's
accesses leave alone, and the record and task that a save and a retirement leave. -/

namespace Sys2Proof.Machine

open Host

/-! ### What an access of the dispatcher leaves alone -/

theorem OnlyMem.detect (s : State) (pa n : Nat) : OnlyMem s (s.detect pa n) := .ite (.refl s) (.mem s _)

theorem OnlyMem.badRead (s : State) (who : Nat × Agent) (carried : Bool) (pa n : Nat) : OnlyMem s (s.badRead who carried pa n) := by
  unfold State.badRead
  split
  · exact .event ..
  · split
    · exact .ite ((OnlyMem.event ..).trans (.modCell ..)) (.detect ..)
    · exact .detect ..

/-- `t` has the tasks of `s`, and as many cells. -/
structure KeepsTasks (s t : State) : Prop where
  tasks : t.disp.tasks = s.disp.tasks
  cells : t.cells.length = s.cells.length

theorem setTask_cells (s : State) (n : Nat) (t : Task) : (s.setTask n t).cells = s.cells := rfl

theorem KeepsTasks.trans {s t u : State} (h : KeepsTasks s t) (k : KeepsTasks t u) : KeepsTasks s u :=
  ⟨k.tasks.trans h.tasks, k.cells.trans h.cells⟩

theorem OnlyMem.keepsTasks {s t : State} (h : OnlyMem s t) : KeepsTasks s t := ⟨congrArg (·.tasks) h.disp, h.cells⟩

theorem KeepsTasks.task {s t : State} (h : KeepsTasks s t) (n : Nat) : t.task n = s.task n := by
  unfold State.task; rw [h.tasks]

theorem keepsTasks_withPortWaits (s : State) (l : List (Nat × Nat)) : KeepsTasks s (s.withPortWaits l) := ⟨rfl, rfl⟩

theorem keepsTasks_modContext (s : State) (ctx : BitVec 16) (f : Context → Context) : KeepsTasks s (s.modContext ctx f) :=
  KeepsTasks.trans (t := s.setContext ctx (f (s.context ctx))) ⟨rfl, rfl⟩ (OnlyMem.writeCtx ..).keepsTasks

/-- An access that meets a fault or waits is noted in memory, at its tile and in the black box. -/
theorem keepsTasks_dmiss (s : State) (ctx : BitVec 16) (va n : Nat) (e : BitVec 8) : KeepsTasks s (s.dmiss ctx va n e) := by
  unfold State.dmiss
  split
  · exact (OnlyMem.refl s).keepsTasks
  · split
    · split
      · refine KeepsTasks.trans ?_ (OnlyMem.bar ..).keepsTasks
        split
        · exact (OnlyMem.refl s).keepsTasks
        · exact keepsTasks_withPortWaits ..
      · exact (OnlyMem.badRead ..).keepsTasks.trans (keepsTasks_withPortWaits ..)
    · exact (OnlyMem.badRead ..).keepsTasks
    · exact (OnlyMem.refl s).keepsTasks

theorem keepsTasks_writeRecord (s : State) (t : Task) : KeepsTasks s (s.writeRecord t) := by
  unfold State.writeRecord
  split
  next h => exact (OnlyMem.dstore h).keepsTasks
  next => exact keepsTasks_dmiss ..

/-! ### The end of a task -/

/-- Nothing is counted out of launch 0. -/
@[simp] theorem countOut_zero (s : State) (fuel : Nat) : s.countOut fuel 0 = s := by
  cases fuel <;> rfl

@[simp] theorem countOuts_zero (s : State) (n : Nat) : s.countOuts n 0 = s := by
  unfold State.countOuts
  induction List.range n with
  | nil => rfl
  | cons a l ih => rw [List.foldl_cons, countOut_zero]; exact ih

theorem freeSlot_res (x : Cell) (k : Option Nat) : (x.freeSlot k).res = x.res := by
  cases k <;> rfl

/-- The cell of a retired task. -/
theorem vacate_res (x : Cell) (now : Nat) : (x.vacate false now).res = { x.res with task := none, image := .none, stop := none, lastCtx := x.res.ctx } :=
  freeSlot_res { x with res := { x.res with task := none, image := .none, stop := none, lastCtx := x.res.ctx } } x.s.packet

/-- A task of the module's own, without a launch, leaves a free cell and its record when it retires. -/
theorem finishTask_retired {s : State} {n c : Nat} {t : Task} (hlt : c < s.cells.length) (ht : s.task n = some t) (hc : t.cell = some c)
    (hs : t.stolenFrom = none) (hl : t.record.launchid = 0) : ((s.finishTask n false).cell c).res.task = none ∧
      ((s.finishTask n false).cell c).res.image = .none ∧
      ∃ t', (s.finishTask n false).task n = some t' ∧ t'.state = .retired ∧ t'.slot = none ∧ t'.record.skind = 5 := by
  have hout (w : State) : w.countOut 5 t.record.launchid = w := by rw [hl]; exact countOut_zero ..
  have houts (w : State) (k : Nat) : w.countOuts k t.record.launchid = w := by rw [hl]; exact countOuts_zero ..
  obtain ⟨w, he, hk, hw⟩ : ∃ w : State, (s.finishTask n false = w.modCell c fun x => x.vacate false w.cycle) ∧
      w.cells.length = s.cells.length ∧ ∃ t', w.task n = some t' ∧ t'.state = .retired ∧ t'.slot = none ∧ t'.record.skind = 5 := by
    unfold State.finishTask
    simp only [ht, hc, hs, hout, houts]
    refine ⟨_, rfl, ?_, ?_⟩
    · rw [(keepsTasks_writeRecord _ _).cells, setTask_cells, (keepsTasks_modContext _ _ _).cells]
    · rw [(keepsTasks_writeRecord _ _).task n]
      exact ⟨_, setTask_task .., rfl, rfl, rfl⟩
  have hx := (congrArg Cell.res (cell_modCell w c (fun x => x.vacate false w.cycle) (hk.symm ▸ hlt))).trans (vacate_res (w.cell c) w.cycle)
  rw [he]
  exact ⟨congrArg Resident.task hx, congrArg Resident.image hx, hw⟩

/-! ### The events of a stop -/

section
variable {s : State} {c : Nat} {p : Stop} (hp : (s.cell c).res.stop = some p) (hm : (s.cell c).mayStop p = true)
include hp hm

/-- M stops at an accumulator retirement: nothing is open, and the command at the head has done no step. -/
theorem mQuiesceStop_retired (hd : p.mDone = false) (hi : (s.cell c).em.inprog = []) (ho : (s.cell c).m.openTiles = 0)
    (hn : (s.cell c).em.nextStep = 0) : exec (.mQuiesceStop c) s = .next (s.setCell c { s.cell c with
      em := { (s.cell c).em with quiesced := true }, res := { (s.cell c).res with stop := some { p with mDone := true } } }) := by
  show execMQuiesceStop c s = _
  unfold execMQuiesceStop
  simp only [hp, hd, hm, hi]
  rw [if_neg (by simp), if_neg (by simp [ho, hn]), if_neg (not_not_intro hn)]

/-- M stops for a fault where it stands; the command at its head goes on at its next step. -/
theorem mQuiesceStop_fault (hd : p.mDone = false) (hi : (s.cell c).em.inprog = []) (hf : p.reason = .fault) (hn : (s.cell c).em.nextStep ≠ 0) :
    exec (.mQuiesceStop c) s = .next (s.setCell c { s.cell c with
      em := { (s.cell c).em with quiesced := true }
      m := { (s.cell c).m with rowNext := BitVec.ofNat 24 (s.cell c).em.nextStep, rowValid := true }
      res := { (s.cell c).res with stop := some { p with mDone := true } } }) := by
  show execMQuiesceStop c s = _
  unfold execMQuiesceStop
  simp only [hp, hd, hm, hi]
  rw [if_neg (by simp), if_neg (by simp [hf]), if_pos hn]

theorem taskStop_eq (hd : p.mDone = true) : exec (.taskStop c) s = .next (s.setCell c { s.cell c with
    ev := { (s.cell c).ev with quiesced := true }, ec := { (s.cell c).ec with quiesced := true } }) := by
  show execTaskStop c s = _
  unfold execTaskStop
  simp only [hp, hd, hm]
  rfl

/-- The capture of a task that is not being cancelled. -/
theorem taskStopped_eq {n : Nat} (ht : (s.cell c).res.task = some n) (hd : p.mDone = true) (hv : (s.cell c).ev.quiesced = true)
    (hc : (s.cell c).ec.quiesced = true) (ha : s.accessesDone c = true) (hr : p.reason ≠ .cancel) :
    exec (.taskStopped c) s = .next (s.setCell c ((s.cell c).capture p s.cycle)) := by
  show execTaskStopped c s = _
  unfold execTaskStopped
  simp only [hp, ht, hd, hm, hv, hc, ha]
  rw [if_neg (by simp), if_neg hr]
end

/-- A captured engine goes on at the command at its head. -/
theorem capture_fpc {g : Engine} {h : Entry} {q : List Entry} (hq : g.queue = h :: q) : g.capture.fpc = h.pc := by
  unfold Engine.capture
  rw [hq]; rfl

/-! ### A save -/

/-- Without bad bytes in the machine a save marks none in the frame. -/
theorem carryPoison_clean {s : State} (hp : s.mem.poison = []) (hu : s.mem.uncorr = []) (c : Nat) (ctx : BitVec 16) (base : Nat)
    (tiles : List Nat) : s.carryPoison c ctx base tiles = s := by
  unfold State.carryPoison
  simp only [hp, hu]
  induction List.range tiles.length with
  | nil => rfl
  | cons k l ih => exact ih

theorem look_map {α : Type} (f : α → α) (l : List (Nat × α)) (k : Nat) : look (l.map fun x => (x.1, f x.2)) k = (look l k).map f := by
  induction l with
  | nil => rfl
  | cons a l ih =>
    simp only [List.map_cons, look]
    split
    · rfl
    · exact ih

/-- A task on whose behalf no pre-emption of cell `c` is outstanding. -/
def Task.unwant (t : Task) (c : Nat) : Task := if t.wants = some c then { t with wants := none } else t

theorem clearWants_task (s : State) (c n : Nat) : (s.clearWants c).task n = (s.task n).map fun t => t.unwant c :=
  look_map (fun t : Task => t.unwant c) s.disp.tasks n

theorem unwant_eq (t : Task) (c : Nat) : ∃ w, t.unwant c = { t with wants := w } := by
  unfold Task.unwant
  split
  · exact ⟨none, rfl⟩
  · exact ⟨t.wants, rfl⟩

/-- The base address of a task's frame (R298). -/
def State.frameBase (s : State) (t : Task) : Nat :=
  (s.context t.record.ctxid).fpool + t.slot.getD 0 * (s.context t.record.ctxid).fsize * 65536

/-- The record of a task that waits for a landing (R26, R299). -/
def State.landRecord (s : State) (c : Nat) (p : Stop) (t : Task) : Record :=
  { (s.cell c).savedPcs t.record with frame := BitVec.ofNat 64 (s.frameBase t), skind := 3, scause := 0, sinfo := p.tag }

/-- After the save of a `YIELD` for a landing the task waits, when nothing cancels it. -/
theorem afterSave_land {s : State} {n : Nat} {p : Stop} {t : Task} (ht : s.task n = some t) (hq : t.cancelReq = false) (hr : p.reason = .yieldLand) :
    s.afterSave n p = s := by
  unfold State.afterSave
  simp only [ht, hq, hr]
  rfl

/-- The task table entry of a task that waits for a landing, as its cell is in `u` when the save ends. -/
def State.landed (s : State) (c : Nat) (p : Stop) (t : Task) (u : State) : Task :=
  { t with record := s.landRecord c p t, state := .suspLand, cell := none, page := p.page, image := some ((u.cell c).image p), order := u.cycle }

/-- The save of a `YIELD` for a landing, in a machine without bad bytes. -/
theorem saveComplete_land {s s1 s2 s3 : State} {c n : Nat} {p : Stop} {t : Task} (hn : (s.cell c).res.task = some n) (ht : s.task n = some t)
    (hp : (s.cell c).res.stop = some p) (hi : (s.cell c).res.image = .saving) (hr : p.reason = .yieldLand)
    (h1 : s.writeRegions c t.record.ctxid (s.frameBase t) ((s.cell c).frameRegions p t.argBlock (frameUnits (s.taskKernel t).2)
      (declaredTiles (s.taskKernel t).2)) = .ok s1)
    (h2 : s1.writePrivate c t.record.ctxid (s.frameBase t) privateRegions = .ok s2) (hb : s2.mem.poison = []) (hu : s2.mem.uncorr = [])
    (h3 : (s2.chargeVa c t.record.ctxid t.va 64).dstore t.record.ctxid t.va (s.landRecord c p t).bytes = .ok s3) :
    exec (.saveComplete c) s = .next ((((s3.setTask n (s.landed c p t s3)).modCell c Cell.leave).clearWants c).afterSave n p) := by
  have hk : p.kind = (3, 0) := by unfold Stop.kind; rw [hr]
  have hs : p.suspended = .suspLand := by unfold Stop.suspended; rw [hr]
  unfold State.frameBase at h1 h2
  unfold State.landRecord State.frameBase at h3
  show execSaveComplete c s = _
  unfold execSaveComplete
  simp only [hn, ht, hp, hi, h1, h2, carryPoison_clean hb hu, hk, hs, hr, if_true, h3]
  rfl

/-- Settles O43: M, then V, C and S stop and are captured; a save writes the record of the stop; a task whose accesses are performed retires. -/
theorem stopSaveAndRetire : Obligations.StopSaveAndRetire := by
  unfold Obligations.StopSaveAndRetire
  intro s c n t hlt hn ht x
  refine ⟨fun p hp hm => ⟨?retired, ?fault, ?stop, ?stopped⟩, ?save, ?retire⟩
  case retired => exact mQuiesceStop_retired hp hm
  case fault => exact mQuiesceStop_fault hp hm
  case stop => exact taskStop_eq hp hm
  case stopped =>
    intro hd hv hc ha hr
    refine ⟨_, taskStopped_eq hp hm hn hd hv hc ha (by rw [hr]; decide), rfl, rfl, ?_⟩
    intro y
    have hy : y = x.capture p s.cycle := cell_setCell s c _ hlt
    clear_value y
    subst hy
    unfold Cell.capture
    rw [if_neg (by simp [hr])]
    exact ⟨rfl, rfl, rfl, rfl, rfl, rfl, rfl, rfl, fun h q hq => capture_fpc hq⟩
  case save =>
    intro p s1 s2 s3 hp hi hq hr k base r h h1 h2 hb hu h3 hlt3
    have hy := cell_modCell (s3.setTask n (s.landed c p t s3)) c Cell.leave hlt3
    obtain ⟨w, hw⟩ := unwant_eq (s.landed c p t s3) c
    have hland : (((s3.setTask n (s.landed c p t s3)).modCell c Cell.leave).clearWants c).task n = some { s.landed c p t s3 with wants := w } := by
      rw [clearWants_task, ← hw]
      exact congrArg (Option.map fun u : Task => u.unwant c) (setTask_task s3 n (s.landed c p t s3))
    refine ⟨_, (saveComplete_land hn ht hp hi hr h1 h2 hb hu h3).trans (congrArg Outcome.next (afterSave_land hland hq hr)), ?_⟩
    exact ⟨congrArg (·.res.image) hy, congrArg (·.res.task) hy, congrArg (·.res.stop) hy, _, hland, rfl, rfl, rfl, rfl⟩
  case retire =>
    intro hi he heng hu hprog hperf
    refine ⟨?_, fun hc hs hl => finishTask_retired hlt ht hc hs hl⟩
    show execTaskRetire c s = _
    have hall : (engines.all fun st => (x.engine st).inprog.isEmpty) = true := List.all_eq_true.mpr fun st m => by rw [hprog st m]; rfl
    have hdone : (agentsOf.all fun ag => s.performedAll (c, ag)) = true := List.all_eq_true.mpr hperf
    unfold execTaskRetire
    simp only [hn]
    rw [if_neg]
    simp [x, hi, he, heng, hu, hall, hdone]

end Sys2Proof.Machine

/-! PROOFS. What a write of the dispatcher can do to the wickets of a cell and to the black box (R308, R440): it starts and stops no
wicket, and the only events it brings are those of holes and of closed tiles. -/

namespace Sys2Proof.Machine

open Host

/-! ### Records of one cycle -/

/-- The records of the present cycle. -/
def State.freshCount (s : State) : Nat := if s.bb.lastAt = s.cycle then s.bb.fresh else 0

/-- How many records of the present cycle have a code. -/
def State.loggedOf (s : State) (code : BitVec 16) : Nat := ((Claims.freshRecords s).filter (·.code = code)).length

/-- A new record stands among those of its cycle, and the others keep their codes. -/
theorem countP_record (b : BlackBox) (now : Nat) (r : BbRecord) (p : BitVec 16 → Bool) {n : Nat}
    (hn : n = if b.lastAt = now then b.fresh else 0) (h : n < 4096) :
    ((b.record now r).records.take (n + 1)).countP (fun x => p x.code) =
      (b.records.take n).countP (fun x => p x.code) + if p r.code then 1 else 0 := by
  unfold BlackBox.record
  simp only [← hn]
  have hsplit := List.takeWhile_append_dropWhile (p := fun x => decide (r.rank < x.rank)) (l := b.records.take n)
  have hlen : ((b.records.take n).takeWhile fun x => decide (r.rank < x.rank)).length ≤ n :=
    Nat.le_trans (List.takeWhile_prefix _).length_le (List.length_take_le ..)
  generalize (b.records.take n).takeWhile (fun x => decide (r.rank < x.rank)) = later at *
  generalize (b.records.take n).dropWhile (fun x => decide (r.rank < x.rank)) = rest at *
  have hrest : (b.records.drop later.length).take (n - later.length) = rest := by
    rw [← List.drop_take, ← hsplit, List.drop_left]
  rw [List.take_take, Nat.min_eq_left (by omega), List.take_append, List.take_of_length_le (by simp; omega), List.length_map,
    show n + 1 - later.length = (n - later.length) + 1 by omega, List.take_succ_cons, hrest, ← hsplit]
  simp only [List.countP_append, List.countP_cons, List.countP_map]
  have hc : (fun x : BbRecord => p x.code) ∘ (fun x : BbRecord => { x with seq := x.seq + 1 }) = fun x => p x.code := rfl
  rw [hc]
  omega

/-- The box takes `m` more records of this cycle. -/
structure BoxRoom (m : Nat) (s : State) : Prop where
  frozen : s.bb.frozen = false
  countdown : ∀ k ∈ s.bb.countdown, m < k
  fresh : s.freshCount + m < 4096
  small : m ≤ 1024

theorem BoxRoom.mono {m n : Nat} {s : State} (h : BoxRoom m s) (hn : n ≤ m) : BoxRoom n s :=
  ⟨h.frozen, fun k hk => Nat.lt_of_le_of_lt hn (h.countdown k hk), by have := h.fresh; omega, Nat.le_trans hn h.small⟩

theorem boxRoom_of_boxTakes {s : State} (h : Claims.BoxTakes s) : BoxRoom 64 s := by
  obtain ⟨hf, hc, hn⟩ := h
  refine ⟨hf, hc, ?_, by decide⟩
  unfold State.freshCount
  split <;> omega

section
variable {s : State} (code : Nat) (src : Src) (ctx : BitVec 16) (a b : Nat) {m : Nat} (h : BoxRoom (m + 1) s)
include h

/-- An event that the box takes adds one record, and the box goes on. -/
theorem event_eq : ∃ (r : BbRecord) (left : Option Nat), r.code = BitVec.ofNat 16 code ∧ (∀ k ∈ left, m < k) ∧
    s.event code src ctx a b = { s with bb := { s.bb.record s.cycle r with frozen := false, countdown := left } } := by
  obtain ⟨hf, hc, -, hm⟩ := h
  unfold State.event
  simp only [hf]
  have hgo {left : Option Nat} {r : BbRecord} (hl : ∀ k ∈ left, m < k) :
      ({ s with bb := { s.bb.record s.cycle r with frozen := decide (left = some 0), countdown := if left = some 0 then none else left } } : State) =
        { s with bb := { s.bb.record s.cycle r with frozen := false, countdown := left } } := by
    have h0 : left ≠ some 0 := fun e => Nat.not_lt_zero m (hl 0 e)
    rw [if_neg h0, decide_eq_false h0]
  cases hcd : s.bb.countdown with
  | some k =>
    have hl : ∀ j ∈ some (k - 1), m < j := by
      intro j hj
      have := hc k hcd
      cases hj; omega
    exact ⟨_, some (k - 1), rfl, hl, hgo hl⟩
  | none =>
    by_cases hs : severity code = 3
    · have hl : ∀ j ∈ some 1024, m < j := by
        intro j hj
        cases hj; omega
      simp only [hs, if_true]
      exact ⟨_, some 1024, rfl, hl, hgo hl⟩
    · have hl : ∀ j ∈ (none : Option Nat), m < j := fun j hj => by cases hj
      simp only [hs, if_false]
      exact ⟨_, none, rfl, hl, hgo hl⟩

theorem event_freshCount : (s.event code src ctx a b).freshCount = s.freshCount + 1 := by
  obtain ⟨r, left, -, -, he⟩ := event_eq code src ctx a b h
  rw [he]
  exact if_pos rfl

theorem event_room : BoxRoom m (s.event code src ctx a b) := by
  have hn := event_freshCount code src ctx a b h
  obtain ⟨r, left, -, hl, he⟩ := event_eq code src ctx a b h
  refine ⟨by rw [he], by rw [he]; exact hl, ?_, Nat.le_of_succ_le h.small⟩
  have := h.fresh
  omega

/-- An event is logged once. -/
theorem event_logged (x : BitVec 16) :
    (s.event code src ctx a b).loggedOf x = s.loggedOf x + if BitVec.ofNat 16 code = x then 1 else 0 := by
  have hn := event_freshCount code src ctx a b h
  obtain ⟨r, left, hr, -, he⟩ := event_eq code src ctx a b h
  have hcount := countP_record s.bb s.cycle r (fun c => decide (c = x)) (n := s.freshCount) rfl (by have := h.fresh; omega)
  have hu : Claims.freshRecords (s.event code src ctx a b) = ((s.bb.record s.cycle r).records.take (s.freshCount + 1)) := by
    rw [← hn]
    show (s.event code src ctx a b).bb.records.take _ = _
    rw [he]; rfl
  unfold State.loggedOf
  rw [← List.countP_eq_length_filter, ← List.countP_eq_length_filter, hu, hcount, hr]
  simp only [decide_eq_true_eq]
  rfl
end

/-! ### Changes that log nothing -/

/-- Which wickets of a cell run. -/
def Cell.runs (x : Cell) : List Bool := x.wickets.map (·.running)

/-- `t` differs from `s` in no event, and the same wickets run. -/
structure Muted (s t : State) : Prop where
  bb : t.bb = s.bb
  cycle : t.cycle = s.cycle
  runs : ∀ c, (t.cell c).runs = (s.cell c).runs

theorem Muted.refl (s : State) : Muted s s := ⟨rfl, rfl, fun _ => rfl⟩

theorem Muted.trans {s t u : State} (h : Muted s t) (k : Muted t u) : Muted s u :=
  ⟨k.bb.trans h.bb, k.cycle.trans h.cycle, fun c => (k.runs c).trans (h.runs c)⟩

theorem Muted.ite {s a b : State} {p : Prop} [Decidable p] (h : Muted s a) (k : Muted s b) : Muted s (if p then a else b) := by
  split
  · exact h
  · exact k

theorem Muted.foldl {α : Type} {f : State → α → State} (h : ∀ s a, Muted s (f s a)) (l : List α) (s : State) : Muted s (l.foldl f s) := by
  induction l generalizing s with
  | nil => exact .refl s
  | cons a r ih => exact (h s a).trans (ih (f s a))

theorem Muted.setCell {s : State} {c : Nat} {x : Cell} (h : x.runs = (s.cell c).runs) : Muted s (s.setCell c x) := by
  refine ⟨rfl, rfl, fun d => ?_⟩
  by_cases hd : c = d
  · subst hd
    by_cases hc : c < s.cells.length
    · rw [cell_setCell _ _ _ hc, h]
    · rw [setCell_of_not_lt hc]
  · rw [cell_setCell_other _ _ _ _ hd]

theorem Muted.setCell_wickets {s : State} {c : Nat} {x : Cell} (h : x.wickets = (s.cell c).wickets) : Muted s (s.setCell c x) :=
  .setCell (congrArg (List.map Wicket.running) h)

theorem Muted.modCell {s : State} {c : Nat} {f : Cell → Cell} (h : (f (s.cell c)).runs = (s.cell c).runs) : Muted s (s.modCell c f) := .setCell h

theorem Muted.mem (s : State) (m : MemUnit) : Muted s { s with mem := m } := ⟨rfl, rfl, fun _ => rfl⟩

theorem Muted.agenda (s : State) (l : List Move) : Muted s { s with agenda := l } := ⟨rfl, rfl, fun _ => rfl⟩

theorem map_modAt {α β : Type} (g : α → β) {f : α → α} (h : ∀ a, g (f a) = g a) (l : List α) (k : Nat) : (modAt l k f).map g = l.map g := by
  induction l generalizing k with
  | nil => rfl
  | cons a l ih => cases k <;> simp [modAt, h, ih]

theorem map_mapFrom {α β : Type} (g : α → β) {f : Nat → α → α} (h : ∀ k a, g (f k a) = g a) (l : List α) (k : Nat) :
    (mapFrom k f l).map g = l.map g := by
  induction l generalizing k with
  | nil => rfl
  | cons a l ih => simp [mapFrom, h, ih]

theorem runs_setReg (x : Cell) (ag : Agent) (r : Nat) (v : DWord) : (x.setReg ag r v).runs = x.runs := by
  unfold Cell.setReg
  split
  · rfl
  · cases ag with
    | wicket w => exact map_modAt Wicket.running (f := fun k => { k with regs := k.regs.set r v }) (fun _ => rfl) ..
    | stream st => rfl

theorem Muted.haltWrite (s : State) (c : Nat) (v : DWord) : Muted s (s.haltWrite c v) := by
  unfold State.haltWrite
  refine .ite (.setCell_wickets rfl) (.ite (.setCell_wickets rfl) (.ite (Muted.trans ?_ (.agenda (s.setCell c _) _)) (.setCell_wickets rfl)))
  exact .setCell_wickets rfl

theorem Muted.ctrlWrite8 (s : State) (c off : Nat) (v : DWord) : Muted s (s.ctrlWrite8 c off v) := by
  unfold State.ctrlWrite8
  extract_lets
  repeat' (with_reducible apply Muted.ite)
  all_goals first
    | with_reducible apply Muted.haltWrite
    | with_reducible apply Muted.refl
    | exact .setCell_wickets rfl

theorem Muted.setWindowReg8 (s : State) (c off : Nat) (v : DWord) : Muted s (s.setWindowReg8 c off v) := by
  unfold State.setWindowReg8
  extract_lets
  repeat' (with_reducible apply Muted.ite)
  all_goals first
    | with_reducible apply Muted.refl
    | with_reducible apply Muted.ctrlWrite8
    | exact .setCell_wickets rfl
    | exact .setCell (runs_setReg (s.cell c) ..)

theorem Muted.windowRegWrite (s : State) (c off : Nat) (bs : List Byte) : Muted s (s.windowRegWrite c off bs) :=
  .ite (.refl s) (.foldl (fun _ _ => .setWindowReg8 ..) _ s)

theorem Muted.writeWindow (s : State) (ag : Nat × Agent) (c off : Nat) (p : Part) (bad : Bool) (via : Option AccessOrigin) :
    Muted s (s.writeWindow ag c off p bad via) :=
  .ite (.refl s) (.ite ((Muted.modCell rfl).trans (.mem ..)) (.ite (.setCell rfl) (.windowRegWrite ..)))

theorem Muted.writeMem (s : State) (d : Nat) (ag : Nat × Agent) (p : Part) (bad : Bool) : Muted s (s.writeMem d ag p bad) :=
  .ite (.refl s) ((Muted.mem s _).trans (.mem ..))

theorem Muted.detect (s : State) (pa n : Nat) : Muted s (s.detect pa n) := .ite (.refl s) (.mem ..)

theorem Muted.bar (s : State) (who : Nat × Agent) (pa : Nat) : Muted s (s.bar who pa) := by
  unfold State.bar
  split
  · exact .ite (.setCell rfl) (.refl s)
  · exact .refl s

theorem Muted.withPortWaits (s : State) (l : List (Nat × Nat)) : Muted s (s.withPortWaits l) := ⟨rfl, rfl, fun _ => rfl⟩

theorem BoxRoom.congr {s t : State} {m : Nat} (k : BoxRoom m s) (hb : t.bb = s.bb) (hc : t.cycle = s.cycle) : BoxRoom m t := by
  have hn : t.freshCount = s.freshCount := by unfold State.freshCount; rw [hb, hc]
  exact ⟨hb ▸ k.frozen, hb ▸ k.countdown, hn ▸ k.fresh, k.small⟩

theorem loggedOf_congr {s t : State} (hb : t.bb = s.bb) (hc : t.cycle = s.cycle) (code : BitVec 16) : t.loggedOf code = s.loggedOf code := by
  unfold State.loggedOf Claims.freshRecords
  rw [hb, hc]

/-! ### Changes that log other events -/

/-- From `s` to `t` the box takes at most `n` records, none of them with the code; the same wickets run. -/
structure LogsOther (code : BitVec 16) (n : Nat) (s t : State) : Prop where
  runs : ∀ c, (t.cell c).runs = (s.cell c).runs
  room : ∀ m, BoxRoom (m + n) s → BoxRoom m t
  logged : BoxRoom n s → t.loggedOf code = s.loggedOf code

section
variable {code : BitVec 16}

theorem Muted.logsOther {s t : State} (h : Muted s t) (n : Nat) : LogsOther code n s t :=
  ⟨h.runs, fun _ k => (k.mono (Nat.le_add_right ..)).congr h.bb h.cycle, fun _ => loggedOf_congr h.bb h.cycle code⟩

theorem LogsOther.trans {a b : Nat} {s t u : State} (h : LogsOther code a s t) (k : LogsOther code b t u) : LogsOther code (a + b) s u where
  runs c := (k.runs c).trans (h.runs c)
  room m hm := k.room m (h.room (m + b) (hm.mono (by omega)))
  logged hr := (k.logged (h.room b (hr.mono (by omega)))).trans (h.logged (hr.mono (by omega)))

/-- One event of another code. -/
theorem LogsOther.event (s : State) {k : Nat} (src : Src) (ctx : BitVec 16) (a b : Nat) (hk : BitVec.ofNat 16 k ≠ code) :
    LogsOther code 1 s (s.event k src ctx a b) where
  runs c := congrArg Cell.runs (congrArg (fun l : List Cell => l.getD c {}) (event_cells s k src ctx a b))
  room _ hm := event_room k src ctx a b hm
  logged hr := (event_logged k src ctx a b (m := 0) hr code).trans (by rw [if_neg hk]; rfl)

variable (h1 : (0x0101 : BitVec 16) ≠ code) (h2 : (0x0102 : BitVec 16) ≠ code)
include h1

theorem LogsOther.holeAccess (s : State) (a pa : Nat) : LogsOther code 1 s (s.holeAccess a pa) := .event s _ _ _ _ h1

/-- A write by physical address is discarded with an event, or logs nothing. -/
theorem LogsOther.writePa (s : State) (d : Nat) (ag : Nat × Agent) (pa : Nat) (bs : List Byte) (bad : Bool) (mask : List Byte)
    (via : Option AccessOrigin) : LogsOther code 1 s (s.writePa d ag pa bs bad mask via) := by
  unfold State.writePa
  simp only
  split
  · exact .holeAccess h1 ..
  · exact (Muted.writeWindow ..).logsOther 1
  · split
    · exact .holeAccess h1 ..
    · split
      · exact ((Muted.writeMem ..).trans (.writeMem ..)).logsOther 1
      · exact (Muted.writeMem ..).logsOther 1

theorem LogsOther.dwrite (s : State) (pa : Nat) (bs : List Byte) : LogsOther code 1 s (s.dwrite pa bs) :=
  (LogsOther.writePa h1 ..).trans ((Muted.mem ..).logsOther 0)

theorem LogsOther.writeCtx (s : State) (ctx : BitVec 16) : LogsOther code 3 s (s.writeCtx ctx) :=
  ((LogsOther.dwrite h1 ..).trans (.dwrite h1 ..)).trans (.dwrite h1 ..)

theorem LogsOther.modContext (s : State) (ctx : BitVec 16) (f : Context → Context) : LogsOther code 3 s (s.modContext ctx f) :=
  have h : Muted s (s.setContext ctx (f (s.context ctx))) := ⟨rfl, rfl, fun _ => rfl⟩
  (h.logsOther 0).trans (.writeCtx h1 ..)

theorem LogsOther.dstore {s t : State} {ctx : BitVec 16} {va : Nat} {bs : List Byte} (h : s.dstore ctx va bs = .ok t) : LogsOther code 1 s t := by
  unfold State.dstore at h
  split at h
  · cases h
  · split at h
    · cases h; exact .dwrite h1 ..
    · split at h
      · cases h; exact ((Muted.bar ..).trans (.modCell rfl)).logsOther 1
      · cases h; exact (Muted.refl s).logsOther 1

include h2

theorem LogsOther.badRead (s : State) (who : Nat × Agent) (carried : Bool) (pa n : Nat) : LogsOther code 1 s (s.badRead who carried pa n) := by
  unfold State.badRead
  split
  · exact .holeAccess h1 ..
  · split
    · split
      · exact (LogsOther.event s _ _ _ _ h2).trans ((Muted.modCell rfl).logsOther 0)
      · exact (Muted.detect ..).logsOther 1
    · exact (Muted.detect ..).logsOther 1

theorem LogsOther.dmiss (s : State) (ctx : BitVec 16) (va n : Nat) (e : BitVec 8) : LogsOther code 1 s (s.dmiss ctx va n e) := by
  unfold State.dmiss
  split
  · exact (Muted.refl s).logsOther 1
  · split
    · split
      · refine LogsOther.trans (a := 1) ?_ ((Muted.bar ..).logsOther 0)
        split
        · exact (Muted.refl s).logsOther 1
        · exact (Muted.withPortWaits ..).logsOther 1
      · exact (LogsOther.badRead h1 h2 ..).trans ((Muted.withPortWaits ..).logsOther 0)
    · exact .badRead h1 h2 ..
    · exact (Muted.refl s).logsOther 1

/-- A notice takes at most four writes, of its record and of its context's entry. -/
theorem LogsOther.notice (s : State) (ctx : BitVec 16) (cause : BitVec 8) (origin cell task : Nat) (info page : DWord) :
    LogsOther code 4 s (s.notice ctx cause origin cell task info page) := by
  unfold State.notice
  refine LogsOther.trans (a := 1) ?_ (.modContext h1 ..)
  split
  next h => exact .dstore h1 h
  next => exact .dmiss h1 h2 ..
end

end Sys2Proof.Machine

/-! PROOFS. Messages about groups (R348, R360), replies to a cell (R348), landing packets (R40, R409, R410), the overrun of a wicket
(R41) and the departure of a packet. -/

namespace Sys2Proof.Machine

open Host

/-! ### Messages about groups -/

theorem setGroup_moduleNumber (s : State) (k : Nat) (g : Group) : (s.setGroup k g).moduleNumber = s.moduleNumber := by
  have h : (s.setGroup k g).link = s.link := dwrite_link ..
  unfold State.moduleNumber
  rw [h]

/-- The group of an id on this module, and what its slot holds. -/
theorem group_eq_some {s : State} {g : BitVec 32} {x : Group} : s.group g = some x ↔
    gidHome g = s.moduleNumber ∧ s.groupAt (gidSlot g) = x ∧ x.state ≠ gFREE := by
  unfold State.group
  constructor
  · intro h
    split at h
    · cases h
    next hg =>
      simp only at h
      split at h
      · cases h
      next hf => cases h; exact ⟨Decidable.not_not.mp hg, rfl, hf⟩
  · rintro ⟨hg, rfl, hf⟩
    rw [if_neg (not_not_intro hg)]
    exact if_neg hf

/-- A group of this module that is changed without becoming FREE is the group of its id. -/
theorem setGroup_group {s : State} {g : BitVec 32} {x y : Group} (h : s.group g = some x) (hy : y.state ≠ gFREE) :
    (s.setGroup (gidSlot g) y).group g = some y := by
  obtain ⟨hg, -, -⟩ := group_eq_some.mp h
  exact group_eq_some.mpr ⟨hg.trans (setGroup_moduleNumber ..).symm, setGroup_groupAt .., hy⟩

section
variable {s : State} {g : BitVec 32} {x : Group} (hx : s.group g = some x)
include hx

/-- A member that another module holds is counted in. -/
theorem memberAdded_counts (hg : s.homed g = true) (hc : x.count ≠ BitVec.allOnes 48) (src cell : Nat) :
    ∃ u, exec (.remoteGroupMessage src cell (.memberAdded g)) s = .next u ∧ u.groupAt (gidSlot g) = { x with
      count := x.count + 1, state := if x.state = 2 then 0 else x.state, afar := store x.afar src ((look x.afar src).getD 0 + 1) } := by
  have hf : x.full = false := decide_eq_false hc
  have hy : (if x.state = gDRAINED then gOPEN else x.state) ≠ gFREE := by
    split
    · decide
    · exact (group_eq_some.mp hx).2.2
  have hin : s.countIn g = s.setGroup (gidSlot g) { x with count := x.count + 1, state := if x.state = gDRAINED then gOPEN else x.state } := by
    unfold State.countIn; rw [hx]
  refine ⟨(s.countIn g).afar g src false, ?_, ?_⟩
  · show execRemoteGroupMessage src cell (.memberAdded g) s = _
    unfold execRemoteGroupMessage
    simp only [hg, hx]
    rw [if_pos (by simp [hf])]
  · unfold State.afar
    rw [hin, setGroup_group hx hy]
    exact setGroup_groupAt ..

/-- A counter at its limit counts no more. -/
theorem memberAdded_full (hc : x.count = BitVec.allOnes 48) (src cell : Nat) :
    exec (.remoteGroupMessage src cell (.memberAdded g)) s = .next s := by
  have hf : x.full = true := decide_eq_true hc
  show execRemoteGroupMessage src cell (.memberAdded g) s = _
  unfold execRemoteGroupMessage
  simp only [hx]
  rw [if_neg (by simp [hf])]

theorem groupErr_marks (hg : s.homed g = true) (src cell : Nat) : ∃ u, exec (.remoteGroupMessage src cell (.err g)) s = .next u ∧
    u.groupAt (gidSlot g) = { x with err := true } := by
  refine ⟨s.groupErr g, ?_, ?_⟩
  · show execRemoteGroupMessage src cell (.err g) s = _
    unfold execRemoteGroupMessage
    simp only [hg, if_true]
  · unfold State.groupErr
    rw [hx]
    exact setGroup_groupAt ..

theorem remoteWait_waits (ht : x.terminal = false) (src cell : Nat) : ∃ u, exec (.remoteGroupMessage src cell (.wait g x.ctx)) s = .next u ∧
    u.groupAt (gidSlot g) = { x with waiters := x.waiters ++ [(src, cell)] } := by
  refine ⟨s.waitGroup src cell g x.ctx, rfl, ?_⟩
  unfold State.waitGroup
  simp only [hx, ht]
  rw [if_neg (by simp)]
  exact setGroup_groupAt ..
end

/-! ### Replies -/

theorem asking_query {x : Cell} {w : Unfinished} {q : BitVec 4} {d a : BitVec 5} {p : BitVec 1} (hw : x.s.iss.wait.isSome = true)
    (hl : x.s.iss.unfinished.getLast? = some w) (hs : w.sent = true) (hv : w.value = none) (hi : w.instr = .gctlQuery q d a p) :
    x.asking = some (.stream .s) := by
  have hiss : x.issue (.stream .s) = x.s.iss := rfl
  unfold Cell.asking
  rw [List.find?_cons_of_pos]
  simp only [hiss, hw, hl, hs, hv, hi, Option.any_some]
  rfl

/-- The value goes to the form of S that asked. -/
theorem remoteGroupReply_query {s : State} {c : Nat} {w : Unfinished} {q : BitVec 4} {d a : BitVec 5} {p : BitVec 1}
    (hw : (s.cell c).s.iss.wait.isSome = true) (hl : (s.cell c).s.iss.unfinished.getLast? = some w)
    (hs : w.sent = true) (hv : w.value = none) (hi : w.instr = .gctlQuery q d a p) (v : DWord) : ∃ l, exec (.remoteGroupReply c v) s =
      .next { s.setCell c ((s.cell c).modIssue (.stream .s) fun i => i.setLast { w with value := some v }) with link := l } := by
  have hgot : { w with value := some v, got := w.got ++ [] } = { w with value := some v } := by rw [List.append_nil]
  show ∃ l, execRemoteGroupReply c v s = _
  unfold execRemoteGroupReply State.giveAnswer
  simp only [asking_query hw hl hs hv hi]
  rw [← hgot]
  unfold State.modIssue State.modCell Cell.modIssue
  simp only [hl]
  exact ⟨_, rfl⟩

/-! ### Landing packets -/

/-- A cell whose buffer has a free slot has room. -/
theorem landingRoom_of_free {x : Cell} {k : Nat} (hk : x.landing.findIdx? Option.isNone = some k) :
    k < x.landing.length ∧ x.landingRoom ≠ 0 := by
  obtain ⟨hlt, hn, -⟩ := List.findIdx?_eq_some_iff_getElem.mp hk
  refine ⟨hlt, ?_⟩
  have hm : x.landing[k] ∈ x.landing.filter Option.isNone := List.mem_filter.mpr ⟨List.getElem_mem hlt, hn⟩
  exact fun h0 => by rw [List.length_eq_zero_iff.mp h0] at hm; cases hm

section
variable {s : State} {c : Nat} {p : Packet}

theorem landingArrival_full (h : (s.cell c).landingRoom = 0) : exec (.landingArrival c p) s = .next s := by
  show execLandingArrival c p s = _
  unfold execLandingArrival
  exact congrArg Outcome.next (if_pos (.inr h))

/-- A packet from another module enters the first free slot of a cell that is not fenced. -/
theorem landingArrival_places {k : Nat} (hc : c < 192) (hp : p.sender.toNat ≠ s.moduleNumber) (hf : (s.cell c).res.fenced = false)
    (hk : (s.cell c).landing.findIdx? Option.isNone = some k) :
    exec (.landingArrival c p) s = .next (s.modCell c fun x => x.placePacket p) := by
  have hr : ¬(Config.cells ≤ c ∨ (s.cell c).landingRoom = 0) := by
    rintro (h | h)
    · exact absurd hc (Nat.not_lt.mpr h)
    · exact (landingRoom_of_free hk).2 h
  show execLandingArrival c p s = _
  unfold execLandingArrival
  simp only [hf]
  rw [if_neg hr, if_pos hp]
  rfl

theorem placePacket_landing {x : Cell} {k : Nat} (hk : x.landing.findIdx? Option.isNone = some k) :
    ∃ n, (x.placePacket p).landing = x.landing.set k (some { packet := p, order := n }) := by
  unfold Cell.placePacket
  simp only [hk]
  exact ⟨_, rfl⟩
end

/-- The only packet that waits is served. -/
theorem landingServe_one {s v : State} {c k : Nat} {l : LandSlot} (hf : (s.cell c).res.fenced = false)
    (hw : (s.cell c).waitingPackets = [(k, l)]) (hv : s.servePacket c k l.packet = some v) : exec (.landingServe c) s = .next v := by
  show execLandingServe c s = _
  unfold execLandingServe
  simp only [hf, hw]
  rw [if_neg (by simp), List.findSome?_cons]
  simp only [hv]
  rfl

/-! ### A wicket starts -/

theorem runs_length (x : Cell) : x.runs.length = x.wickets.length := List.length_map ..

/-- The same wickets run, and there are as many cells. -/
def KeepsRuns (s t : State) : Prop := (∀ c, (t.cell c).runs = (s.cell c).runs) ∧ t.cells.length = s.cells.length

theorem KeepsRuns.trans {s t u : State} (h : KeepsRuns s t) (k : KeepsRuns t u) : KeepsRuns s u :=
  ⟨fun c => (k.1 c).trans (h.1 c), k.2.trans h.2⟩

theorem keepsRuns_setCell {s : State} {c : Nat} {x : Cell} (h : x.runs = (s.cell c).runs) : KeepsRuns s (s.setCell c x) :=
  ⟨(Muted.setCell h).runs, setCell_length ..⟩

/-- Writing a context's entry starts and stops no wicket. -/
theorem keepsRuns_modContext (s : State) (ctx : BitVec 16) (f : Context → Context) : KeepsRuns s (s.modContext ctx f) :=
  ⟨(LogsOther.modContext (code := 0) (by decide) s ctx f).runs, (keepsTasks_modContext s ctx f).cells⟩

theorem keepsRuns_foldl {α : Type} {f : State → α → State} (h : ∀ s a, KeepsRuns s (f s a)) (l : List α) (s : State) :
    KeepsRuns s (l.foldl f s) := by
  induction l generalizing s with
  | nil => exact ⟨fun _ => rfl, rfl⟩
  | cons a r ih => exact (h s a).trans (ih (f s a))

/-- Crediting energy starts and stops no wicket. -/
theorem keepsRuns_creditWickets (s : State) (c : Nat) (ag : Agent) : KeepsRuns s (s.creditWickets c ag) := by
  unfold State.creditWickets
  extract_lets x credit s1 s2
  split
  · exact ⟨fun _ => rfl, rfl⟩
  · have h1 : KeepsRuns s s1 := keepsRuns_setCell (map_mapFrom Wicket.running (fun _ _ => by unfold credit; split <;> rfl) x.wickets 0)
    have h2 : KeepsRuns s1 s2 := keepsRuns_foldl (fun _ _ => keepsRuns_modContext ..) _ s1
    refine (h1.trans h2).trans (keepsRuns_setCell ?_)
    unfold Cell.runs
    rw [List.map_map]
    refine List.map_congr_left fun k _ => ?_
    show (if k.running = true then k else _).running = k.running
    split <;> rfl

/-- Without energy to credit nothing changes. -/
theorem creditWickets_none {s : State} {c : Nat} (hl : (s.cell c).loose = 0) (he : ∀ y ∈ (s.cell c).wickets, y.ea = 0) (ag : Agent) :
    s.creditWickets c ag = s := by
  unfold State.creditWickets
  refine if_pos ⟨hl, List.all_eq_true.mpr fun y hy => ?_⟩
  rw [he y hy, Bool.or_eq_true]
  exact .inr rfl

/-- The wicket that starts on a packet (R411). -/
theorem startWicket_wicket {x : Cell} {w : Nat} (hw : w < x.wickets.length) (k : Nat) (p : Packet) (now : Nat) :
    (x.startWicket w k p now).wicket w = {
      running := true, iss := { pc := p.handler }, ctx := p.ctx, packet := some k, start := now, alone := x.res.task.isNone
      regs := (((List.replicate 16 (0 : DWord)).set 1 (p.tag.setWidth 64)).set 2 (BitVec.ofNat 64 p.payload.length)).set 3
        (BitVec.ofNat 64 (p.sender.toNat + 2 ^ 12 * p.scell.toNat + 2 ^ 20 * p.ctx.toNat)) } := by
  show (x.wickets.set w _).getD w {} = _
  rw [List.getD_eq_getElem?_getD, List.getElem?_set_self hw]
  rfl

theorem servePacket_wicket {s : State} {c k w : Nat} {p : Packet} (ht : s.landingTask c p = none) (hy : (s.cell c).yieldsFor p = false)
    (hm : s.mayStartWicket c p = true) (hw : ((s.cell c).wickets.findIdx? fun w => !w.running) = some w) :
    s.servePacket c k p = some ((s.creditWickets c (.wicket w)).modCell c fun x => x.startWicket w k p s.cycle) := by
  unfold State.servePacket
  simp only [ht, hy, hm, hw, if_true, Bool.false_eq_true, if_false]

/-! ### A task that waits for a packet -/

theorem landingTask_only {s : State} {c n : Nat} {t : Task} {p : Packet} {i : Image} (hd : s.disp.tasks = [(n, t)]) (hs : t.state = .suspLand)
    (hc : t.lastCell = c) (hx : t.record.ctxid = p.ctx) (hp : t.record.sinfo = p.tag) (hi : t.image = some i) (hk : i.s.packet = none) :
    s.landingTask c p = some (n, t) := by
  unfold State.landingTask
  rw [hd, List.filter_cons_of_pos]
  · rfl
  · simp [hs, hc, hx, hp, hi, hk]

/-- The task with a packet held for it. -/
def Task.takePacket (t : Task) (k : Nat) : Task :=
  { t with image := t.image.map fun (i : Image) => { i with s := { i.s with packet := some k } } }

theorem servePacket_task {s : State} {c k n : Nat} {t : Task} {p : Packet} (h : s.landingTask c p = some (n, t)) :
    s.servePacket c k p = some (((s.setTask n (t.takePacket k)).makeReady n).modCell c fun x => x.holdPacket k false) := by
  unfold State.servePacket
  rw [h]
  rfl

/-- A task alone in the pool finds room there. -/
theorem makeReady_alone {s : State} {n : Nat} {t : Task} (hd : s.disp.tasks = [(n, t)]) :
    ∃ t', (s.makeReady n).task n = some t' ∧ t'.state = .ready ∧ t'.image = t.image := by
  have ht : s.task n = some t := by unfold State.task; rw [hd]; exact if_pos rfl
  have hheld : s.poolHeld n < 65536 := by
    unfold State.poolHeld
    rw [hd]
    exact Nat.lt_of_le_of_lt (List.length_filter_le ..) (show 1 < 65536 by decide)
  unfold State.makeReady
  simp only [ht]
  rw [if_pos hheld]
  exact ⟨_, setTask_task .., rfl, rfl⟩

theorem setTask_only {s : State} {n : Nat} {t : Task} (hd : s.disp.tasks = [(n, t)]) (t' : Task) : (s.setTask n t').disp.tasks = [(n, t')] := by
  show store s.disp.tasks n t' = _
  rw [hd]
  simp [store]

/-! ### A wicket overruns -/

theorem wicket_running (x : Cell) (w : Nat) : (x.wicket w).running = x.runs.getD w false := by
  unfold Cell.wicket Cell.runs
  rw [List.getD_eq_getElem?_getD, List.getD_eq_getElem?_getD, List.getElem?_map]
  cases x.wickets[w]? <;> rfl

/-- A wicket that is stopped does not run, and one that is not there does not either. -/
theorem running_modAt {f : Wicket → Wicket} (h : ∀ k, (f k).running = false) (l : List Wicket) (w : Nat) :
    ((modAt l w f).getD w {}).running = false := by
  induction l generalizing w with
  | nil => rfl
  | cons a l ih => cases w with
    | zero => exact h a
    | succ w => exact ih w

/-- A wicket whose trap is taken runs no more, and the notice logs nothing of the given code. -/
theorem wicketTrap_stops {s : State} {c w : Nat} {code : BitVec 16} (hc : c < s.cells.length) (h1 : (0x0101 : BitVec 16) ≠ code)
    (h2 : (0x0102 : BitVec 16) ≠ code) (hb : BoxRoom 5 s) (t : TrapInfo) : (((s.wicketTrap c w t).cell c).wicket w).running = false ∧
      BoxRoom 1 (s.wicketTrap c w t) ∧ (s.wicketTrap c w t).loggedOf code = s.loggedOf code := by
  unfold State.wicketTrap
  extract_lets k h s1
  have hn := LogsOther.notice h1 h2 s1 k.ctx t.cause 1 c 0 t.info h
  have hb1 : BoxRoom 5 s1 := hb.congr rfl rfl
  refine ⟨?_, hn.room 1 hb1, (hn.logged (hb1.mono (by decide))).trans (loggedOf_congr rfl rfl code)⟩
  have hs1 : s1.cell c = _ := cell_modCell s c _ hc
  rw [wicket_running, hn.runs c, ← wicket_running, hs1]
  exact running_modAt (fun _ => rfl) (s.cell c).wickets w

theorem wicketOverrun_due {s : State} {c w : Nat} (hr : ((s.cell c).wicket w).running = true) (ha : ((s.cell c).wicket w).alone = true)
    (hd : ((s.cell c).wicket w).start + 65536 < s.cycle) (hh : (s.cell c).dbg.holds = false) : ∃ h, exec (.wicketOverrun c w) s =
      .next ((s.wicketTrap c w ⟨cBOUND, boundInfo 3 7⟩).event 0x0202 (.cell c) ((s.cell c).wicket w).ctx h w) := by
  show ∃ h, execWicketOverrun c w s = _
  unfold execWicketOverrun
  simp only
  rw [if_neg]
  · exact ⟨_, rfl⟩
  · simp [hr, ha, hh]; omega

/-! ### A packet leaves -/

theorem charge_c (x : Cell) (n : Nat) : (x.charge n).c = x.c := by
  unfold Cell.charge
  split
  · rfl
  · split <;> rfl

theorem landCredit_leaves {s : State} {c dst dcell port : Nat} {p : Packet} (ho : (s.cell c).c.landOut = some (dst, dcell, p))
    (hd : dst ≠ s.moduleNumber) (hr : s.route dst = some port) (hh : s.routeHeld c dst port 2 = false) (k : Nat) :
    ∃ n : Cell → Nat, exec (.landingCredit c k false) s = .next (State.send
      (s.modCell c fun x => ({ x with c := { x.c with landOut := none } } : Cell).charge (n x))
      { dst := dst, port := port, cell := c, agent := .stream .c, ctx := p.ctx, sentAt := s.cycle, payload := .landing dcell p }) := by
  show ∃ n : Cell → Nat, execLandingCredit c k false s = _
  unfold execLandingCredit State.landCredit
  simp only [ho, hr, hh]
  rw [if_pos (by decide), if_neg (by simp [hd])]
  exact ⟨_, rfl⟩

/-! ### The obligation -/

/-- Settles O48: messages change their group, a reply reaches the form that asked, a packet is placed, served and sent on, and a wicket alone
is stopped. -/
theorem messagesAndPackets : Obligations.MessagesAndPackets := by
  unfold Obligations.MessagesAndPackets
  refine ⟨?messages, ?reply, ?arrival, ?serve, ?overrun, ?leave⟩
  case messages =>
    intro s src cell g x hg hx
    exact ⟨fun hc => memberAdded_counts hx hg hc src cell, fun hc => memberAdded_full hx hc src cell, groupErr_marks hx hg src cell,
      fun ht => remoteWait_waits hx ht src cell⟩
  case reply =>
    intro s c v w q d a p hc x hw hl hs hv hi
    obtain ⟨l, he⟩ := remoteGroupReply_query hw hl hs hv hi v
    have hy := cell_setCell s c (x.modIssue (.stream .s) fun i => i.setLast { w with value := some v }) hc
    exact ⟨_, he, congrArg (·.s.iss.unfinished) hy, congrArg (·.s.regs) hy, rfl, rfl⟩
  case arrival =>
    intro s c p hc hlt hp x
    refine ⟨landingArrival_full, fun k hf hk => ?_⟩
    obtain ⟨n, hland⟩ := placePacket_landing (p := p) hk
    have hy := (congrArg Cell.landing (cell_modCell s c (fun x => x.placePacket p) hlt)).trans hland
    refine ⟨_, { packet := p, order := n }, landingArrival_places hc hp hf hk, ?_, rfl, rfl, fun j hj => ?_⟩
    · rw [hy, List.getD_eq_getElem?_getD, List.getElem?_set_self (landingRoom_of_free hk).1]
      rfl
    · rw [hy, List.getD_eq_getElem?_getD, List.getElem?_set_ne (Ne.symm hj), ← List.getD_eq_getElem?_getD]
  case serve =>
    intro s c k l hlt hf hw x
    refine ⟨fun w ht hy hm hi => ?wicket, fun n t i hd hs hc hx hp hi hk => ?task⟩
    case wicket =>
      have hwlt : w < ((s.creditWickets c (.wicket w)).cell c).wickets.length := by
        rw [← runs_length, (keepsRuns_creditWickets s c (.wicket w)).1 c, runs_length]
        exact (List.findIdx?_eq_some_iff_getElem.mp hi).1
      have hu := cell_modCell (s.creditWickets c (.wicket w)) c (fun x => x.startWicket w k l.packet s.cycle)
        ((keepsRuns_creditWickets s c (.wicket w)).2 ▸ hlt)
      have hy' := (congrArg (fun x : Cell => x.wicket w) hu).trans (startWicket_wicket hwlt k l.packet s.cycle)
      refine ⟨_, landingServe_one hf hw (servePacket_wicket ht hy hm hi), ?_⟩
      refine ⟨congrArg Wicket.running hy', congrArg (·.iss.pc) hy', congrArg Wicket.ctx hy', congrArg Wicket.packet hy', congrArg Wicket.regs hy',
        fun hl he => ?_⟩
      rw [creditWickets_none hl he] at hu ⊢
      exact ⟨(congrArg Cell.s hu).trans rfl, rfl⟩
    case task =>
      have hserve := servePacket_task (k := k) (landingTask_only hd hs hc hx hp hi hk)
      obtain ⟨t', ht', hst, him⟩ := makeReady_alone (setTask_only hd (t.takePacket k))
      refine ⟨_, t', landingServe_one hf hw hserve, ht', hst, him.trans ?_⟩
      unfold Task.takePacket
      rw [hi]; rfl
  case overrun =>
    intro s c w hlt hw k hr ha hd hh hb
    obtain ⟨h, he⟩ := wicketOverrun_due hr ha hd hh
    obtain ⟨hstop, hroom, hlog⟩ := wicketTrap_stops (code := 0x0202) (w := w) hlt (by decide) (by decide) ((boxRoom_of_boxTakes hb).mono (by decide))
      ⟨cBOUND, boundInfo 3 7⟩
    refine ⟨_, he, ?_, ?_⟩
    · unfold State.cell
      rw [event_cells]
      exact hstop
    · show State.loggedOf _ 0x0202 = s.loggedOf 0x0202 + 1
      rw [event_logged (m := 0) (h := hroom), hlog]
      rfl
  case leave =>
    intro s c k dst dcell port p hlt ho hd hr hh
    obtain ⟨n, he⟩ := landCredit_leaves ho hd hr hh k
    have hy := congrArg (·.c.landOut) (cell_modCell s c (fun x => ({ x with c := { x.c with landOut := none } } : Cell).charge (n x)) hlt)
    refine ⟨_, he, hy.trans (congrArg CUnit.landOut (charge_c ..)), rfl⟩

end Sys2Proof.Machine

/-! What keeps S's own operation from running at the boundary: its predicate, an ill-formed word, the mode (O3, O11). -/

namespace Sys2Proof.Machine

/-! ### The tests before an instruction's own operation -/

section
variable {s : State} {r : BitVec 4} {i : Instr} {f : Form} {body : Nat → Agent → Unfinished → State → Fin} (h : AtS s r)
include h

/-- No bound of R139 or R140 holds an instruction back where nothing is unfinished. -/
theorem issue_room : ((s.here.issue (.stream .s)).unfinished.length ≥ maxUnfinished (.stream .s) ||
    (f.alone && !(s.here.issue (.stream .s)).unfinished.isEmpty) || (s.here.issue (.stream .s)).hazard f false) = false := by
  have hu : (s.here.issue (.stream .s)).unfinished = [] := h.unfinished
  simp [Issue.hazard, hu, maxUnfinished, Config.maxUnfinished]

/-- What the issue of a new instruction of S at the boundary can do: R110's tests and the mode come first, then the predicate, which an ILLEGAL
or PRIV of the instruction's own operation overrules (R112), then that operation. -/
theorem sIssue_new : s.sIssue i f body =
    let own := body s.focus.1 (.stream .s) (s.entry i f) (s.entered i f)
    let ends := (s.entered i f).conclude s.focus.1 (.stream .s)
    if !i.wellFormed then ends (.trap ⟨cILLEGAL, wordInfo (wordOf i) 0⟩ (s.entry i f))
    else if f.super && !s.here.s.super then ends (.trap ⟨cPRIV, wordInfo (wordOf i) 0⟩ (s.entry i f))
    else if !predHolds s.here.s.preds f.q && !(f.tests && own.tested) then s.retire id
    else match own with
      | .stall => s.stall
      | r => ends r := by
  have hi : (s.cell s.focus.1).issue (.stream .s) = s.here.s.iss := rfl
  have hrun : s.sIssue i f body = s.runEntry s.focus.1 (.stream .s) i f none (body s.focus.1 (.stream .s)) := by
    simp [State.sIssue, h.agent, hi, Issue.blocked, Issue.acquires, h.unfinished, h.replay, h.wait]
  have hw : (s.whoOf s.focus.1 (.stream .s)).super = s.here.s.super := rfl
  have hentry : newEntry (s.cell s.focus.1) (.stream .s) i f ((s.cell s.focus.1).issue (.stream .s)).pc s.cycle = s.entry i f := rfl
  have hentered : s.issued s.focus.1 (.stream .s) (s.entry i f) false = s.entered i f := rfl
  have hword : (s.entry i f).word = wordOf i := rfl
  rw [hrun]
  simp only [State.runEntry, issue_room h, hw, hentry, hentered, hword, State.regUncorr, h.sound, Option.isSome_none, Option.isNone_none]
  cases i.wellFormed with
  | false => simp
  | true =>
    cases f.super && !s.here.s.super with
    | true => simp
    | false =>
      simp only [ne_eq, not_true_eq_false, decide_false, Bool.not_true, Bool.not_false, Bool.false_and, Bool.true_and, Bool.and_true, Bool.or_false,
        List.isEmpty_nil, Bool.false_eq_true, if_false]
      rfl

/-- An ill-formed instruction ends in ILLEGAL, whatever its predicate (R110). -/
theorem sIssue_illFormed (wf : i.wellFormed = false) :
    s.sIssue i f body = (s.entered i f).conclude s.focus.1 (.stream .s) (.trap ⟨cILLEGAL, wordInfo (wordOf i) 0⟩ (s.entry i f)) := by
  simp [sIssue_new h, wf]

/-- A well-formed privileged instruction ends in PRIV in USER mode, whatever its predicate (R110, R122). -/
theorem sIssue_privileged (wf : i.wellFormed = true) (hs : f.super = true) (hu : s.here.s.super = false) :
    s.sIssue i f body = (s.entered i f).conclude s.focus.1 (.stream .s) (.trap ⟨cPRIV, wordInfo (wordOf i) 0⟩ (s.entry i f)) := by
  simp [sIssue_new h, wf, hs, hu]

/-- A well-formed instruction whose predicate is 0 only passes, when its own operation makes no tests (R112). -/
theorem sIssue_predicatedOff (wf : i.wellFormed = true) (hs : f.super = false) (ht : f.tests = false)
    (hp : predHolds s.here.s.preds f.q = false) : s.sIssue i f body = s.retire id := by
  simp [sIssue_new h, wf, hs, ht, hp]

/-- An ILLEGAL that an instruction's own operation tests for is raised, whatever its predicate (R112). -/
theorem sIssue_tested {n : DWord} (wf : i.wellFormed = true) (p : f.super = true → s.here.s.super = true) (ht : f.tests = true)
    (hb : body s.focus.1 (.stream .s) (s.entry i f) (s.entered i f) = .trap ⟨cILLEGAL, n⟩ (s.entry i f)) :
    s.sIssue i f body = (s.entered i f).conclude s.focus.1 (.stream .s) (.trap ⟨cILLEGAL, n⟩ (s.entry i f)) := by
  have hpriv : (f.super && !s.here.s.super) = false := by
    cases hs : f.super with
    | false => rfl
    | true => simp [p hs]
  simp [sIssue_new h, wf, hpriv, ht, hb, Fin.tested]

/-- A trap in which the only entry of S ends, no memory instruction and no branch, is taken; it is neither NOTPRESENT nor SELF (R142, R304).
`traps_of_trap` says so of an operation that runs; here the entry may end before its operation. -/
theorem traps_of_concludes {t : TrapInfo} (hx : exec i s = .next ((s.entered i f).conclude s.focus.1 (.stream .s) (.trap t (s.entry i f))))
    (hm : memInstr i = false) (hb : isBranch i = false) (hn : t.cause ≠ cNOTPRESENT) (hs : t.cause ≠ cSELF)
    (hi : s.here.trap.inTrap = false) (hv : vectorOk s.here.trap.tvec = true) : Traps s i t 0 (s.here.s.iss.pc + 4) 1 := by
  let y : Cell := s.here.passed.withEntries [{ s.entry i f with trap := some t }] none
  have hcell : (s.setCell s.focus.1 y).cell s.focus.1 = y := cell_setCell _ _ _ h.cell
  have hmark : ((s.entered i f).modIssue s.focus.1 (.stream .s) fun j => { (j.setLast { s.entry i f with trap := some t }) with wait := none }) =
      s.setCell s.focus.1 y := by
    rw [State.modIssue, State.modCell, entered_here h, entered_eq h, setCell_setCell]
    rfl
  have htake := trapTake_only (u := { s.entry i f with trap := some t }) (by rw [hcell]; rfl) rfl hn hs hb
    (by rw [hcell]; exact hi) (by rw [hcell]; exact hv)
  have hr : y.s.iss.replay = [] := h.replay
  have hmem : memInstr (s.entry i f).instr = false := hm
  refine ⟨_, hx, ?_⟩
  simp only [State.conclude, State.concludeTrap, hmem, Bool.false_eq_true, if_false]
  rw [hmark, htake, hcell, setCell_setCell, State.here, setCell_focus, cell_setCell _ _ _ h.cell, hr]
  exact ⟨rfl, rfl, rfl, rfl, rfl, rfl, rfl, rfl, rfl, rfl, rfl, rfl, rfl, rfl⟩

end

/-! ### The zero register, and predicates that are 0 -/

theorem s0ReadsZero : Claims.S0ReadsZero := fun x v _ =>
  ⟨reg_zero x _, setReg_zero x _ v, by rw [setReg_zero]⟩

section
variable (s : State) (i : Instr) (q : BitVec 4) (d a b : BitVec 5) (m : BitVec 11) (val : DWord → DWord → DWord)

theorem aluReg_eq : s.aluReg i q d a b val =
    s.sIssue i { q := q, a := a, b := b, dest := d } fun c ag u t => .done (t.setReg c ag d (val u.opa u.opb)) none := rfl

theorem aluImm_eq : s.aluImm i q d a m val =
    s.sIssue i { q := q, a := a, imm := some (imm11 m), dest := d } fun c ag u t => .done (t.setReg c ag d (val u.opa u.opb)) none := rfl

end

theorem predicatedOff : Claims.PredicatedOff := by
  intro s q i h _ hp hi wf
  have pass {f : Form} {body : Nat → Agent → Unfinished → State → Fin} (hx : exec i s = .next (s.sIssue i f body)) (hf : f.q = q)
      (hs : f.super = false) (ht : f.tests = false) : exec i s = .next (s.retire id) := by
    rw [hx, sIssue_predicatedOff h wf hs ht (hf ▸ hp)]
  rcases hi with ⟨d, a, b, rfl⟩ | ⟨d, a, rfl⟩ | ⟨z, d, a, o, rfl⟩ | ⟨z, d, a, o, rfl⟩ | ⟨k, c, rfl⟩ | ⟨e, rfl⟩ | rfl
  case inl => exact pass (congrArg Host.Outcome.next (aluReg_eq ..)) rfl rfl rfl
  case inr.inl => exact pass (congrArg Host.Outcome.next (aluImm_eq ..)) rfl rfl rfl
  all_goals exact pass rfl rfl rfl rfl

/-- Settles O3: `s0` by the laws of `reg` and `setReg`; a predicate that is 0 is tested before the operation (`sIssue_predicatedOff`). -/
theorem zeroRegisterAndPredicates : Obligations.ZeroRegisterAndPredicates := ⟨s0ReadsZero, predicatedOff⟩

/-! ### Forms that S must not execute -/

section
variable {s : State} {r : BitVec 4} {i : Instr} {f : Form} {body : Nat → Agent → Unfinished → State → Fin} (h : AtS s r)
  (hi : s.here.trap.inTrap = false) (hv : vectorOk s.here.trap.tvec = true)
include h hi hv

/-- Any form that needs SUPER raises PRIV in USER mode. -/
theorem privileged_traps (hx : exec i s = .next (s.sIssue i f body)) (wf : i.wellFormed = true) (hs : f.super = true)
    (hu : s.here.s.super = false) (hm : memInstr i = false) (hb : isBranch i = false) :
    Traps s i ⟨0x02, BitVec.ofNat 64 (wordOf i).toNat⟩ 0 (s.here.s.iss.pc + 4) 1 :=
  traps_of_concludes h (hx.trans (congrArg _ (sIssue_privileged h wf hs hu))) hm hb
    (show (0x02 : BitVec 8) ≠ 0x08 by decide) (show (0x02 : BitVec 8) ≠ 0x38 by decide) hi hv

/-- Any ill-formed instruction raises ILLEGAL. -/
theorem illFormed_traps (hx : exec i s = .next (s.sIssue i f body)) (wf : i.wellFormed = false) (hm : memInstr i = false)
    (hb : isBranch i = false) : Traps s i ⟨0x01, BitVec.ofNat 64 (wordOf i).toNat⟩ 0 (s.here.s.iss.pc + 4) 1 :=
  traps_of_concludes h (hx.trans (congrArg _ (sIssue_illFormed h wf))) hm hb
    (show (0x01 : BitVec 8) ≠ 0x08 by decide) (show (0x01 : BitVec 8) ≠ 0x38 by decide) hi hv

/-- Any instruction whose own operation tests for ILLEGAL raises it, whatever its predicate. -/
theorem tested_traps (hx : exec i s = .next (s.sIssue i f body)) (wf : i.wellFormed = true) (p : f.super = true → s.here.s.super = true)
    (ht : f.tests = true) (hm : memInstr i = false) (hb : isBranch i = false)
    (hd : body s.focus.1 (.stream .s) (s.entry i f) (s.entered i f) = .trap ⟨cILLEGAL, wordInfo (wordOf i) 0⟩ (s.entry i f)) :
    Traps s i ⟨0x01, BitVec.ofNat 64 (wordOf i).toNat⟩ 0 (s.here.s.iss.pc + 4) 1 :=
  traps_of_concludes h (hx.trans (congrArg _ (sIssue_tested h wf p ht hd))) hm hb
    (show (0x01 : BitVec 8) ≠ 0x08 by decide) (show (0x01 : BitVec 8) ≠ 0x38 by decide) hi hv

end

/-- The shutter that `SHUT` sees is the tile's own: its entry neither passes nor claims (R167). -/
theorem shutTraps : Claims.ShutTraps := by
  intro s q tile code h wf hi hv h0 h5
  refine traps_of_trap (f := { q := q }) h rfl wf (fun hf => nomatch hf) rfl rfl (show (0x10 : BitVec 8) ≠ 0x08 by decide)
    (show (0x10 : BitVec 8) ≠ 0x38 by decide) hi hv ?body rfl
  have he : (s.here.enter (s.entry (.shut q tile code) { q := q })).effShutter (.stream .s) tile.toNat = s.here.shutter tile.toNat := rfl
  have hclaim : ¬(s.here.shutter tile.toNat = codeFree ∧ code = agentCode (.stream .s)) := fun ⟨hf, hc⟩ => h5.elim (· hf) (· hc)
  have hpass : ¬s.here.shutter tile.toNat = agentCode (.stream .s) := h0
  simp only [entered_here h, he, hpass, hclaim, if_false]
  rfl

theorem privilegeTraps : Claims.PrivilegeTraps := by
  intro s q a d n i h hu hi hv wf hform
  rcases hform with rfl | rfl | rfl | rfl | rfl | rfl | ⟨k, sc, rfl⟩ | ⟨k, m, c, rfl⟩ | ⟨l, st, cp, t, rfl⟩
  all_goals exact privileged_traps h hi hv rfl wf rfl hu rfl rfl

theorem illegalTraps : Claims.IllegalTraps := by
  intro s q d a b f i h hi hv hform hf
  have wf : (ck (qpOk q) .predicate <|> ck (f ≤ 5) .function).isNone = false :=
    Bool.eq_false_iff.mpr fun hc => BitVec.not_le.mpr hf (isNone_ck_ck.mp hc).2
  rcases hform with rfl | rfl
  all_goals exact illFormed_traps h hi hv (congrArg Host.Outcome.next (aluReg_eq ..)) wf rfl rfl

theorem predicatedTraps : Claims.PredicatedTraps := by
  intro s q a m i h wf _ hi hv hform
  rcases hform with ⟨rfl, hs⟩ | ⟨rfl, st, hm, hstart, hend⟩
  case inl =>
    refine tested_traps h hi hv rfl wf (fun _ => hs) rfl rfl rfl ?_
    have ht : (s.here.enter (s.entry (.tret q) { q := q, alone := true, super := true, wicket := false, tests := true })).trap.inTrap = false := hi
    simp only [entered_here h, ht, Bool.not_false, if_true]
    rfl
  case inr =>
    refine tested_traps h hi hv rfl wf (fun hf => nomatch hf) rfl rfl rfl ?_
    have hany : (selected m).any (fun st => (s.here.engine st).started && !(s.here.engine st).ended) = true :=
      List.any_eq_true.mpr ⟨st, hm, by simp [hstart, hend]⟩
    simp only [entered_here h, engine_enter, hany, if_true]
    rfl

/-- Settles O11: each trap that the tests before the operation or the operation itself decides is taken (`traps_of_concludes`,
`traps_of_trap`). -/
theorem formTraps : Obligations.FormTraps := ⟨shutTraps, privilegeTraps, illegalTraps, predicatedTraps⟩

end Sys2Proof.Machine

/-! The system registers, read by `RDSYS` and written by `WRSYS` (O10). -/

namespace Sys2Proof.Machine

/-! ### Reading -/

theorem mul_bit (n : Nat) (b : Bool) : n * bit b = if b then n else 0 := by
  cases b <;> simp [bit]

/-- The energy count with the whole units of the sub-accumulator, and its saturation (R122, R316). -/
theorem sysRead_energy (s : State) (c : Nat) (ag : Agent) :
    let r := (s.cell c).res
    let energy := r.energy.toNat + r.ea / 2 ^ (r.escale.toNat + 8)
    s.sysRead c ag 8 = BitVec.ofNat 64 (min (2 ^ 48 - 1) energy + if r.esat ∨ 2 ^ 48 ≤ energy then 2 ^ 63 else 0) := by
  intro r energy
  have hlt : min (2 ^ 48 - 1) energy < 2 ^ 48 := Nat.lt_of_le_of_lt (Nat.min_le_left ..) (by decide)
  have henergy : r.convert.energy.toNat = min (2 ^ 48 - 1) energy := (BitVec.toNat_ofNat ..).trans (Nat.mod_eq_of_lt hlt)
  have hsat : r.convert.esat = true ↔ r.esat = true ∨ 2 ^ 48 ≤ energy :=
    (Bool.or_eq_true_iff ..).trans (or_congr_right decide_eq_true_iff)
  show BitVec.ofNat 64 (r.convert.energy.toNat + 2 ^ 63 * bit r.convert.esat) = _
  rw [henergy, mul_bit]
  simp only [hsat]

section
variable {s : State} {q : BitVec 4} (h : AtS s q)
include h

/-- The entry itself shows in no system register. -/
theorem sysRead_entered (i : Instr) (f : Form) (n : Nat) :
    (s.entered i f).sysRead s.focus.1 (.stream .s) n = s.sysRead s.focus.1 (.stream .s) n := by
  have hl : (s.entered i f).link = s.link := rfl
  simp only [State.sysRead, State.whoOf, State.time, entered_here h, hl]
  rfl

variable (hq : qpOk q = true)
include hq

/-- `RDSYS` of a register other than `TIME` (R170). -/
theorem rdsys_writes (d : BitVec 5) {n : BitVec 11} (hn : sysRegListed n = true) (ht : n ≠ 0x10) (hp : n = 4 → s.here.s.super = true) :
    Writes s (.rdsys q d n) d (s.sysRead s.focus.1 (.stream .s) n.toNat) := by
  refine congrArg Host.Outcome.next (retires_of_done h rfl (isNone_ck_ck.mpr ⟨hq, hn⟩) (by simpa using hp) (keepsEntries_setReg _ _ _) ?_)
  simp only [sysRead_entered h, ht, if_false]
  rw [setReg_sound (by exact h.sound)]

/-- `RDSYS` of `TIME` latches the fraction (R123, R170). -/
theorem rdsys_time_retires (d : BitVec 5) :
    Retires s (.rdsys q d 16) fun k =>
      ({ k with s := { k.s with timef := s.link.time.extractLsb' 0 32 } } : Cell).setReg (.stream .s) d.toNat (s.link.time.extractLsb' 32 64) := by
  refine congrArg Host.Outcome.next (retires_of_done h rfl (isNone_ck_ck.mpr ⟨hq, rfl⟩) (fun hf => nomatch hf)
    (KeepsEntries.comp (k := fun k => { k with s := { k.s with timef := s.link.time.extractLsb' 0 32 } }) (keepsEntries_setReg _ _ _)
      fun _ _ _ => rfl) ?_)
  simp only [sysRead_entered h, if_true]
  rw [setReg_sound (by exact h.sound), modCell_modCell _ _ _ _ (by rw [entered_eq h, setCell_length]; exact h.cell)]
  rfl

end

theorem rdsysReads : Claims.RdsysReads := by
  intro s q d h hq x rd
  have reads : ∀ (n : BitVec 11) (v : DWord), sysRegListed n = true → n ≠ 0x10 ∧ n ≠ 4 → s.sysRead s.focus.1 (.stream .s) n.toNat = v → rd n v :=
    fun _ _ hn ⟨hTime, hTvec⟩ hv => hv ▸ rdsys_writes h hq d hn hTime fun h4 => absurd h4 hTvec
  have row : s.sysRead s.focus.1 (.stream .s) 24 = BitVec.ofNat 64 (x.m.rowNext.toNat + if x.m.rowValid then 2 ^ 30 else 0) :=
    congrArg (fun k => BitVec.ofNat 64 (x.m.rowNext.toNat + k)) (mul_bit ..)
  exact ⟨reads 0 _ rfl (by decide) rfl, reads 1 _ rfl (by decide) rfl, reads 2 _ rfl (by decide) rfl, reads 3 _ rfl (by decide) rfl,
    fun hs => rdsys_writes h hq d rfl (by decide) fun _ => hs, reads 8 _ rfl (by decide) (sysRead_energy ..), reads 9 _ rfl (by decide) rfl,
    reads 12 _ rfl (by decide) rfl, reads 17 _ rfl (by decide) rfl, reads 18 _ rfl (by decide) rfl, reads 24 _ rfl (by decide) row,
    reads 25 _ rfl (by decide) rfl, rdsys_time_retires h hq d⟩

/-! ### Writing -/

theorem field_low {m : Nat} (v : BitVec m) (n : Nat) : field v 0 n = v.setWidth n :=
  BitVec.eq_of_toNat_eq (by simp [field])

theorem writePhase_eq (g : Engine) (p : BitVec 4) :
    g.writePhase p = { g with phase := if g.nextStep = 0 ∧ g.inprog = [] then p else g.phase
                              phaseNext := if g.nextStep = 0 ∧ g.inprog = [] then none else some p } := by
  by_cases hg : g.nextStep = 0 ∧ g.inprog = [] <;> simp [Engine.writePhase, hg]

section
variable {s : State} {q : BitVec 4} (h : AtS s q)
include h

theorem weirTask_entered (i : Instr) (f : Form) : (s.entered i f).weirTask s.focus.1 = s.weirTask s.focus.1 := by
  simp only [State.weirTask, entered_eq h, res_task_setCell (Cell.enter_sameWaits ..)]
  rfl

variable (hq : qpOk q = true) (hs : s.here.s.super = true)
include hq hs

/-- `WRSYS` in SUPER mode does to the cell what the write does (R171). -/
theorem wrsys_retires (a : BitVec 5) {n : BitVec 11} {g : Cell → Cell} (hn : sysRegListed n = true) (hk : KeepsEntries g)
    (hg : ∀ t : State, t.weirTask s.focus.1 = s.weirTask s.focus.1 → t.sysWrite s.focus.1 n.toNat (s.sreg a) = t.modCell s.focus.1 g) :
    Retires s (.wrsys q a n) g :=
  congrArg Host.Outcome.next (retires_of_done h rfl (isNone_ck_ck.mpr ⟨hq, hn⟩) (fun _ => hs) hk
    (congrArg (Fin.done · none) (hg _ (weirTask_entered h ..))))

end

theorem wrsysWrites : Claims.WrsysWrites := by
  intro s q a h hq hs v wr
  have ignores : ∀ n : BitVec 11, sysRegListed n = true → (∀ t : State, t.sysWrite s.focus.1 n.toNat v = t.modCell s.focus.1 id) → wr n id :=
    fun n hn hg => wrsys_retires h hq hs a hn (fun _ _ _ => rfl) fun t _ => hg t
  refine ⟨?cause, ?epos, ?tvec, ?energy, ?escale, ?phases, fun hw => ?prio, fun hw => ?prioWeir, ignores 0 rfl fun _ => rfl,
    ignores 12 rfl fun _ => rfl, ignores 16 rfl fun _ => rfl, ignores 17 rfl fun _ => rfl, ignores 18 rfl fun _ => rfl,
    ignores 24 rfl fun _ => rfl⟩
  case cause => exact wrsys_retires h hq hs a rfl (fun _ _ _ => rfl) fun t _ => by rw [← field_low]; rfl
  case epos => exact wrsys_retires h hq hs a rfl (fun _ _ _ => rfl) fun t _ => rfl
  case tvec => exact wrsys_retires h hq hs a rfl (fun _ _ _ => rfl) fun t _ => rfl
  case energy => exact wrsys_retires h hq hs a rfl (fun _ _ _ => rfl) fun t _ => by rw [← field_low]; rfl
  case escale => exact wrsys_retires h hq hs a rfl (fun _ _ _ => rfl) fun t _ => by rw [← field_low]; rfl
  case phases =>
    refine wrsys_retires h hq hs a rfl (fun _ _ _ => rfl) fun t _ => ?_
    simp only [← writePhase_eq]
    rfl
  case prio =>
    refine wrsys_retires h hq hs a rfl (fun _ _ _ => rfl) fun t ht => ?_
    have hb : bitsAt v.toNat 0 6 = v.toNat % 64 := congrArg (· % 64) (Nat.div_one v.toNat)
    simp only [← field_low, ← hb]
    exact congrArg (t.modCell s.focus.1) (funext fun k => if_neg (by simp [ht, hw]))
  case prioWeir =>
    exact wrsys_retires h hq hs a rfl (fun _ _ _ => rfl) fun t ht =>
      congrArg (t.modCell s.focus.1) (funext fun k => if_pos (ht.trans hw))

/-- Settles O10: a read gives what the register holds (`rdsys_writes`), a write changes the cell as `State.sysWrite` does. -/
theorem systemRegisters : Obligations.SystemRegisters := ⟨rdsysReads, wrsysWrites⟩

end Sys2Proof.Machine

/-! The integer instructions of S: the values of R145 to R147 (O1). -/

namespace Sys2Proof.Machine

/-! ### An instruction that writes the value of its operands -/

section
variable {s : State} {q : BitVec 4} {i : Instr} {d a b : BitVec 5} {k : BitVec 11} {val : DWord → DWord → DWord} {v : DWord}
  (h : AtS s q) (wf : i.wellFormed = true)
include h wf

/-- An instruction that only writes a register writes the value of its entry (R140). -/
theorem sWrite_writes {f : Form} {val : Unfinished → DWord} (hx : exec i s = .next (s.sWrite i f val)) (hq : f.q = q) (hd : f.dest = d)
    (hs : f.super = false) (hv : val (s.entry i f) = v) : Writes s i d v := by
  subst hd
  exact hx.trans (congrArg _ ((sWrite_atS (hq ▸ h) wf (by simp [hs])).trans (congrArg _ hv)))

/-- An instruction in the S-REG form writes the value of its two registers (R145). -/
theorem aluReg_writes (hx : exec i s = .next (s.aluReg i q d a b val))
    (hv : val (s.sreg a) (s.sreg b) = v) : Writes s i d v :=
  sWrite_writes h wf hx rfl rfl rfl hv

/-- An instruction in the S-IMM form writes the value of its register and its extended immediate (R145). -/
theorem aluImm_writes (hx : exec i s = .next (s.aluImm i q d a k val))
    (hv : val (s.sreg a) (k.signExtend 64) = v) : Writes s i d v :=
  sWrite_writes h wf hx rfl rfl rfl hv

end

/-- The check of a form with a predicate. -/
theorem predicate_ok {q : BitVec 4} (hq : qpOk q = true) : (ck (qpOk q) .predicate).isNone = true := isNone_ck.mpr hq

/-- The check of a form with a predicate and a function. -/
theorem predicate_function_ok {q : BitVec 4} {p : Prop} [Decidable p] (hq : qpOk q = true) (hp : p) :
    (ck (qpOk q) .predicate <|> ck p .function).isNone = true := isNone_ck_ck.mpr ⟨hq, hp⟩

/-! ### `ADD` and `SUB` -/

theorem ofInt_natAdd {w : Nat} (a b : BitVec w) : BitVec.ofInt w (a.toNat + 1 * b.toNat) = a + b := by
  rw [Int.one_mul, BitVec.ofInt_add, BitVec.ofInt_natCast, BitVec.ofInt_natCast, BitVec.ofNat_toNat, BitVec.ofNat_toNat,
    BitVec.setWidth_eq, BitVec.setWidth_eq]

theorem ofInt_natSub {w : Nat} (a b : BitVec w) : BitVec.ofInt w (a.toNat + -1 * b.toNat) = a - b := by
  rw [Int.neg_one_mul, BitVec.ofInt_add, BitVec.ofInt_neg, BitVec.ofInt_natCast, BitVec.ofInt_natCast, BitVec.ofNat_toNat,
    BitVec.ofNat_toNat, BitVec.setWidth_eq, BitVec.setWidth_eq, BitVec.sub_eq_add_neg]

theorem clampInt_eq_max_min {lo hi : Int} (h : lo ≤ hi) (x : Int) : clampInt lo hi x = max lo (min hi x) := by
  unfold clampInt
  omega

/-- The unsigned clamp is a minimum of natural numbers, where a negative value counts as 0. -/
theorem clampNat_eq (n : Nat) (x : Int) : clampNat n x = BitVec.ofNat 64 (min (2 ^ n - 1) x.toNat) := by
  have hpow : (0 : Int) < 2 ^ n := Int.pow_pos (by decide)
  have hcast : ((2 ^ n - 1 : Nat) : Int) = 2 ^ n - 1 := by
    rw [Int.natCast_sub Nat.one_le_two_pow, Int.natCast_pow]
    rfl
  rw [clampNat, clampInt_eq_max_min (by omega), ← BitVec.ofInt_natCast]
  congr 1
  omega

theorem clampNat_add {n a b : Nat} : clampNat n (a + 1 * b) = BitVec.ofNat 64 (min (2 ^ n - 1) (a + b)) := by
  rw [clampNat_eq, Int.one_mul]
  rfl

theorem clampNat_sub {n a b : Nat} (h : a < 2 ^ n) : clampNat n (a + -1 * b) = BitVec.ofNat 64 (a - b) := by
  rw [clampNat_eq, show ((a : Int) + -1 * b).toNat = a - b by omega, Nat.min_eq_right (by omega)]

/-- The functions of `ADD` in the order of their numbers (R146). -/
theorem addVal_add (a b : DWord) :
    addVal 1 0 a b = a + b ∧ addVal 1 1 a b = (lowW a + lowW b).signExtend 64 ∧
    addVal 1 2 a b = BitVec.ofInt 64 (max (-2 ^ 63) (min (2 ^ 63 - 1) (a.toInt + b.toInt))) ∧
    addVal 1 3 a b = BitVec.ofInt 64 (max (-2 ^ 31) (min (2 ^ 31 - 1) ((lowW a).toInt + (lowW b).toInt))) ∧
    addVal 1 4 a b = BitVec.ofNat 64 (min (2 ^ 64 - 1) (a.toNat + b.toNat)) ∧
    addVal 1 5 a b = BitVec.ofNat 64 (min (2 ^ 32 - 1) ((lowW a).toNat + (lowW b).toNat)) := by
  refine ⟨ofInt_natAdd a b, congrArg (BitVec.signExtend 64) (ofInt_natAdd (lowW a) (lowW b)), ?signed, ?signed32,
    clampNat_add, clampNat_add⟩
  case signed => rw [← Int.one_mul b.toInt, ← clampInt_eq_max_min (by decide)]; rfl
  case signed32 => rw [← Int.one_mul (lowW b).toInt, ← clampInt_eq_max_min (by decide)]; rfl

/-- The functions of `SUB` in the order of their numbers (R146). -/
theorem addVal_sub (a b : DWord) :
    addVal (-1) 0 a b = a - b ∧ addVal (-1) 1 a b = (lowW a - lowW b).signExtend 64 ∧
    addVal (-1) 2 a b = BitVec.ofInt 64 (max (-2 ^ 63) (min (2 ^ 63 - 1) (a.toInt - b.toInt))) ∧
    addVal (-1) 3 a b = BitVec.ofInt 64 (max (-2 ^ 31) (min (2 ^ 31 - 1) ((lowW a).toInt - (lowW b).toInt))) ∧
    addVal (-1) 4 a b = BitVec.ofNat 64 (a.toNat - b.toNat) ∧
    addVal (-1) 5 a b = BitVec.ofNat 64 ((lowW a).toNat - (lowW b).toNat) := by
  refine ⟨ofInt_natSub a b, congrArg (BitVec.signExtend 64) (ofInt_natSub (lowW a) (lowW b)), ?signed, ?signed32,
    clampNat_sub a.isLt, clampNat_sub (lowW a).isLt⟩
  case signed => rw [show a.toInt - b.toInt = a.toInt + -1 * b.toInt by omega, ← clampInt_eq_max_min (by decide)]; rfl
  case signed32 => rw [show (lowW a).toInt - (lowW b).toInt = (lowW a).toInt + -1 * (lowW b).toInt by omega, ← clampInt_eq_max_min (by decide)]; rfl

theorem addSubResults : Claims.AddSubResults := by
  intro s q d a b k h hq A B a32 b32
  have wf {f : BitVec 6} (hf : f ≤ 5) := predicate_function_ok hq hf
  have wfImm := predicate_ok hq
  obtain ⟨add0, add1, add2, add3, add4, add5⟩ := addVal_add A B
  obtain ⟨sub0, sub1, sub2, sub3, sub4, sub5⟩ := addVal_sub A B
  exact ⟨aluReg_writes h (wf (by decide)) rfl add0, aluReg_writes h (wf (by decide)) rfl sub0,
    aluReg_writes h (wf (by decide)) rfl add1, aluReg_writes h (wf (by decide)) rfl sub1,
    aluReg_writes h (wf (by decide)) rfl add2, aluReg_writes h (wf (by decide)) rfl sub2,
    aluReg_writes h (wf (by decide)) rfl add3, aluReg_writes h (wf (by decide)) rfl sub3,
    aluReg_writes h (wf (by decide)) rfl add4, aluReg_writes h (wf (by decide)) rfl sub4,
    aluReg_writes h (wf (by decide)) rfl add5, aluReg_writes h (wf (by decide)) rfl sub5,
    aluImm_writes h wfImm rfl (addVal_add A _).1, aluImm_writes h wfImm rfl (addVal_sub A _).1⟩

/-! ### `MUL` and `MULH` -/

/-- The upper half of a product of 128 bits is its quotient by 2^64. -/
theorem extractLsb'_ofInt_high (x : Int) : (BitVec.ofInt 128 x).extractLsb' 64 64 = BitVec.ofInt 64 (x / 2 ^ 64) := by
  apply BitVec.eq_of_toNat_eq
  simp only [BitVec.extractLsb'_toNat, BitVec.toNat_ofInt, Nat.shiftRight_eq_div_pow]
  omega

theorem setWidth_eq_ofInt {w : Nat} (v : Nat) (x : BitVec w) : x.setWidth v = BitVec.ofInt v x.toNat := by
  rw [BitVec.ofInt_natCast, BitVec.ofNat_toNat]

theorem mulhVal_signed (a b : DWord) : mulhVal 0 a b = (a.signExtend 128 * b.signExtend 128).extractLsb' 64 64 := by
  rw [BitVec.signExtend, BitVec.signExtend, ← BitVec.ofInt_mul, extractLsb'_ofInt_high]
  rfl

theorem mulhVal_unsigned (a b : DWord) : mulhVal 1 a b = (a.setWidth 128 * b.setWidth 128).extractLsb' 64 64 := by
  rw [setWidth_eq_ofInt, setWidth_eq_ofInt, ← BitVec.ofInt_mul, extractLsb'_ofInt_high]
  exact (BitVec.ofInt_natCast 64 (a.toNat * b.toNat / 2 ^ 64)).symm

theorem mulhVal_mixed (a b : DWord) : mulhVal 2 a b = (a.signExtend 128 * b.setWidth 128).extractLsb' 64 64 := by
  rw [BitVec.signExtend, setWidth_eq_ofInt, ← BitVec.ofInt_mul, extractLsb'_ofInt_high]
  rfl

theorem mulResults : Claims.MulResults := by
  intro s q d a b k h hq A B K
  have wfImm := predicate_ok hq
  have wf {f n : BitVec 6} (hf : f ≤ n) := predicate_function_ok hq hf
  exact ⟨aluReg_writes h (wf (by decide)) rfl rfl, aluReg_writes h (wf (by decide)) rfl rfl,
    aluReg_writes h (wf (by decide)) rfl (mulhVal_signed A B), aluReg_writes h (wf (by decide)) rfl (mulhVal_unsigned A B),
    aluReg_writes h (wf (by decide)) rfl (mulhVal_mixed A B), aluImm_writes h wfImm rfl rfl,
    aluImm_writes h wfImm rfl (mulhVal_signed A K)⟩

/-! ### `DIV` and `REM` -/

section
variable {w : Nat} (a b : BitVec w)

theorem ofInt_tdiv : BitVec.ofInt w (a.toInt.tdiv b.toInt) = a.sdiv b :=
  BitVec.eq_of_toInt_eq (by rw [BitVec.toInt_ofInt, BitVec.toInt_sdiv])

theorem ofInt_tmod : BitVec.ofInt w (a.toInt - b.toInt * a.toInt.tdiv b.toInt) = a.srem b := by
  rw [← Int.tmod_def, ← BitVec.toInt_srem, BitVec.ofInt_toInt]

theorem ofInt_natTdiv : BitVec.ofInt w ((a.toNat : Int).tdiv b.toNat) = a.udiv b := by
  rw [← Int.ofNat_tdiv, BitVec.ofInt_natCast]
  exact BitVec.eq_of_toNat_eq (Nat.mod_eq_of_lt (Nat.lt_of_le_of_lt (Nat.div_le_self ..) a.isLt))

theorem ofInt_natTmod : BitVec.ofInt w (a.toNat - b.toNat * (a.toNat : Int).tdiv b.toNat) = a.umod b := by
  rw [← Int.tmod_def, ← Int.ofNat_tmod, BitVec.ofInt_natCast]
  exact BitVec.eq_of_toNat_eq (Nat.mod_eq_of_lt (Nat.lt_of_le_of_lt (Nat.mod_le ..) a.isLt))

end

theorem divMod_zero (x : Int) : divMod x 0 = (-1, x) := rfl

theorem divMod_of_ne {x z : Int} (h : z ≠ 0) : divMod x z = (x.tdiv z, x - z * x.tdiv z) := if_neg h

section
variable {a b : DWord}

/-- The quotient and the remainder by a divisor that is not 0, signed and unsigned (R147). -/
theorem divVal_of_ne (h : b ≠ 0) : divVal false 0 a b = a.sdiv b ∧ divVal true 0 a b = a.srem b ∧
    divVal false 1 a b = a.udiv b ∧ divVal true 1 a b = a.umod b := by
  have hs := divMod_of_ne (x := a.toInt) (z := b.toInt) (by rwa [Ne, ← BitVec.toInt_zero, BitVec.toInt_inj])
  have hu := divMod_of_ne (x := a.toNat) (z := b.toNat) (by simpa [← BitVec.toNat_inj] using h)
  simp only [divVal, hs, hu, Bool.false_eq_true, if_false, if_true]
  exact ⟨ofInt_tdiv .., ofInt_tmod .., ofInt_natTdiv .., ofInt_natTmod ..⟩

/-- The same on the low words. -/
theorem divVal_of_low_ne (h : lowW b ≠ 0) :
    divVal false 2 a b = ((lowW a).sdiv (lowW b)).signExtend 64 ∧ divVal true 2 a b = ((lowW a).srem (lowW b)).signExtend 64 ∧
    divVal false 3 a b = ((lowW a).udiv (lowW b)).setWidth 64 ∧ divVal true 3 a b = ((lowW a).umod (lowW b)).setWidth 64 := by
  have hs := divMod_of_ne (x := (lowW a).toInt) (z := (lowW b).toInt) (by rwa [Ne, ← BitVec.toInt_zero, BitVec.toInt_inj])
  have hu := divMod_of_ne (x := (lowW a).toNat) (z := (lowW b).toNat) (by simpa [← BitVec.toNat_inj] using h)
  simp only [divVal, hs, hu, Bool.false_eq_true, if_false, if_true, ofInt_tdiv, ofInt_tmod, ofInt_natTdiv, ofInt_natTmod, and_self]

end

theorem divResults : Claims.DivResults := by
  intro s q d a b k h hq A B K a32 b32
  have wfImm := predicate_ok hq
  have wf {f : BitVec 6} (hf : f ≤ 3) := predicate_function_ok hq hf
  refine ⟨fun hB => ?wide, fun hb => ?low, fun hk => ?imm⟩
  case wide =>
    obtain ⟨sdiv, srem, udiv, umod⟩ := divVal_of_ne (a := A) hB
    exact ⟨aluReg_writes h (wf (by decide)) rfl sdiv, aluReg_writes h (wf (by decide)) rfl srem,
      aluReg_writes h (wf (by decide)) rfl udiv, aluReg_writes h (wf (by decide)) rfl umod⟩
  case low =>
    obtain ⟨sdiv, srem, udiv, umod⟩ := divVal_of_low_ne (a := A) (b := B) hb
    exact ⟨aluReg_writes h (wf (by decide)) rfl sdiv, aluReg_writes h (wf (by decide)) rfl srem,
      aluReg_writes h (wf (by decide)) rfl udiv, aluReg_writes h (wf (by decide)) rfl umod⟩
  case imm =>
    have hK : K ≠ 0 := fun hz => hk (BitVec.eq_of_toInt_eq (by
      rw [← BitVec.toInt_signExtend_of_le (show 11 ≤ 64 by decide)]
      exact congrArg BitVec.toInt hz))
    obtain ⟨sdiv, srem, -⟩ := divVal_of_ne (a := A) hK
    exact ⟨aluImm_writes h wfImm rfl sdiv, aluImm_writes h wfImm rfl srem⟩

theorem divVal_by_zero (a : DWord) :
    divVal false 0 a 0 = BitVec.allOnes 64 ∧ divVal false 1 a 0 = BitVec.allOnes 64 ∧ divVal false 2 a 0 = BitVec.allOnes 64 ∧
    divVal false 3 a 0 = 0xFFFFFFFF ∧ divVal true 0 a 0 = a ∧ divVal true 1 a 0 = a ∧
    divVal true 2 a 0 = (lowW a).signExtend 64 ∧ divVal true 3 a 0 = (lowW a).setWidth 64 := by
  refine ⟨rfl, rfl, rfl, rfl, BitVec.ofInt_toInt, ?unsigned, congrArg (BitVec.signExtend 64) BitVec.ofInt_toInt,
    congrArg (BitVec.setWidth 64) ?low⟩
  case unsigned => exact (BitVec.ofInt_natCast ..).trans (by simp)
  case low => exact (BitVec.ofInt_natCast ..).trans (by simp)

theorem divByZero : Claims.DivByZero := by
  intro s q d a b h hq hb A a32
  have wfImm := predicate_ok hq
  have wf {f : BitVec 6} (hf : f ≤ 3) := predicate_function_ok hq hf
  have reg {i : Instr} {rem : Bool} {n : Nat} {v : DWord} (wf : i.wellFormed = true)
      (hx : exec i s = .next (s.aluReg i q d a b (divVal rem n))) (hv : divVal rem n A 0 = v) : Writes s i d v :=
    aluReg_writes h wf hx ((congrArg _ hb).trans hv)
  obtain ⟨div0, div1, div2, div3, rem0, rem1, rem2, rem3⟩ := divVal_by_zero A
  exact ⟨reg (wf (by decide)) rfl div0, reg (wf (by decide)) rfl div1, reg (wf (by decide)) rfl div2, reg (wf (by decide)) rfl div3,
    reg (wf (by decide)) rfl rem0, reg (wf (by decide)) rfl rem1, reg (wf (by decide)) rfl rem2, reg (wf (by decide)) rfl rem3,
    aluImm_writes h wfImm rfl div0, aluImm_writes h wfImm rfl rem0⟩

/-- Settles O1: each form writes the value of its operands (`aluReg_writes`, `aluImm_writes`), and the model's value of each function is
the rule's. -/
theorem integerArithmetic : Obligations.IntegerArithmetic := ⟨addSubResults, mulResults, divResults, divByZero⟩

end Sys2Proof.Machine

/-! `TRAP_TAKE` and `ENGINE_TRAP_TAKE` (O37). -/

namespace Sys2Proof.Machine

/-- The only pending trap is next, as it is an engine's (R307). -/
theorem nextPending_single {t : TrapUnit} {p : PendingTrap} (hp : t.pending = [p]) (hs : p.stream ≠ .s) : t.nextPending = some p := by
  unfold TrapUnit.nextPending
  rw [hp]
  cases h : p.stream with
  | s => exact absurd h hs
  | v => simp [engines, h]
  | m => simp [engines, h]
  | c => simp [engines, h]

section
variable {s : State} {c : Nat} (hr : s.mayRun c (.stream .s) = true) (hi : (s.cell c).trap.inTrap = false)
  (hv : vectorOk (s.cell c).trap.tvec = true)
include hr hi hv

/-- `TRAP_TAKE` of the only unfinished instruction, no branch, enters the handler with its entry in the frame (R142, R304). -/
theorem exec_trapTake_only {w : Unfinished} {t : TrapInfo} (hu : (s.cell c).s.iss.unfinished = [w]) (hp : (s.cell c).s.iss.replay = [])
    (ht : w.trap = some t) (hn : t.cause ≠ cNOTPRESENT) (hs : t.cause ≠ cSELF) (hb : isBranch w.instr = false) :
    exec (.trapTake c (.stream .s)) s =
      .next (s.setCell c ((s.cell c).trapped t 0 (eposOf .s w.pc 0 false) (s.cell c).s.iss.pc [w])) := by
  have htake := trapTake_only hu ht hn hs hb hi hv
  rw [hp] at htake
  show execTrapTake c (.stream .s) s = _
  simp only [execTrapTake, hr, if_true, htake]
  rfl

/-- `ENGINE_TRAP_TAKE` of the only pending trap, with nothing unfinished in S, enters the handler with `TF_CE` 15: the frame holds no entry
but those still to replay (R307). -/
theorem exec_engineTrapTake_only (hc : c < s.cells.length) {p : PendingTrap} (hp : (s.cell c).trap.pending = [p]) (hs : p.stream ≠ .s)
    (hu : (s.cell c).s.iss.unfinished = []) :
    let x := { s.cell c with trap := { (s.cell c).trap with pending := [] } }
    exec (.engineTrapTake c) s = .next (s.setCell c (x.trapped p.trap 15 p.pos (s.cell c).s.iss.pc (s.cell c).s.iss.replay)) := by
  intro x
  have herase : (s.modCell c fun x => { x with trap := { x.trap with pending := x.trap.pending.erase p } }) = s.setCell c x := by
    simp only [State.modCell, hp, List.erase_cons_head]
    rfl
  have hx : (s.setCell c x).cell c = x := cell_setCell s c x hc
  have hfree : ((s.cell c).trap.inTrap || !s.mayRun c (.stream .s) || (s.cell c).s.iss.mustTrap || (s.cell c).s.iss.blocked ||
      (s.cell c).s.iss.unfinished.any (·.sent)) = false := by
    simp [hi, hr, Issue.mustTrap, Issue.blocked, hu]
  show execEngineTrapTake c s = _
  simp only [execEngineTrapTake, nextPending_single hp hs, hfree, Bool.false_eq_true, if_false]
  rw [herase, State.asyncTrap, hx, enterTrap_eq (by rw [hx]; exact hi) (by rw [hx]; exact hv), hx, setCell_setCell]
  show Host.Outcome.next (s.setCell c (x.trapped _ _ _ _ ((s.cell c).s.iss.unfinished ++ _))) = _
  rw [hu]
  rfl

end

/-- Settles O37: both events take the trap as R304 says (`exec_trapTake_only`, `exec_engineTrapTake_only`). -/
theorem trapsTaken : Obligations.TrapsTaken := by
  intro s c hc hr x hi hv
  refine ⟨fun w t hu hp ht hn hs hb => ?scalar, fun p hp hs hu => ?engine⟩
  case scalar =>
    refine ⟨_, exec_trapTake_only hr hi hv hu hp ht hn hs hb, ?_⟩
    rw [cell_setCell s c _ hc]
    exact ⟨rfl, rfl, rfl, rfl, rfl, rfl, rfl, rfl, rfl, rfl, rfl, rfl, rfl⟩
  case engine =>
    refine ⟨_, exec_engineTrapTake_only hr hi hv hc hp hs hu, ?_⟩
    rw [cell_setCell s c _ hc]
    exact ⟨rfl, rfl, rfl, rfl, rfl, rfl, rfl, rfl, rfl, rfl, rfl, rfl⟩

end Sys2Proof.Machine

/-! The bit operations, shifts, compares, selection and constants of S (O2). -/

namespace Sys2Proof.Machine

/-! ### Bit operations and shifts -/

theorem bitsAt_zero (x n : Nat) : bitsAt x 0 n = x % 2 ^ n := congrArg (· % 2 ^ n) (Nat.div_one x)

/-- The shifts of a register by a count modulo 64 (R148). -/
theorem shiftVal_wide (a b : DWord) :
    shlVal 0 a b = a <<< (b.toNat % 64) ∧ shrVal 0 a b = a >>> (b.toNat % 64) ∧ sraVal 0 a b = a.sshiftRight (b.toNat % 64) := by
  simp [shlVal, shrVal, sraVal, bitsAt_zero]

/-- The shifts of a low word by a count modulo 32 (R148). -/
theorem shiftVal_low (a b : DWord) :
    shlVal 1 a b = (lowW a <<< (b.toNat % 32)).signExtend 64 ∧ shrVal 1 a b = (lowW a >>> (b.toNat % 32)).setWidth 64 ∧
    sraVal 1 a b = ((lowW a).sshiftRight (b.toNat % 32)).signExtend 64 := by
  simp [shlVal, shrVal, sraVal, bitsAt_zero]

theorem logicShiftResults : Claims.LogicShiftResults := by
  intro s q d a b k h hq A B K a32 n n32 m
  have wf {f g : BitVec 6} (hf : f = g) := predicate_function_ok hq hf
  have wfShift {f : BitVec 6} (hf : f ≤ 1) := predicate_function_ok hq hf
  have wfImm := predicate_ok hq
  obtain ⟨shl, shr, sra⟩ := shiftVal_wide A B
  obtain ⟨shl32, shr32, sra32⟩ := shiftVal_low A B
  obtain ⟨shlImm, shrImm, sraImm⟩ := shiftVal_wide A K
  exact ⟨aluReg_writes h (wf rfl) rfl rfl, aluReg_writes h (wf rfl) rfl rfl, aluReg_writes h (wf rfl) rfl rfl,
    aluImm_writes h wfImm rfl rfl, aluImm_writes h wfImm rfl rfl, aluImm_writes h wfImm rfl rfl,
    aluReg_writes h (wfShift (by decide)) rfl shl, aluReg_writes h (wfShift (by decide)) rfl shr,
    aluReg_writes h (wfShift (by decide)) rfl sra, aluReg_writes h (wfShift (by decide)) rfl shl32,
    aluReg_writes h (wfShift (by decide)) rfl shr32, aluReg_writes h (wfShift (by decide)) rfl sra32,
    aluImm_writes h wfImm rfl shlImm, aluImm_writes h wfImm rfl shrImm, aluImm_writes h wfImm rfl sraImm⟩

/-! ### `SETC`, `SEL` and `LIMM` -/

theorem setcCond_iff {w : Nat} (c : Nat) (a b : BitVec w) : setcCond c a b = true ↔ Claims.setcHolds c a b := by
  unfold setcCond Claims.setcHolds
  split <;> simp [BitVec.slt, BitVec.ult]

/-- `SETC`'s result is its condition on the operands, or on their low words (R149). -/
theorem setcResult_iff (f : BitVec 6) (a b : DWord) :
    setcResult f a b = true ↔ if f.getLsbD 4 then Claims.setcHolds (f.toNat % 8) (lowW a) (lowW b) else Claims.setcHolds (f.toNat % 8) a b := by
  have hc : bitsAt f.toNat 0 3 = f.toNat % 8 := bitsAt_zero ..
  simp only [setcResult, hc]
  split
  · exact setcCond_iff ..
  · exact setcCond_iff ..

/-- With `P` = 1, `sd` names one of the eight predicates (R149). -/
theorem setcOk_pred {d : BitVec 5} {f : BitVec 6} (hf : setcOk d f = true) (hp : f.getLsbD 5 = true) : bitsAt d.toNat 0 3 = d.toNat := by
  have hd : d.extractLsb' 3 2 = 0 := by
    refine ((Bool.or_eq_true ..).mp ((Bool.and_eq_true ..).mp hf).2).elim (fun h5 => ?_) of_decide_eq_true
    have := congrArg (BitVec.getLsbD · 0) (of_decide_eq_true h5)
    simp only [BitVec.getLsbD_extractLsb', Nat.add_zero, hp] at this
    cases this
  have : d.toNat / 2 ^ 3 % 2 ^ 2 = 0 := by
    rw [← Nat.shiftRight_eq_div_pow, ← BitVec.extractLsb'_toNat, hd]
    rfl
  rw [bitsAt_zero]
  omega

section
variable {s : State} {q : BitVec 4} {d a b : BitVec 5} {f : BitVec 6} (h : AtS s q) (hq : qpOk q = true) (hf : setcOk d f = true)
include h hq hf

/-- `SETC` into a register (R149). -/
theorem setc_writes (hp : f.getLsbD 5 = false) :
    Writes s (.setc q d a b f) d (BitVec.ofNat 64 (bit (setcResult f (s.sreg a) (s.sreg b)))) := by
  refine congrArg Host.Outcome.next (retires_of_done h rfl (predicate_function_ok hq hf) nofun (keepsEntries_setReg _ _ _) ?_)
  simp only [hp, Bool.false_eq_true, if_false]
  rw [setReg_sound (by exact h.sound)]
  rfl

/-- `SETC` into a predicate (R149). -/
theorem setc_retires (hp : f.getLsbD 5 = true) :
    Retires s (.setc q d a b f) fun x => { x with s := { x.s with preds := setPred x.s.preds d.toNat (setcResult f (s.sreg a) (s.sreg b)) } } := by
  refine congrArg Host.Outcome.next (retires_of_done h rfl (predicate_function_ok hq hf) nofun (fun _ _ _ => rfl) ?_)
  simp only [hp, if_true, setcOk_pred hf hp]
  rfl

end

theorem setcSelLimmResults : Claims.SetcSelLimmResults := by
  intro s q d a b c k i f h hq A B holds
  have wf := predicate_ok hq
  have hres : setcResult f A B = true ↔ holds := setcResult_iff f A B
  have himm : setcResult 0 A (k.signExtend 64) = true ↔ A.toInt < (k.signExtend 64).toInt := setcCond_iff 0 ..
  refine ⟨fun hf hp => ?register, fun hf hp => ?predicate, fun hc => ?less, fun hc => ?notLess, ?sel0, ?sel1,
    sWrite_writes h wf rfl rfl rfl rfl rfl, sWrite_writes h wf rfl rfl rfl rfl rfl⟩
  case register =>
    have hw := setc_writes (a := a) (b := b) h hq hf hp
    exact ⟨fun hc => by rwa [hres.mpr hc] at hw, fun hc => by rwa [Bool.eq_false_iff.mpr (mt hres.mp hc)] at hw⟩
  case predicate =>
    have hr := setc_retires (a := a) (b := b) h hq hf hp
    exact ⟨fun hc => by rwa [hres.mpr hc] at hr, fun hc => by rwa [Bool.eq_false_iff.mpr (mt hres.mp hc)] at hr⟩
  case less => exact aluImm_writes h wf rfl (by rw [himm.mpr hc]; rfl)
  case notLess => exact aluImm_writes h wf rfl (by rw [Bool.eq_false_iff.mpr (mt himm.mp (Int.not_lt.mpr hc))]; rfl)
  case sel0 =>
    refine sWrite_writes h wf rfl rfl rfl rfl ?_
    change (if decide (s.sreg c ≠ 0) != decide ((0 : BitVec 1) = 1) then A else B) = _
    simp
  case sel1 =>
    refine sWrite_writes h wf rfl rfl rfl rfl ?_
    change (if decide (s.sreg c ≠ 0) != decide ((1 : BitVec 1) = 1) then A else B) = _
    simp

/-- Settles O2: each form writes the value of its operands (`aluReg_writes`, `aluImm_writes`), and a compare's result is its condition
(`setcResult_iff`). -/
theorem logicAndConstants : Obligations.LogicAndConstants := ⟨logicShiftResults, setcSelLimmResults⟩

end Sys2Proof.Machine

/-! The branches, the jumps and the counted loop of S (O4). -/

namespace Sys2Proof.Machine

/-! ### Targets -/

/-- The target of a branch as an address: PC + 4 × `sext`(off) modulo 2^64 (R157). -/
theorem ofInt_targetOf {n : Nat} (pc : DWord) (o : BitVec n) : BitVec.ofInt 64 (targetOf pc o) = pc + (o.signExtend 64 <<< 2) := by
  rw [targetOf, BitVec.ofInt_add, BitVec.ofInt_natCast, BitVec.ofNat_toNat, BitVec.setWidth_eq, BitVec.ofInt_mul, BitVec.signExtend,
    BitVec.shiftLeft_eq_mul_twoPow, BitVec.mul_comm]
  rfl

theorem jumpTo_of_good {t : Int} {u : Unfinished} {s : State} (h : targetCheck t = none) : jumpTo t u s = .done s (some (BitVec.ofInt 64 t)) := by
  rw [jumpTo, h]

theorem jumpTo_targetOf {n : Nat} {pc : DWord} {o : BitVec n} {u : Unfinished} {s : State} (h : targetCheck (targetOf pc o) = none) :
    jumpTo (targetOf pc o) u s = .done s (some (pc + (o.signExtend 64 <<< 2))) := by
  rw [jumpTo_of_good h, ofInt_targetOf]

theorem jumpTo_of_bad {t : Int} {u : Unfinished} {s : State} {e : TrapInfo} (h : targetCheck t = some e) : jumpTo t u s = .trap e u := by
  rw [jumpTo, h]

theorem targetCheck_range {t : Int} (h : t < 0 ∨ (2 ^ 64 : Int) ≤ t) : targetCheck t = some ⟨cRANGE, BitVec.ofInt 64 t⟩ := if_pos h

/-- The upper and the lower half of the canonical addresses leave the middle out (R381). -/
theorem targetCheck_noncanonical {t : Int} (hl : 2 ^ 51 ≤ t) (hu : t < 2 ^ 64 - 2 ^ 51) :
    targetCheck t = some ⟨cNONCANON, BitVec.ofInt 64 t⟩ := by
  have hrange : ¬(t < 0 ∨ (2 ^ 64 : Int) ≤ t) := by omega
  have hcanon : canonical t.toNat = false := by
    simp only [canonical, Bool.or_eq_false_iff, Bool.and_eq_false_iff, decide_eq_false_iff_not]
    omega
  rw [targetCheck, if_neg hrange, hcanon]
  rfl

/-- A canonical register value is a good target. -/
theorem targetCheck_register {a : DWord} (h : canonical a.toNat = true) : targetCheck a.toNat = none := by
  have hrange : ¬((a.toNat : Int) < 0 ∨ (2 ^ 64 : Int) ≤ a.toNat) := by omega
  rw [targetCheck, if_neg hrange, Int.toNat_natCast, if_pos h]

/-- A jump to a register's canonical and aligned value (R160). -/
theorem jumpReg_of_good {u : Unfinished} {s : State} (h : canonical u.opa.toNat = true) (h4 : u.opa.toNat % 4 = 0) :
    jumpReg u s = .done s (some u.opa) := by
  have ha : ¬(canonical u.opa.toNat = true ∧ u.opa.toNat % 4 ≠ 0) := fun hc => hc.2 h4
  rw [jumpReg, if_neg ha, jumpTo_of_good (targetCheck_register h), BitVec.ofInt_natCast, BitVec.ofNat_toNat, BitVec.setWidth_eq]

/-! ### Branches and jumps -/

/-- The condition of a branch that takes `BR` (R158). -/
def BrTaken (c : Nat) (a b : DWord) : Prop :=
  match c with
  | 0 => a = b
  | 1 => a ≠ b
  | 2 => a.toInt < b.toInt
  | 3 => b.toInt ≤ a.toInt
  | 4 => a.toNat < b.toNat
  | _ => b.toNat ≤ a.toNat

theorem brCond_iff (c : Nat) (a b : DWord) : brCond c a b = true ↔ BrTaken c a b := by
  unfold brCond BrTaken
  split <;> simp [BitVec.slt, BitVec.ult]

/-- With nothing to be predicated, S is at the boundary of an instruction without a predicate. -/
theorem AtS.unpredicated {s : State} {q : BitVec 4} (h : AtS s q) : AtS s 0 := { h with holds := rfl }

section
variable {s : State} {q : BitVec 4} (h : AtS s q)
include h

/-- A jump that writes no register goes on at its target. -/
theorem retires_of_jump {i : Instr} {f : Form} {np : Option DWord} {body : Nat → Agent → Unfinished → State → Fin}
    (hx : exec i s = .next (s.sIssue i f body)) (hq : f.q = q) (wf : i.wellFormed = true) (hs : f.super = false)
    (hb : body s.focus.1 (.stream .s) (s.entry i f) (s.entered i f) = .done (s.entered i f) np) : exec i s = .next (s.retire id np) :=
  hx.trans (congrArg _ (retires_of_done h hq wf (by simp [hs]) (fun _ _ _ => rfl) (by rw [hb, modCell_id])))

/-- A jump that links writes its register as it takes effect. -/
theorem retires_of_link {i : Instr} {f : Form} {r : BitVec 5} {v : DWord} {np : Option DWord} {body : Nat → Agent → Unfinished → State → Fin}
    (hx : exec i s = .next (s.sIssue i f body)) (hq : f.q = q) (wf : i.wellFormed = true) (hs : f.super = false)
    (hb : body s.focus.1 (.stream .s) (s.entry i f) (s.entered i f) =
      .done ((s.entered i f).setReg s.focus.1 (.stream .s) r v) np) :
    exec i s = .next (s.retire (fun x => x.setReg (.stream .s) r.toNat v) np) :=
  hx.trans (congrArg _ (retires_of_done h hq wf (by simp [hs]) (keepsEntries_setReg _ _ _)
    (by rw [hb, setReg_sound (by exact h.sound)])))

end

theorem jumpResults : Claims.JumpResults := by
  intro s q a b d c o l h hq pc A B near far taken
  have h0 := h.unpredicated
  have htaken : brCond c.toNat A B = true ↔ taken := brCond_iff ..
  have hbr (hc : c.toNat < 6) : (Instr.br c a b o).wellFormed = true := isNone_ck.mpr (BitVec.le_def.mpr (by exact Nat.le_of_lt_succ hc))
  refine ⟨fun hc ht hg => ?taken, fun hc ht => ?untaken, fun hg => ⟨?jmp, ?jmpL⟩, fun hn ha => ⟨?jmpi, ?jmpiL⟩⟩
  case taken =>
    refine retires_of_jump h0 rfl rfl (hbr hc) rfl ?_
    exact (if_pos (htaken.mpr ht)).trans (jumpTo_targetOf hg)
  case untaken =>
    refine retires_of_jump h0 rfl rfl (hbr hc) rfl ?_
    exact if_neg (mt htaken.mp ht)
  case jmp =>
    refine retires_of_jump h0 rfl rfl rfl rfl ?_
    exact jumpTo_targetOf hg
  case jmpL =>
    refine retires_of_link (r := 31) h0 rfl rfl rfl rfl ?_
    simp only [jumpTo_targetOf (pc := (s.entry (.jmpL l) { dest := 31, wicket := false }).pc) hg]
    rfl
  case jmpi =>
    refine retires_of_jump h rfl rfl (predicate_ok hq) rfl ?_
    exact jumpReg_of_good hn ha
  case jmpiL =>
    refine retires_of_link h rfl rfl (predicate_ok hq) rfl ?_
    simp only [jumpReg_of_good (u := s.entry (.jmpiL q d a) { q := q, a := a, dest := d }) hn ha]
    rfl

/-! ### The counted loop -/

/-- A counter and the predicates, as `LOOPS` leaves them (R161). -/
def Cell.looped (x : Cell) (r : BitVec 5) (v : DWord) (p : BitVec 8) : Cell :=
  let y := x.setReg (.stream .s) r.toNat v
  { y with s := { y.s with preds := p } }

theorem keepsEntries_looped (r : BitVec 5) (v : DWord) (p : BitVec 8) : KeepsEntries fun x => x.looped r v p :=
  KeepsEntries.comp (g := fun x => { x with s := { x.s with preds := p } }) (fun _ _ _ => rfl) (keepsEntries_setReg _ _ _)

section
variable {s : State} {q : BitVec 4} (h : AtS s q)
include h

/-- The write of a counter and of the predicates is one change of the cell. -/
theorem setReg_setPreds_entered {i : Instr} {f : Form} (r : BitVec 5) (v : DWord) (p : BitVec 8) :
    ((s.entered i f).setReg s.focus.1 (.stream .s) r v).setPreds s.focus.1 p = (s.entered i f).modCell s.focus.1 fun x => x.looped r v p := by
  have hc : s.focus.1 < (s.entered i f).cells.length := by rw [entered_eq h, setCell_length]; exact h.cell
  rw [setReg_sound (by exact h.sound), State.setPreds, modCell_modCell _ _ _ _ hc]
  rfl

/-- An instruction that writes a counter and the predicates, and may jump. -/
theorem retires_of_loop {i : Instr} {f : Form} {r : BitVec 5} {v : DWord} {p : BitVec 8} {np : Option DWord}
    {body : Nat → Agent → Unfinished → State → Fin} (hx : exec i s = .next (s.sIssue i f body)) (hq : f.q = q) (wf : i.wellFormed = true)
    (hs : f.super = false) (hb : body s.focus.1 (.stream .s) (s.entry i f) (s.entered i f) =
      .done (((s.entered i f).setReg s.focus.1 (.stream .s) r v).setPreds s.focus.1 p) np) :
    exec i s = .next (s.retire (fun x => x.looped r v p) np) :=
  hx.trans (congrArg _ (retires_of_done h hq wf (by simp [hs]) (keepsEntries_looped r v p) (by rw [hb, setReg_setPreds_entered h])))

end

theorem loopsResults : Claims.LoopsResults := by
  intro s a b o h hab pc A B p go
  have wf : (Instr.loops a b o).wellFormed = true := isNone_ck.mpr hab
  refine ⟨fun hg => ⟨fun hA => ?again, fun hA hB => ?drain⟩, fun hA hB => ?last, ?set⟩
  case again =>
    refine retires_of_loop (r := a) (v := A - 1) (p := shiftIn p true) h rfl rfl wf rfl ?_
    simp only [entered_here h]
    exact (if_pos hA).trans (jumpTo_targetOf hg)
  case drain =>
    refine retires_of_loop (r := b) (v := B - 1) (p := shiftIn p false) h rfl rfl wf rfl ?_
    simp only [entered_here h]
    exact (if_neg (not_not_intro hA)).trans ((if_pos (BitVec.lt_def.mpr (show (1 : DWord).toNat < B.toNat from hB))).trans (jumpTo_targetOf hg))
  case last =>
    refine retires_of_loop (r := b) (v := 0) (p := shiftIn p false) h rfl rfl wf rfl ?_
    simp only [entered_here h]
    exact (if_neg (not_not_intro hA)).trans (if_neg (BitVec.not_lt.mpr (BitVec.le_def.mpr hB)))
  case set =>
    refine congrArg Host.Outcome.next (retires_of_done h rfl rfl nofun (fun _ _ _ => rfl) ?_)
    exact congrArg (fun v => Fin.done (State.setPreds _ _ v) none) (field_low ..)

/-! ### A bad target -/

section
variable {s : State} {c : Nat} (hi : (s.cell c).trap.inTrap = false) (hv : vectorOk (s.cell c).trap.tvec = true)
include hi hv

/-- The decided trap of a branch, the only unfinished instruction of S, leaves `SPC` at the branch (R157). `trapTake_only` is this of an
instruction that is no branch. -/
theorem trapTake_branch {u : Unfinished} {t : TrapInfo} (hu : (s.cell c).s.iss.unfinished = [u]) (ht : u.trap = some t)
    (hn : t.cause ≠ cNOTPRESENT) (hs : t.cause ≠ cSELF) (hb : isBranch u.instr = true) :
    s.trapTake c (.stream .s) = s.setCell c ((s.cell c).trapped t 0 (eposOf .s u.pc 0 false) u.pc (u :: (s.cell c).s.iss.replay)) := by
  rw [← enterTrap_eq hi hv]
  have hu' : ((s.cell c).issue (.stream .s)).unfinished = [u] := hu
  simp only [State.trapTake, hu', ht, hn, hs, hb, List.any_nil, Bool.false_eq_true, if_false, if_true, List.singleton_append]
  rfl

end

/-- A branch whose own operation decides a trap at the boundary takes it, with `SPC` at the branch and its entry in the frame (R157). -/
theorem traps_of_branch {s : State} {q : BitVec 4} {i : Instr} {f : Form} {t : TrapInfo} {body : Nat → Agent → Unfinished → State → Fin}
    (h : AtS s q) (hx : exec i s = .next (s.sIssue i f body)) (hq : f.q = q) (wf : i.wellFormed = true) (hsup : f.super = false)
    (hm : memInstr i = false) (hbr : isBranch i = true) (hn : t.cause ≠ cNOTPRESENT) (hs : t.cause ≠ cSELF)
    (hi : s.here.trap.inTrap = false) (hv : vectorOk s.here.trap.tvec = true)
    (hb : body s.focus.1 (.stream .s) (s.entry i f) (s.entered i f) = .trap t (s.entry i f)) : Traps s i t 0 s.here.s.iss.pc 1 := by
  let u : Unfinished := { s.entry i f with trap := some t }
  let y : Cell := s.here.passed.withEntries [u] none
  have hcell : (s.setCell s.focus.1 y).cell s.focus.1 = y := cell_setCell _ _ _ h.cell
  have hmark : ((s.entered i f).modIssue s.focus.1 (.stream .s) fun j => { (j.setLast u) with wait := none }) = s.setCell s.focus.1 y := by
    rw [State.modIssue, State.modCell, entered_here h, entered_eq h, setCell_setCell]
    rfl
  have htake := trapTake_branch (u := u) (by rw [hcell]; exact hi) (by rw [hcell]; exact hv) (by rw [hcell]; rfl) rfl hn hs hbr
  have hr : y.s.iss.replay = [] := h.replay
  have hmem : memInstr (s.entry i f).instr = false := hm
  refine ⟨_, hx, ?_⟩
  rw [sIssue_atS (hq ▸ h) wf (by simp [hsup]), hb]
  simp only [State.conclude, State.concludeTrap, hmem, Bool.false_eq_true, if_false]
  rw [hmark, htake, hcell, setCell_setCell, State.here, setCell_focus, cell_setCell _ _ _ h.cell, hr]
  exact ⟨rfl, rfl, rfl, rfl, rfl, rfl, rfl, rfl, rfl, rfl, rfl, rfl, rfl, rfl⟩

/-- `JMP.L` to a bad target traps before its link is written (R157). -/
theorem jmpL_traps {s : State} {l : BitVec 25} {t : TrapInfo} (h : AtS s 0) (hi : s.here.trap.inTrap = false)
    (hv : vectorOk s.here.trap.tvec = true) (hn : t.cause ≠ cNOTPRESENT) (hs : t.cause ≠ cSELF)
    (ht : targetCheck (targetOf s.here.s.iss.pc l) = some t) : Traps s (.jmpL l) t 0 s.here.s.iss.pc 1 := by
  refine traps_of_branch (f := { dest := 31, wicket := false }) h rfl rfl rfl rfl rfl rfl hn hs hi hv ?_
  simp only [jumpTo_of_bad (t := targetOf (s.entry (.jmpL l) { dest := 31, wicket := false }).pc l) ht]

theorem badTargetTraps : Claims.BadTargetTraps := by
  intro s l h hi hv t
  refine ⟨fun ht => ?range, fun hl hu => ?noncanonical⟩
  case range =>
    exact jmpL_traps h hi hv (show (0x05 : BitVec 8) ≠ 0x08 by decide) (show (0x05 : BitVec 8) ≠ 0x38 by decide) (targetCheck_range ht)
  case noncanonical =>
    exact jmpL_traps h hi hv (show (0x04 : BitVec 8) ≠ 0x08 by decide) (show (0x04 : BitVec 8) ≠ 0x38 by decide)
      (targetCheck_noncanonical hl hu)

/-- Settles O4: a good target is where the instruction goes on (`jumpTo_targetOf`), `LOOPS` is one change of the cell
(`retires_of_loop`), and a bad target traps at the branch (`traps_of_branch`). -/
theorem branchesAndJumps : Obligations.BranchesAndJumps := ⟨jumpResults, loopsResults, badTargetTraps⟩

end Sys2Proof.Machine

/-! A store of S to DRAM or cluster SRAM (O5). -/

namespace Sys2Proof.Machine

/-! ### Bytes -/

@[simp] theorem leBytes_length (n v : Nat) : (leBytes n v).length = n := by
  induction n generalizing v with
  | zero => rfl
  | succ n ih => rw [leBytes, List.length_cons, ih]

theorem getD_leBytes {n k : Nat} (v : Nat) (h : k < n) : (leBytes n v).getD k 0 = BitVec.ofNat 8 (v / 256 ^ k) := by
  induction n generalizing v k with
  | zero => exact absurd h (Nat.not_lt_zero k)
  | succ n ih =>
    rw [leBytes]
    cases k with
    | zero => rw [List.getD_cons_zero, Nat.pow_zero, Nat.div_one]
    | succ k => rw [List.getD_cons_succ, ih _ (Nat.lt_of_succ_lt_succ h), Nat.div_div_eq_div_mul, Nat.pow_succ, Nat.mul_comm]

/-- The little-endian bytes of a register are its bits from the lowest up (R3). -/
theorem getD_leBytes_toNat {n k : Nat} (x : DWord) (h : k < n) : (leBytes n x.toNat).getD k 0 = x.extractLsb' (8 * k) 8 := by
  rw [getD_leBytes _ h, BitVec.extractLsb', Nat.shiftRight_eq_div_pow, Nat.pow_mul]

/-! ### The view that a write reaches first -/

theorem getD_modAt_self {α : Type} {l : List α} {k : Nat} (f : α → α) (d : α) (h : k < l.length) : (modAt l k f).getD k d = f (l.getD k d) := by
  induction l generalizing k with
  | nil => exact absurd h (Nat.not_lt_zero k)
  | cons a r ih =>
    cases k with
    | zero => rfl
    | succ k => rw [modAt, List.getD_cons_succ, List.getD_cons_succ, ih (Nat.lt_of_succ_lt_succ h)]

/-- A part within 8 aligned bytes is one piece (R80). -/
theorem piecesOf_within {fuel : Nat} {p : Part} (h : p.bytes.length ≤ 8 - p.addr % 8) : piecesOf (fuel + 1) p = [p] := by
  rw [piecesOf, if_pos h]

/-- With no write on its way, such a part is applied to the writer's own view (R81, R83). -/
theorem view_write {m : MemUnit} {d : Nat} {ag : Nat × Agent} {p : Part} (hd : d < m.views.length) (hp : m.pend = [])
    (h : p.bytes.length ≤ 8 - p.addr % 8) : (m.write d ag p).views.getD d [] = (m.views.getD d []).put p := by
  have hviews : (m.writeParts d ag [p]).views = modAt m.views d fun v => v.putAll [p] := by
    simp only [MemUnit.writeParts, hp, List.any_nil, Bool.false_eq_true, if_false]
  rw [MemUnit.write, piecesOf_within h, List.foldl_cons, List.foldl_nil, hviews, getD_modAt_self _ _ hd]
  rfl

theorem unmark_views (m : MemUnit) (pa n : Nat) : (m.unmark pa n).views = m.views := by
  unfold MemUnit.unmark
  split
  · rfl
  · rfl

/-- Memory with a part written and the marks of the bytes that it covers cleared (R81, R423). -/
def MemUnit.wrote (m : MemUnit) (d : Nat) (ag : Nat × Agent) (p : Part) : MemUnit := (m.write d ag p).unmark p.whole.1 p.whole.2

/-- What a die reads after its own write: the bytes of the part, and every other byte as before (R81). -/
theorem read_wrote {m : MemUnit} {d : Nat} {ag : Nat × Agent} {p : Part} (hd : d < m.views.length) (hp : m.pend = [])
    (h : p.bytes.length ≤ 8 - p.addr % 8) (hm : p.mask = []) (hw : (m.views.getD d []).wf = true) (j : Nat) :
    ((m.wrote d ag p).views.getD d []).read j =
      if p.addr ≤ j ∧ j < p.addr + p.bytes.length then p.bytes.getD (j - p.addr) 0 else (m.views.getD d []).read j := by
  rw [MemUnit.wrote, unmark_views, view_write hd hp h, Memory.read_put j hw hm]

/-! ### A store to memory that the views hold -/

section
variable {pa : Nat} (hv : viewed pa = true)
include hv

theorem viewed_place : (place pa = .hbm ∨ place pa = .lpd ∨ place pa = .cxl ∨ place pa = .cluster) ∧ absent pa = false := by
  unfold viewed at hv
  cases hp : place pa <;> simp_all

theorem ownPad_viewed (c : Nat) : ownPad c pa = false := by
  unfold ownPad
  rcases (viewed_place hv).1 with hp | hp | hp | hp <;> rw [hp]

theorem foreignPad_viewed (c : Nat) : foreignPad c pa = false := by
  unfold foreignPad
  rcases (viewed_place hv).1 with hp | hp | hp | hp <;> rw [hp]

variable {s : State} (hs : s.sluiceAt pa = none)
include hs

/-- The write of a part that lies on no page in the sluice. -/
theorem writePa_viewed (d : Nat) (ag : Nat × Agent) (bs : List Byte) (via : Option AccessOrigin) :
    s.writePa d ag pa bs (via := via) = { s with mem := s.mem.wrote d ag { addr := pa, bytes := bs } } := by
  obtain ⟨hp, ha⟩ := viewed_place hv
  have hmirror : s.mirror pa = none := by rw [State.mirror, hs]
  have hserved : s.served pa = pa := by rw [State.served, hs]
  have hwrite : s.writeMem d ag { addr := pa, bytes := bs } false = { s with mem := s.mem.wrote d ag { addr := pa, bytes := bs } } := by
    rw [State.writeMem, if_neg (by simp [ha])]
    rfl
  rw [← hwrite]
  simp only [State.writePa, hmirror, hserved]
  rcases hp with hp | hp | hp | hp <;> simp only [hp, ha, Bool.false_eq_true, if_false]

/-- The state with `n` bytes at `pa` charged to cell `c`, and memory as `m`. -/
def State.chargedWith (s : State) (c pa n : Nat) (m : MemUnit) : State := { s.chargeBytes c pa n with mem := m }

/-- A store there performs at once (R152). -/
theorem performStore_viewed (c : Nat) (ag : Agent) (va : Nat) (bs : List Byte) (pc : Option DWord) :
    s.performStore c ag va pa bs pc = s.chargedWith c pa bs.length (s.mem.wrote (dieOf c) (c, ag) { addr := pa, bytes := bs }) := by
  have hs' : (s.chargeBytes c pa bs.length).sluiceAt pa = none := hs
  simp only [State.performStore, foreignPad_viewed hv, Bool.false_and, Bool.false_eq_true, if_false]
  rw [writePa_viewed hv hs']
  rfl

end

/-! ### The checks of an access -/

/-- An access that passes is aligned, and a leaf maps its address (R131, R380). -/
theorem accessCheck_ok {s : State} {w : Who} {ea : Int} {n align pa : Nat} {need : Need} (h : s.accessCheck w ea n align need = .ok pa) :
    ea.toNat % align = 0 ∧ ∃ e large, pa = leafPa e large ea.toNat := by
  unfold State.accessCheck at h
  simp only at h
  split at h
  · cases h
  · split at h
    · cases h
    · next ha =>
      split at h
      · cases h
      · cases h
      · split at h
        · cases h
        · split at h
          · cases h
          · split at h
            · cases h
              exact ⟨Decidable.not_not.mp ha, _, _, rfl⟩
            · cases h

theorem leafPa_mod_eight (e : DWord) (large : Bool) (va : Nat) : leafPa e large va % 8 = va % 8 := by
  simp only [leafPa, leafFrame, pageSize]
  split <;> omega

/-- An access of 1, 2, 4 or 8 bytes that passes lies within 8 aligned bytes. -/
theorem accessCheck_ok_within {s : State} {w : Who} {ea : Int} {k pa : Nat} {need : Need} (hk : k < 4)
    (h : s.accessCheck w ea (2 ^ k) (2 ^ k) need = .ok pa) : 2 ^ k ≤ 8 - pa % 8 := by
  obtain ⟨ha, e, large, rfl⟩ := accessCheck_ok h
  rw [leafPa_mod_eight]
  have hcases : k = 0 ∨ k = 1 ∨ k = 2 ∨ k = 3 := by omega
  rcases hcases with rfl | rfl | rfl | rfl
  all_goals
    simp only [Nat.reducePow] at ha ⊢
    omega

/-! ### The cell and memory after the store -/

@[simp] theorem charge_trap (x : Cell) (n : Nat) : (x.charge n).trap = x.trap := by
  rcases charge_cases x n with ⟨_, h⟩ | ⟨_, h⟩ <;> rw [h]

/-- A store that passes its checks and falls on memory that the views hold is performed as it issues (R141, R152, R163). -/
theorem exec_st_viewed {s : State} {z : BitVec 3} {q : BitVec 4} {d a : BitVec 5} {o : BitVec 9} {pa : Nat} (h : AtS s q)
    (wf : (Instr.st z q d a o).wellFormed = true) (hv : viewed pa = true) (hs : s.sluiceAt pa = none)
    (hout : s.storesOut (s.focus.1, .stream .s) < 32) :
    let t0 := s.entered (.st z q d a o) { q := q, a := a, d := d }
    t0.accessCheck (t0.whoOf s.focus.1 (.stream .s)) ((s.sreg a).toNat + o.toInt * sizeOf z) (sizeOf z) (sizeOf z) { wr := true } = .ok pa →
    exec (.st z q d a o) s = .next (t0.conclude s.focus.1 (.stream .s) (.done (t0.chargedWith s.focus.1 pa (sizeOf z)
      (s.mem.wrote (dieOf s.focus.1) (s.focus.1, .stream .s) { addr := pa, bytes := leBytes (sizeOf z) (s.sreg d).toNat })) none)) := by
  intro t0 hok
  have hea : effAddr (s.entry (.st z q d a o) { q := q, a := a, d := d }) (o.toInt * sizeOf z) = (s.sreg a).toNat + o.toInt * sizeOf z := rfl
  have hroom : ¬32 ≤ s.storesOut (s.focus.1, .stream .s) := Nat.not_le_of_lt hout
  have hs0 : (s.entered (.st z q d a o) { q := q, a := a, d := d }).sluiceAt pa = none := hs
  simp only [t0] at hok ⊢
  refine congrArg Host.Outcome.next ((sIssue_atS (f := { q := q, a := a, d := d }) h wf nofun).trans ?_)
  simp only [hea, hok, ownPad_viewed hv, olderOf_entered h, State.storesClass, storesOut_entered h, claimPending, hroom, List.filter_nil,
    List.length_nil, List.any_nil, Nat.zero_add, Bool.not_false, Bool.and_false, Bool.or_false, decide_false, Bool.false_eq_true,
    if_false]
  rw [performStore_viewed hv hs0, leBytes_length]
  rfl

/-- The only entry of S finishes by an operation that charges its cell for bytes and changes memory, which is then `m`: no register
changes. -/
theorem conclude_charged {s : State} {q : BitVec 4} {i : Instr} {f : Form} (h : AtS s q) (pa n : Nat) (m : MemUnit) :
    let t := (s.entered i f).conclude s.focus.1 (.stream .s) (.done ((s.entered i f).chargedWith s.focus.1 pa n m) none)
    t.here.s.regs = s.here.s.regs ∧ t.here.s.iss.pc = s.here.s.iss.pc + 4 ∧ t.here.s.iss.unfinished = [] ∧
      t.here.trap = s.here.trap := by
  intro t
  have hc : s.focus.1 < (s.entered i f).cells.length := by rw [entered_eq h, setCell_length]; exact h.cell
  have hx : ((s.entered i f).chargedWith s.focus.1 pa n m).cell s.focus.1 =
      (s.here.enter (s.entry i f)).charge ((s.here.enter (s.entry i f)).weights.byteAt pa * n) := by
    rw [← entered_here h]
    exact cell_modCell _ _ (fun x => x.charge (x.weights.byteAt pa * n)) hc
  have ht : t.here = (Cell.exit (((s.entered i f).chargedWith s.focus.1 pa n m).cell s.focus.1) none).chargeScalar :=
    cell_modCell _ _ _ (by simpa [State.chargedWith, State.chargeBytes] using hc)
  rw [ht, hx, Cell.chargeScalar, charge_s, charge_trap]
  simp only [Cell.exit, charge_s, charge_trap]
  exact ⟨rfl, rfl, rfl, rfl⟩

/-- Settles O5: the store is performed at issue (`exec_st_viewed`), and its bytes are one piece of its own die's view
(`accessCheck_ok_within`, `read_wrote`). -/
theorem storeCompletes : Obligations.StoreCompletes := by
  intro s z q d a o pa h wf c n ea i t0 hok hv hs hout hd hw hp
  have hx := exec_st_viewed h wf hv hs hout hok
  obtain ⟨hregs, hpc, hun, htrap⟩ := conclude_charged (i := i) (f := { q := q, a := a, d := d }) h pa n
    (s.mem.wrote (dieOf c) (c, .stream .s) { addr := pa, bytes := leBytes n (s.sreg d).toNat })
  have hwithin : (leBytes n (s.sreg d).toNat).length ≤ 8 - pa % 8 := by
    rw [leBytes_length]
    exact accessCheck_ok_within (Nat.mod_lt _ (by decide)) hok
  have hread := read_wrote (ag := (c, .stream .s)) (p := { addr := pa, bytes := leBytes n (s.sreg d).toNat }) hd hp hwithin rfl hw
  simp only [leBytes_length] at hread
  refine ⟨_, hx, hregs, hpc, hun, htrap, fun k hk => ?written, fun k hk => ?kept⟩
  case written =>
    refine (hread (pa + k)).trans ?_
    rw [if_pos (by omega), Nat.add_sub_cancel_left]
    exact getD_leBytes_toNat _ hk
  case kept => exact (hread k).trans (if_neg (by omega))

end Sys2Proof.Machine

/-! The issue of an M array command whose steps all run, and the sparse products (O29). -/

namespace Sys2Proof.Machine

/-! ### Steps that all run -/

/-- A change of cell `c` that keeps what `p` reads of a cell, whether or not the cell exists. -/
theorem read_modCell {α : Type} (p : Cell → α) (s : State) (c : Nat) {f : Cell → Cell} (hf : ∀ x, p (f x) = p x) :
    p ((s.modCell c f).cell c) = p (s.cell c) := by
  by_cases hc : c < s.cells.length
  · rw [cell_modCell _ _ _ hc, hf]
  · have hs : (s.modCell c f).cells = s.cells := List.set_eq_of_length_le (Nat.le_of_not_lt hc)
    simp only [State.cell, hs]

theorem runSteps_of_stepsTo {step : Nat → State → Acc State} {n k : Nat} {s u : State} (h : StepsTo step n k s u) :
    runSteps n k (k + n) step s = .issued u (k + n) := by
  induction n generalizing k s with
  | zero =>
    obtain rfl : s = u := h
    exact if_pos (Nat.le_refl k)
  | succ n ih =>
    obtain ⟨v, hv, hr⟩ := h
    have hmore : ¬k + (n + 1) ≤ k := by omega
    rw [runSteps, if_neg hmore]
    simp only [hv]
    rw [← Nat.succ_add_eq_add_succ k n]
    exact ih hr

/-- A command that begins at its first step, with the debugger stepping nothing, performs all its steps. -/
theorem runCommand_of_stepsTo {step : Nat → State → Acc State} {n c : Nat} {st : Stream} {s u : State}
    (hk : ((s.cell c).engine st).nextStep = 0) (hd : (s.cell c).dbg.stepping = none) (h : StepsTo step n 0 s u) :
    s.runCommand c st n step = .issued u n := by
  have hr := runSteps_of_stepsTo h
  rw [Nat.zero_add] at hr
  simp only [State.runCommand, hk, hd, Option.isSome_none, Bool.false_eq_true, if_false, Nat.sub_zero]
  exact hr

/-! ### An array command at M's head -/

theorem tilesFree_of_idle {x : Cell} (h : x.em.inprog = []) (i : Instr) (corr : Bool) : x.tilesFree i corr = true := by
  rw [Cell.tilesFree, h]
  rfl

/-- An array command whose shutters are open does its own operation, when no command is in progress (R98, R230). -/
theorem mIssue_atHead {s : State} {h : Entry} {i : Instr} {b : BitVec 4} {os : List (BitVec 9)} {corr : Bool}
    {body : Nat → Entry → State → EFin} (k : AtHead s .m h) (free : Free s .m b) (wf : i.wellFormed = true)
    (ho : s.here.closedTile .m os = none) :
    s.mIssue i b os corr body = s.eConclude s.focus.1 .m i h (body s.focus.1 h s) := by
  have hclosed : (s.cell s.focus.1).closedTile .m os = none := ho
  have htiles : (s.cell s.focus.1).tilesFree i corr = true := tilesFree_of_idle free.idle i corr
  rw [State.mIssue, eIssue_atHead k wf (fun hu => free.bound (of_decide_eq_true hu)) (fun hv => nomatch hv)]
  simp only [hclosed, htiles, Option.isSome_none, Bool.not_true, Bool.or_self, Bool.false_eq_true, if_false]

/-! ### The sparse products -/

/-- The state in which the first step of a planned command runs: the row queues are empty and its split rows counted (R213, R215). -/
def State.planBegun (t : State) (c : Nat) (p : Plan) : State :=
  (t.modCell c fun y => { y with m := { y.m with rowq := [], qnow := 0, qplaced := 0 } }).modCell c fun y =>
    { y with m := { y.m with statSplit := y.m.statSplit + BitVec.ofNat 64 (p.parts.filter fun l => decide (1 < l.length)).length } }

theorem read_planBegun {α : Type} (g : Cell → α) (hg : ∀ x m, g { x with m := m } = g x) (t : State) (c : Nat) (p : Plan) :
    g ((t.planBegun c p).cell c) = g (t.cell c) := by
  unfold State.planBegun
  refine (read_modCell g _ c ?_).trans (read_modCell g t c ?_)
  all_goals exact fun x => hg x _

/-- The parts of a sparse command of kind `kind` on cell `x`, its headers read as `pa` and `pb` (R242, R243). -/
def Cell.sparseParts (x : Cell) (h : Entry) (kind : Nat) (acc : BitVec 2) (a e : BitVec 9) (f : BitVec 1) (q : SparseQ) (pa pb : Option Packed) : Sparse :=
  { kind := kind, acc := acc.toNat, a := x.mOperand a 1 q.la q.rna, b := x.mOperand e 1 q.lb q.rnb, pa := pa, pb := pb
    ora := origin h q.ora, orb := origin h q.orb, r := if q.rq = 0 then 64 else q.rq.toNat, cc := if q.cq = 0 then 64 else q.cq.toNat
    fresh := f = 1, sat := q.sat = 1, det := x.detMode }

/-- A sparse command that begins, on operands that pass their checks, with valid headers and a plan whose steps all run, issues with
these steps performed (R242 to R244). -/
theorem sparse_issues {s t t' u : State} {h : Entry} {i : Instr} {kind : Nat} {b : BitVec 4} {acc : BitVec 2} {a e : BitVec 9} {f : BitVec 1}
    {q : SparseQ} {pa pb : Option Packed} {p : Plan} (k : AtHead s .m h) (free : Free s .m b) (wf : i.wellFormed = true)
    (hrow : s.here.m.rowValid = false) :
    let m := s.here.sparseParts h kind acc a e f q pa pb
    sparseOk kind m.a m.b m.ora m.orb m.sat m.det = true → s.sparseHeaders s.focus.1 kind m.a m.b = .ok (t, some (pa, pb)) →
    m.plan s.focus.1 t = some (t', p) → (t'.cell s.focus.1).em = s.here.em → (t'.cell s.focus.1).dbg = s.here.dbg →
    StepsTo (m.run p s.focus.1) (p.seqs.length + 1) 0 (t'.planBegun s.focus.1 p) u →
    s.sparse i kind b acc a e f q = s.eConclude s.focus.1 .m i h (.issued u (p.seqs.length + 1)) := by
  intro m hok hheaders hplan hem hdbg hsteps
  have hfirst : (s.cell s.focus.1).em.nextStep = 0 := k.whole
  have hnew : (s.cell s.focus.1).m.rowValid = false := hrow
  have hnext : (((t'.planBegun s.focus.1 p).cell s.focus.1).engine .m).nextStep = 0 :=
    (congrArg Engine.nextStep ((read_planBegun Cell.em (fun _ _ => rfl) ..).trans hem)).trans k.whole
  have hstep : ((t'.planBegun s.focus.1 p).cell s.focus.1).dbg.stepping = none :=
    (congrArg Debug.stepping ((read_planBegun Cell.dbg (fun _ _ => rfl) ..).trans hdbg)).trans free.running
  have hrun := runCommand_of_stepsTo hnext hstep hsteps
  simp only [m, Cell.sparseParts, State.here, State.planBegun] at hok hheaders hplan hrun
  rw [State.sparse, mIssue_atHead k free wf rfl]
  simp only [hok, hheaders, hplan, hfirst, hnew, hrun, Bool.not_true, Bool.not_false, Bool.false_eq_true, and_self, if_false, if_true]

/-- Settles O29: each form is one call of `State.sparse`, which issues with its steps performed (`sparse_issues`). -/
theorem sparseProducts : Obligations.SparseProducts := by
  intro s t t' u h b c a e f x i kind q pa pb p k free wf hrow hform oa ob m hok hheaders hplan hem hdbg t1 t2 hsteps
  have hexec : exec i s = .next (s.sparse i kind b c a e f q) := by
    rcases hform with ⟨rfl, rfl, rfl⟩ | ⟨rfl, rfl, rfl⟩ | ⟨rfl, rfl, rfl⟩ | ⟨rfl, rfl, rfl⟩ | ⟨rfl, rfl, rfl⟩ | ⟨rfl, rfl, rfl⟩ <;> rfl
  exact hexec.trans (congrArg Host.Outcome.next (sparse_issues k free wf hrow hok hheaders hplan hem hdbg hsteps))

end Sys2Proof.Machine

/-! The other M array commands, whose steps all run: the drains and the row sums (O30). -/

namespace Sys2Proof.Machine

/-- After a read of parameters that changes neither stream M nor its stepping, a command of M's head performs all its steps. -/
theorem runCommand_atHead {s t u : State} {h : Entry} {b : BitVec 4} {n : Nat} {step : Nat → State → Acc State} (k : AtHead s .m h)
    (free : Free s .m b) (hem : (t.cell s.focus.1).em = s.here.em) (hdbg : (t.cell s.focus.1).dbg = s.here.dbg)
    (hsteps : StepsTo step n 0 t u) : t.runCommand s.focus.1 .m n step = .issued u n := by
  have hnext : ((t.cell s.focus.1).engine .m).nextStep = 0 := (congrArg Engine.nextStep hem).trans k.whole
  have hstep : (t.cell s.focus.1).dbg.stepping = none := (congrArg Debug.stepping hdbg).trans free.running
  exact runCommand_of_stepsTo hnext hstep hsteps

/-! ### `MDRAIN` -/

/-- The parts of a drain of accumulator tile `acc` on cell `x`; `recs` are the records of a quantised one (R249). -/
def Cell.drainParts (x : Cell) (h : Entry) (acc : BitVec 2) (a : BitVec 9) (o : DrainQ) (q : Bool) (recs : List (BitVec 128)) : Drain :=
  { acc := acc.toNat, tile := operandTile a, d := x.descAt a, fmt := if (operandTile a).isSome then o.f.toNat else (x.descAt a).fmt
    q := q, cr := o.cr = 1, ak := o.ak.toNat, rm := o.rm.toNat, satf := o.satf = 1, rows := if o.rq = 0 then 64 else o.rq.toNat
    cols := if o.cq = 0 then 64 else o.cq.toNat, ord := origin h o.ord, orc := origin h o.orc, recs := recs }

section
variable {s t u : State} {h : Entry} {i : Instr} {b : BitVec 4} {acc : BitVec 2} {a e : BitVec 9} {x : DrainQ}
  (k : AtHead s .m h) (free : Free s .m b) (wf : i.wellFormed = true)
include k free wf

/-- A drain without parameter records issues with all its rows written (R250, R251). -/
theorem mdrain_issues (hshut : s.here.closedTile .m [a] = none) (hok : (s.here.drainParts h acc a x false []).ok = true)
    (hsteps : StepsTo ((s.here.drainParts h acc a x false []).step s.focus.1) (s.here.drainParts h acc a x false []).rows 0 s u) :
    s.mdrain i b acc a none x = s.eConclude s.focus.1 .m i h (.issued u (s.here.drainParts h acc a x false []).rows) := by
  have hrun := runCommand_atHead k free rfl rfl hsteps
  simp only [Cell.drainParts, State.here] at hok hrun
  refine (mIssue_atHead k free wf hshut).trans ?_
  simp only [Option.isSome_none, hok, hrun, Bool.and_true, Bool.not_true, Bool.false_eq_true, if_false]
  rfl

/-- A quantised drain whose parameter records are read and are good issues with all its rows written (R249 to R251). -/
theorem mdrainQ_issues {bs : List Nat} (hshut : s.here.closedTile .m [a, e] = none) (hok : (s.here.drainParts h acc a x true []).ok = true)
    (hpar : (operandTile e).isSome = true ∨ (s.here.descAt e).may 5 = true)
    (hread : s.paramRead s.focus.1 e (16 * (s.here.drainParts h acc a x true []).cols) = .ok (t, bs))
    (hem : (t.cell s.focus.1).em = s.here.em) (hdbg : (t.cell s.focus.1).dbg = s.here.dbg) :
    let recs := (List.range (s.here.drainParts h acc a x true []).cols).map fun j =>
      (BitVec.ofNat 128 (joinBits 8 ((bs.drop (16 * j)).take 16)) : BitVec 128)
    (∀ r ∈ recs, quantOk r = true) →
    StepsTo ((s.here.drainParts h acc a x true recs).step s.focus.1) (s.here.drainParts h acc a x true []).rows 0 t u →
    s.mdrain i b acc a (some e) x = s.eConclude s.focus.1 .m i h (.issued u (s.here.drainParts h acc a x true []).rows) := by
  intro recs hrecs hsteps
  have hgood : (recs.any fun r => !quantOk r) = false := by simpa using hrecs
  have hrun := runCommand_atHead k free hem hdbg hsteps
  have hparam : ((operandTile e).isSome || (s.here.descAt e).may 5) = true := by simpa using hpar
  simp only [recs, Cell.drainParts, State.here] at hok hread hgood hrun hparam
  refine (mIssue_atHead k free wf hshut).trans ?_
  simp only [Option.isSome_some, hok, hparam, hread, hgood, hrun, Bool.and_true, Bool.not_true, Bool.false_eq_true, if_false]
  rfl

end

/-! ### `MRSUM` -/

/-- One step of `MRSUM`: the four k-rows of `o` from row `4 * k` on, with the zero point `z`, go into `CORR` (R248). -/
def mrsumStep (c : Nat) (o : MOp) (z : Int) (f : BitVec 1) (k : Nat) (v : State) : Acc State :=
  (v.readRows (v.whoOf c (.stream .m)) (((List.range 4).filter fun j => 4 * k + j < o.d.dim 1).map fun j => o.req 0 (4 * k + j) 64) true).bind
    fun (v, rows) => .ok (v.modCell c fun x => { x with m := { x.m with corr := corrStep z o.fmt (if k = 0 ∧ f = 0 then 0 else x.m.corr) rows } })

/-- The issue checks of `MRSUM` pass: `pb` is a tensor of the integer group with fewer than 2^26 k-rows, `pa` gives the zero point (R248). -/
structure MrsumChecks (x : Cell) (a e : BitVec 9) : Prop where
  tensor : (x.mOperand e 5 0 0).tile = none
  ok : (x.mOperand e 5 0 0).ok 3 0 true = true
  group : groupOf (x.mOperand e 5 0 0).fmt = some 1
  rows : (x.mOperand e 5 0 0).d.dim 1 < 2 ^ 26
  param : (operandTile a).isSome = true ∨ (x.descAt a).may 5 = true

/-- A row sum whose checks pass and whose zero point is read issues with all its k-rows summed (R248). -/
theorem mrsum_issues {s t u : State} {h : Entry} {b : BitVec 4} {a e : BitVec 9} {f : BitVec 1} {bs : List Nat} (k : AtHead s .m h)
    (free : Free s .m b) (wf : (Instr.mrsum b a e f).wellFormed = true) (hshut : s.here.closedTile .m [a, e] = none)
    (checks : MrsumChecks s.here a e) (hread : s.paramRead s.focus.1 a 4 = .ok (t, bs)) (hem : (t.cell s.focus.1).em = s.here.em)
    (hdbg : (t.cell s.focus.1).dbg = s.here.dbg) :
    let o := s.here.mOperand e 5 0 0
    StepsTo (mrsumStep s.focus.1 o (sextNat 32 (joinBits 8 bs)) f) ((o.d.dim 1 + 3) / 4) 0 t u →
    exec (.mrsum b a e f) s = .next (s.eConclude s.focus.1 .m (.mrsum b a e f) h (.issued u ((o.d.dim 1 + 3) / 4))) := by
  intro o hsteps
  obtain ⟨htensor, hok, hgroup, hrows, hpar⟩ := checks
  have hrun := runCommand_atHead k free hem hdbg hsteps
  have hparam : ((operandTile a).isNone && !(s.here.descAt a).may 5) = false := by
    rcases hpar with hp | hp
    · rw [← Option.not_isSome, hp]; rfl
    · rw [hp]; exact Bool.and_false _
  have hfew : ¬2 ^ 26 ≤ (s.here.mOperand e 5 0 0).d.dim 1 := Nat.not_le_of_lt hrows
  refine congrArg Host.Outcome.next ((mIssue_atHead k free wf hshut).trans (congrArg (s.eConclude s.focus.1 .m (.mrsum b a e f) h) ?_))
  simp only [htensor, hok, hgroup, hfew, hparam, hread, Option.isSome_none, Bool.not_true, Bool.or_self, ne_eq, not_true_eq_false,
    decide_false, Bool.false_eq_true, if_false]
  exact hrun

/-- Settles O30: each drain is one call of `State.mdrain` (`mdrain_issues`, `mdrainQ_issues`), the row sum is `mrsum_issues`. -/
theorem rowSumsAndDrains : Obligations.RowSumsAndDrains := by
  intro s t u h b acc a e f x xo bs k free c D
  refine ⟨fun hshut => ⟨fun wf hok hsteps => ?plain, fun wf hok hsteps => ?options⟩, ?quantised, ?sums⟩
  case plain => exact congrArg Host.Outcome.next (mdrain_issues k free wf hshut hok hsteps)
  case options => exact congrArg Host.Outcome.next (mdrain_issues k free wf hshut hok hsteps)
  case quantised =>
    intro x hshut wf hok hpar hread hem hdbg recs hrecs hsteps
    exact congrArg Host.Outcome.next (mdrainQ_issues k free wf hshut hok hpar hread hem hdbg hrecs hsteps)
  case sums =>
    intro o hshut wf htensor hok hgroup hrows hpar hread hem hdbg hsteps
    exact mrsum_issues k free wf hshut ⟨htensor, hok, hgroup, hrows, hpar⟩ hread hem hdbg hsteps

end Sys2Proof.Machine

/-! The control commands of M and C at their heads (O31). -/

namespace Sys2Proof.Machine

/-! ### A control command that nothing of its stream precedes -/

theorem afterAll_of_idle {s : State} {c : Nat} {st : Stream} (h : ((s.cell c).engine st).inprog = []) (f : EFin) : s.afterAll c st f = f := by
  rw [State.afterAll, h]
  rfl

section
variable {s : State} {c : Nat} {st : Stream} (hidle : ((s.cell c).engine st).inprog = [])
include hidle

theorem engineSignal_performed (hd : s.performedDie (c, .stream st) = true) (k : BitVec 5) (n : BitVec 12) :
    s.engineSignal c st k n = .done (s.modCell c fun x => x.signal k.toNat n.toNat) := by
  rw [State.engineSignal, afterAll_of_idle hidle, if_pos hd]

/-- The wait ends where the token has its count and no earlier stream takes it (R36, R255). -/
theorem engineWait_served {k : BitVec 5} {n : BitVec 12} (hn : n.toNat ≤ (s.cell c).token k.toNat) (ht : s.tokenTaken c st k.toNat = false) :
    s.engineWait c st k n = .done (s.modCell c fun x => x.consume k.toNat n.toNat) := by
  have hcount : ¬(s.cell c).token k.toNat < n.toNat := Nat.not_lt_of_le hn
  rw [State.engineWait, afterAll_of_idle hidle]
  simp only [hcount, ht, decide_false, Bool.or_self, Bool.false_eq_true, if_false]

/-- The pass of a tile that the stream holds, or its claim of a free one (R99, R256). -/
theorem engineShut_passes {t : BitVec 7} {code : BitVec 3} (hd : s.performedDie (c, .stream st) = true)
    (ht : (s.cell c).shutter t.toNat = agentCode (.stream st) ∨
      (s.cell c).shutter t.toNat = codeFree ∧ code = agentCode (.stream st) ∧ ((s.cell c).engine st).wantsOwn = false) :
    s.engineShut c st t code = .done (s.modCell c fun x => x.setShutter t.toNat code) := by
  have hpass : (s.cell c).enginePass st t.toNat code = some ((s.cell c).setShutter t.toNat code) :=
    if_pos (ht.imp_right fun ⟨h5, hown, hw⟩ => ⟨h5, hown, by rw [hw]; rfl⟩)
  rw [State.engineShut, afterAll_of_idle hidle, hd, hpass]
  rfl

end

/-- A command at a head, well-formed and permitted its bound, whose own operation finishes by doing `g` to the cell leaves the queue with
exactly that effect. -/
theorem leave_of_done {s : State} {st : Stream} {h : Entry} {i : Instr} {f : EForm} {body : Nat → Entry → State → EFin} {g : Cell → Cell}
    (k : AtHead s st h) (hv : st ≠ .v) (wf : i.wellFormed = true) (hb : f.unbounded = true → s.here.s.super = true)
    (hd : body s.focus.1 h s = .done (s.modCell s.focus.1 g)) : s.eIssue st i f body = s.leave st g := by
  rw [eIssue_atHead k wf hb fun h => absurd h hv, hd]
  simp only [State.eConclude, State.leave, modCell_modCell _ _ _ _ k.cell, modCell_cycle]

/-! ### The commands of M and of C -/

/-- `i` executes at the head of stream `st` by doing `g` to the cell and leaving the queue. -/
abbrev Leaves (s : State) (st : Stream) (i : Instr) (g : Cell → Cell) : Prop := exec i s = .next (s.leave st g)

section
variable {s : State} {h : Entry} {st : Stream} {b : BitVec 4} {i : Instr} (at_ : AtHead s st h) (free : Free s st b) (hv : st ≠ .v)
  (wf : i.wellFormed = true)
include at_ free hv wf

theorem signal_leaves {k : BitVec 5} {n : BitVec 12} (hx : exec i s = .next (s.eIssue st i {} fun c _ s => s.engineSignal c st k n))
    (hd : s.performedDie (s.focus.1, .stream st) = true) : Leaves s st i fun x => x.signal k.toNat n.toNat :=
  hx.trans (congrArg Host.Outcome.next (leave_of_done at_ hv wf nofun (engineSignal_performed free.idle hd k n)))

/-- A command that runs under bound `b` and finishes by doing `g`. -/
theorem bounded_leaves {body : Nat → Entry → State → EFin} {g : Cell → Cell} (hx : exec i s = .next (s.eIssue st i { unbounded := b = 15 } body))
    (hd : body s.focus.1 h s = .done (s.modCell s.focus.1 g)) : Leaves s st i g :=
  hx.trans (congrArg Host.Outcome.next (leave_of_done at_ hv wf (fun hu => free.bound (of_decide_eq_true hu)) hd))

theorem wait_leaves {k : BitVec 5} {n : BitVec 12} (hx : exec i s = .next (s.eIssue st i { unbounded := b = 15 } fun c _ s => s.engineWait c st k n))
    (hn : n.toNat ≤ s.here.token k.toNat) (ht : s.tokenTaken s.focus.1 st k.toNat = false) :
    Leaves s st i fun x => x.consume k.toNat n.toNat :=
  bounded_leaves at_ free hv wf hx (engineWait_served free.idle hn ht)

theorem shut_leaves {t : BitVec 7} {code : BitVec 3}
    (hx : exec i s = .next (s.eIssue st i { unbounded := b = 15 } fun c _ s => s.engineShut c st t code))
    (hd : s.performedDie (s.focus.1, .stream st) = true)
    (ht : s.here.shutter t.toNat = agentCode (.stream st) ∨
      s.here.shutter t.toNat = codeFree ∧ code = agentCode (.stream st) ∧ (s.here.engine st).wantsOwn = false) :
    Leaves s st i fun x => x.setShutter t.toNat code :=
  bounded_leaves at_ free hv wf hx (engineShut_passes free.idle hd ht)

/-- The end of a stream, and a configuration, have their effect once nothing precedes them (R252, R257). -/
theorem afterAll_leaves {g : Cell → Cell}
    (hx : exec i s = .next (s.eIssue st i { unbounded := b = 15 } fun c _ s => s.afterAll c st (.done (s.modCell c g)))) : Leaves s st i g :=
  bounded_leaves at_ free hv wf hx (afterAll_of_idle free.idle _)

end

/-- A loop command begins with nothing done: fetch has resolved it (R254). -/
theorem mloop_begins {s : State} {h : Entry} (at_ : AtHead s .m h) {l : BitVec 6} (hl : l ≠ 0) (n : BitVec 8) (x : BitVec 3) (sc : BitVec 4) :
    Begins s .m h (.mloop l n x sc) s 1 :=
  congrArg Host.Outcome.next (eIssue_atHead (i := .mloop l n x sc) at_ (isNone_ck.mpr hl) nofun nofun)

/-- So does C's, which finds room among the commands in progress (R259, R283). -/
theorem cloop_begins {s : State} {h : Entry} {b : BitVec 4} (at_ : AtHead s .c h) (free : Free s .c b) {l : BitVec 6} (hl : l ≠ 0) (n : BitVec 8)
    (x : BitVec 3) (sc : BitVec 4) : Begins s .c h (.cloop l n x sc) s 1 := by
  have hroom : (s.cell s.focus.1).ec.inprog = [] := free.idle
  refine congrArg Host.Outcome.next ((eIssue_atHead (i := .cloop l n x sc) (f := {}) at_ (isNone_ck.mpr hl) nofun nofun).trans ?_)
  simp only [hroom]
  rfl

/-- Settles O31: every command but a loop leaves the queue by its effect (`signal_leaves`, `wait_leaves`, `shut_leaves`, `afterAll_leaves`);
a loop begins (`mloop_begins`, `cloop_begins`). -/
theorem engineControls : Obligations.EngineControls := by
  intro s h st b k n t w c i x l m sc at_ free hst does own sig wait shut loop
  have hv : st ≠ .v := by rcases hst with rfl | rfl <;> decide
  have hown : own = agentCode (.stream st) := by rcases hst with rfl | rfl <;> rfl
  have hle : own ≤ 5 := by rcases hst with rfl | rfl <;> decide
  have hcode : ∀ c ≤ 5, (shut c).wellFormed = true := fun c hc => by rcases hst with rfl | rfl <;> exact isNone_ck.mpr hc
  refine ⟨fun hd => ⟨signal_leaves at_ free hv ?_ ?_ hd, fun hc ht => shut_leaves at_ free hv (hcode c hc) ?_ hd (.inl (ht.trans hown)),
      fun h5 hw => shut_leaves at_ free hv (hcode own hle) ?_ hd (.inr ⟨h5, hown, hw⟩)⟩,
    wait_leaves at_ free hv ?_ ?_, fun hl => ?loop, afterAll_leaves at_ free hv ?_ ?_, fun hm => ?mcfg⟩
  case loop =>
    rcases hst with rfl | rfl
    · exact mloop_begins at_ hl m i sc
    · exact cloop_begins at_ free hl m i sc
  case mcfg =>
    subst hm
    exact afterAll_leaves (i := .mcfg b w x) at_ free hv rfl rfl
  -- What is left is the instruction of each of the two streams: it is well-formed, and `exec` issues it.
  all_goals
    rcases hst with rfl | rfl
    · rfl
    · rfl

end Sys2Proof.Machine

/-! The commands of C that take their plan and run its steps. This is what of O33 holds: all but the clause of `FILL`, which lacks the instruction's
well-formedness and is false without it (`not_copyAndDecode`). -/

namespace Sys2Proof.Machine

/-! ### A command of C at its head -/

/-- A command of C whose tiles are C's does its own operation, when no command is in progress (R98, R259). -/
theorem cIssue_atHead {s : State} {h : Entry} {i : Instr} {b : BitVec 4} {ub : Bool} {os : List (BitVec 9)} {body : Nat → Entry → State → EFin}
    (k : AtHead s .c h) (free : Free s .c b) (wf : i.wellFormed = true) (hb : ub = true → s.here.s.super = true)
    (ho : s.here.closedTile .c os = none) :
    s.cIssue i ub os body = s.eConclude s.focus.1 .c i h (body s.focus.1 h s) := by
  have hclosed : (s.cell s.focus.1).closedTile .c os = none := ho
  have hidle : (s.cell s.focus.1).ec.inprog = [] := free.idle
  have hroom : ¬4 ≤ (s.cell s.focus.1).ec.inprog.length := by rw [hidle]; decide
  rw [State.cIssue, eIssue_atHead k wf hb nofun]
  simp only [hclosed, hroom, decide_false, Option.isSome_none, Bool.or_self, Bool.false_eq_true, if_false]

/-- The bound of a command is one that it may have (R114). -/
theorem Free.permits {s : State} {st : Stream} {b : BitVec 4} (free : Free s st b) (h : decide (b = 15) = true) : s.here.s.super = true :=
  free.bound (of_decide_eq_true h)

/-- A check that passes leaves the command's own operation. -/
theorem checked {α : Type} {ok : Bool} {a b : α} (h : ok = true) : (if !ok then a else b) = b :=
  if_neg (by rw [h]; decide)

/-- A command of C that runs `n` steps issues with all of them performed, when they lead to `u`. -/
theorem cCommand_issues {s u : State} {h : Entry} {i : Instr} {b : BitVec 4} {ub : Bool} {os : List (BitVec 9)} {n : Nat}
    {body : Nat → Entry → State → EFin} {step : Nat → State → Acc State} (k : AtHead s .c h) (free : Free s .c b) (wf : i.wellFormed = true)
    (hb : ub = true → s.here.s.super = true) (ho : s.here.closedTile .c os = none) (hbody : body s.focus.1 h s = s.runCommand s.focus.1 .c n step)
    (hsteps : StepsTo step n 0 s u) : s.cIssue i ub os body = s.eConclude s.focus.1 .c i h (.issued u n) := by
  rw [cIssue_atHead k free wf hb ho, hbody, runCommand_of_stepsTo k.whole free.running hsteps]

/-- Operands that name no tile wait on no shutter. -/
theorem closedTile_of_tensor {x : Cell} {st : Stream} {d : BitVec 9} (h : (operandTile d).isNone = true) : x.closedTile st [d] = none := by
  rw [Cell.closedTile, List.filterMap_cons_none (Option.isNone_iff_eq_none.mp h)]
  rfl

/-! ### The commands of one plan -/

section
variable {s u : State} {h : Entry} {i : Instr} {b : BitVec 4} {d e : BitVec 9} (k : AtHead s .c h) (free : Free s .c b)
  (wf : i.wellFormed = true) (ho : s.here.closedTile .c [d, e] = none)
include k free wf ho

/-- A copy whose region passes its checks issues with its rows copied (R264 to R267). -/
theorem copy_issues {ub : Bool} {t : BitVec 2} {q : CopyQ} (hb : ub = true → s.here.s.super = true) (hok : (s.here.copyPlan h d e t q).ok = true)
    (hsteps : StepsTo ((s.here.copyPlan h d e t q).step s.focus.1) (s.here.copyPlan h d e t q).rows 0 s u) :
    s.copy i ub d e t q = s.eConclude s.focus.1 .c i h (.issued u (s.here.copyPlan h d e t q).rows) :=
  cCommand_issues k free wf hb ho (checked hok) hsteps

/-- A gather or scatter whose list and region pass their checks issues with its rows moved (R269, R270). -/
theorem moveRows_issues {g : Bool} {q : RowQ} (hok : (s.here.movePlan h g d e q).ok = true)
    (hsteps : StepsTo ((s.here.movePlan h g d e q).step s.focus.1) (s.here.movePlan h g d e q).count 0 s u) :
    s.moveRows i g b d e q = s.eConclude s.focus.1 .c i h (.issued u (s.here.movePlan h g d e q).count) :=
  cCommand_issues k free wf free.permits ho (checked hok) hsteps

/-- An encoding whose operands pass their checks issues with its structure written (R273, R274). -/
theorem enc_issues {q : EncQ} (hok : (s.here.encPlan h d e q).ok = true)
    (hsteps : StepsTo ((s.here.encPlan h d e q).step s.focus.1) (s.here.encPlan h d e q).steps 0 s u) :
    s.enc i b d e q = s.eConclude s.focus.1 .c i h (.issued u (s.here.encPlan h d e q).steps) :=
  cCommand_issues k free wf free.permits ho (checked hok) hsteps

/-! ### `DEC` -/

/-- A decoding through a codebook bank issues with its rows written (R276). -/
theorem dec_vq_issues {q : DecQ} (hok : (s.decPlan s.focus.1 h d e q).ok = true) (hblk : (s.decPlan s.focus.1 h d e q).d.blk = 3)
    (hsteps : StepsTo ((s.decPlan s.focus.1 h d e q).step s.focus.1) (s.decPlan s.focus.1 h d e q).rows 0 s u) :
    s.dec i b d e q = s.eConclude s.focus.1 .c i h (.issued u (s.decPlan s.focus.1 h d e q).rows) :=
  cCommand_issues k free wf free.permits ho ((checked hok).trans (if_pos hblk)) hsteps

/-- A decoding of a packed source with a valid header issues with its rows written, from the state in which the header has been read
(R209, R210, R276). -/
theorem dec_packed_issues {q : DecQ} {t : State} {hb : List Nat} {p : Packed} (hok : (s.decPlan s.focus.1 h d e q).ok = true) :
    let m := s.decPlan s.focus.1 h d e q
    m.d.blk ≠ 3 → s.engineBytes s.focus.1 .c m.d.base 32 = .ok (t, hb) → (t.cell s.focus.1).ec = s.here.ec → (t.cell s.focus.1).dbg = s.here.dbg →
    (if m.d.blk = 1 then bm8Header m.d 1 hb else (csrHeader m.d hb).map fun p => { p with opnd := 1 }) = some p →
    let n := if m.d.blk = 1 then (m.rows + 7) / 8 else m.rows
    StepsTo ({ m with p := some p }.step s.focus.1) n 0 t u → s.dec i b d e q = s.eConclude s.focus.1 .c i h (.issued u n) := by
  intro m hblk hread hec hdbg hheader n hsteps
  have hrun : t.runCommand s.focus.1 .c n ({ m with p := some p }.step s.focus.1) = .issued u n :=
    runCommand_of_stepsTo ((congrArg Engine.nextStep hec).trans k.whole) ((congrArg Debug.stepping hdbg).trans free.running) hsteps
  simp only [m, n] at hblk hread hheader hrun
  refine (cIssue_atHead k free wf free.permits ho).trans (congrArg (s.eConclude s.focus.1 .c i h) ((checked hok).trans ((if_neg hblk).trans ?_)))
  simp only [hread, hheader, hrun]
  rfl

end

/-! ### `CLONE`, `FILL` and `CBLOAD` -/

/-- The destination of a clone passes its checks: a compact tensor, written by C, whose array lies in DRAM (R272). -/
structure CloneTarget (s : State) (d : BitVec 9) : Prop where
  tensor : (operandTile d).isNone = true
  compact : (s.here.descAt d).compact = true
  writable : (s.here.descAt d).may 1 = true
  place : s.inDram (s.whoOf s.focus.1 (.stream .c)) (s.here.descAt d).base (((s.here.descAt d).arrayBits + 7) / 8) = .ok true

/-- The source of a clone matches its destination: a compact tensor, read by C, of its format and shape, whose array lies in DRAM (R272). -/
structure CloneSource (s : State) (d e : BitVec 9) : Prop where
  tensor : (operandTile e).isNone = true
  compact : (s.here.descAt e).compact = true
  readable : (s.here.descAt e).may 0 = true
  fmt : (s.here.descAt e).fmt = (s.here.descAt d).fmt
  dims : (s.here.descAt e).dims = (s.here.descAt d).dims
  place : s.inDram (s.whoOf s.focus.1 (.stream .c)) (s.here.descAt e).base (((s.here.descAt d).arrayBits + 7) / 8) = .ok true

/-- The steps of `FILL` of tensor `d` (R271). -/
def Desc.fillCount (d : Desc) : Nat := (fmtWidth (fullFmt d.fmt) * (d.dim 0 * d.rowCount) + 2047) / 2048

section
variable {s u : State} {h : Entry} {b : BitVec 4} {d : BitVec 9} (k : AtHead s .c h) (free : Free s .c b)
include k free

theorem clone_issues {e : BitVec 9} (wf : (Instr.clone b d e).wellFormed = true) (ho : s.here.closedTile .c [d, e] = none)
    (hd : CloneTarget s d) (he : CloneSource s d e)
    (hsteps : StepsTo (cloneStep s.focus.1 (s.here.descAt d) (some (s.here.descAt e))) (((s.here.descAt d).arrayBits + 65535) / 65536) 0 s u) :
    Begins s .c h (.clone b d e) u (((s.here.descAt d).arrayBits + 65535) / 65536) := by
  obtain ⟨hdt, hdc, hdw, hdp⟩ := hd
  obtain ⟨het, hec, her, hef, hem, hep⟩ := he
  refine congrArg Host.Outcome.next (cCommand_issues k free wf free.permits ho ?_ hsteps)
  simp only [State.here] at hdc hdw hdp hec her hef hem hep
  simp [hdt, hdc, hdw, hdp, het, hec, her, hef, hem, hep, pickTrap]

theorem cloneZero_issues (wf : (Instr.cloneZero b d).wellFormed = true) (hd : CloneTarget s d)
    (hsteps : StepsTo (cloneStep s.focus.1 (s.here.descAt d) none) (((s.here.descAt d).arrayBits + 65535) / 65536) 0 s u) :
    Begins s .c h (.cloneZero b d) u (((s.here.descAt d).arrayBits + 65535) / 65536) := by
  obtain ⟨hdt, hdc, hdw, hdp⟩ := hd
  refine congrArg Host.Outcome.next (cCommand_issues k free wf free.permits (closedTile_of_tensor hdt) ?_ hsteps)
  simp only [State.here] at hdc hdw hdp
  simp [hdt, hdc, hdw, hdp, pickTrap]

/-- A fill of a dense tensor that C may write issues with its word written (R271). -/
theorem fill_tensor_issues {w : Word} (wf : (Instr.fill b d w).wellFormed = true) (hd : (operandTile d).isNone = true)
    (hw : (s.here.descAt d).may 1 = true) (hblk : (s.here.descAt d).blk = 0)
    (hsteps : StepsTo (fillStep s.focus.1 none (s.here.descAt d) w) (s.here.descAt d).fillCount 0 s u) :
    Begins s .c h (.fill b d w) u (s.here.descAt d).fillCount := by
  have ht : operandTile d = none := Option.isNone_iff_eq_none.mp hd
  refine congrArg Host.Outcome.next (cCommand_issues k free wf free.permits (closedTile_of_tensor hd) ?_ hsteps)
  simp only [State.here] at hw hblk
  simp [ht, hw, hblk, State.here, Desc.fillCount]

/-- A load of a codebook bank from a source that passes its checks issues with the bank loaded (R277). -/
theorem cbload_issues {bank : BitVec 1} {te : BitVec 8} {first n : BitVec 4} (wf : (Instr.cbload b bank te first n).wellFormed = true) :
    let c := s.focus.1; let raw := s.here.tensors.getD te.toNat 0; let count := if n = 0 then 256 else 16 * n.toNat
    (descOf raw).bookOk count = true →
    StepsTo (fun _ s => (s.loadBook (s.whoOf c (.stream .c)) bank.toNat (descOf raw) (16 * first.toNat) count).bind fun (s, sb) =>
      .ok ((s.cAccount c sb 0).modCell c fun y =>
        { y with c := { y.c with lastLoad := y.c.lastLoad.set bank.toNat (some ⟨raw, 16 * first.toNat, count⟩) } })) 1 0 s u →
    Begins s .c h (.cbload b bank te first n) u 1 := by
  intro c raw count hok hsteps
  refine congrArg Host.Outcome.next (cCommand_issues k free wf free.permits rfl ?_ hsteps)
  exact (afterAll_of_idle free.idle _).trans (checked hok)

end

/-- The second half of O33: each form of `DEC` is one call of `State.dec` (`dec_vq_issues`, `dec_packed_issues`). -/
theorem decRuns : Claims.DecRuns := by
  intro s t u h b d e x i q hb p k free wf hform ho c m hok
  have hx : exec i s = .next (s.dec i b d e q) := by
    rcases hform with ⟨rfl, rfl⟩ | ⟨rfl, rfl⟩
    · rfl
    · rfl
  exact ⟨fun hblk hsteps => hx.trans (congrArg Host.Outcome.next (dec_vq_issues k free wf ho hok hblk hsteps)),
    fun hblk hread hec hdbg hheader hsteps =>
      hx.trans (congrArg Host.Outcome.next (dec_packed_issues k free wf ho hok hblk hread hec hdbg hheader hsteps))⟩

end Sys2Proof.Machine

/-! A command of C that is not well-formed never begins, and `FILL` of a reserved operand field is one (O33). -/

namespace Sys2Proof.Machine

/-! ### A command of C that begins, and one that is not well-formed -/

/-- A trap of C at a head that has nothing to do with memory stops the stream there, and keeps the queue (R307). -/
theorem eConclude_trap {s : State} {c : Nat} {i : Instr} {h : Entry} {t : TrapInfo} (hc : c < s.cells.length) (hn : t.cause ≠ cNOTPRESENT)
    (hu : t.cause ≠ cUNCORR) (hp : t.cause ≠ cPOISON) :
    s.eConclude c .c i h (.trap s t none) = s.setCell c (((s.cell c).modEngine .c fun g =>
      { g with headSince := none, waiting := false, wantsOwn := false, table := none }).stoppedBy .c h t) := by
  refine (engineTrap_eq hn hu hp (.inr (by decide))).trans ?_
  rw [cell_modCell _ _ _ hc]
  exact setCell_setCell ..

section
variable {s : State} {h : Entry} {i : Instr} {f : EForm} {body : Nat → Entry → State → EFin} (k : AtHead s .c h) (wf : i.wellFormed = false)
include k wf

/-- A command that is not well-formed raises ILLEGAL at the head (R110). -/
theorem eIssue_illFormed : s.eIssue .c i f body = s.eConclude s.focus.1 .c i h (.trap s ⟨cILLEGAL, wordInfo h.word 0⟩ none) := by
  have hh : (s.cell s.focus.1).head .c = some h := (head_of_queue k.noSlot).trans k.head
  have hr : (s.cell s.focus.1).headRuns .c = true := headRuns_of_running k.noSlot k.started k.running
  simp only [State.eIssue, hh, hr, k.free, wf, Bool.not_true, Bool.not_false, Bool.false_eq_true, if_false, if_true]

/-- It leaves nothing in progress, where a command that begins is in progress itself. -/
theorem not_begins_of_illFormed {b : BitVec 4} (free : Free s .c b) (hx : exec i s = .next (s.eIssue .c i f body)) (u : State) (n : Nat) :
    ¬Begins s .c h i u n := by
  intro hb
  have hc := k.cell
  have heq := hx.symm.trans hb
  rw [eIssue_illFormed k wf, eConclude_trap hc (show (0x01 : BitVec 8) ≠ 0x08 by decide) (show (0x01 : BitVec 8) ≠ 0x30 by decide)
    (show (0x01 : BitVec 8) ≠ 0x0A by decide), eConclude_issued] at heq
  have heq := Host.Outcome.next.inj heq
  have hlen : s.cells.length = u.cells.length := by simpa using congrArg (fun t => t.cells.length) heq
  have hin := congrArg (fun t => (t.cell s.focus.1).ec.inprog) heq
  simp only [cell_setCell _ _ _ hc, cell_modCell _ _ _ (hlen ▸ hc)] at hin
  have hidle : (s.cell s.focus.1).ec.inprog = [] := free.idle
  exact List.append_ne_nil_of_right_ne_nil _ (List.cons_ne_nil _ _) (hin.symm.trans hidle)

end

/-! ### `FILL` of a reserved operand field -/

/-- `FILL` of the operand field 384, which begins with `0b11` (R118). -/
def reservedFill : Instr := .fill 3 384 7

/-- A dense tensor of 4 rows of 32 UINT8 elements at address 0, which C may write (R124). -/
def rowsOfBytes : BitVec 512 :=
  BitVec.ofNat 512 (6 * 2 ^ 52 + 2 ^ 56 + 2 ^ 116 + 2 * 2 ^ 180 + 32 * 2 ^ 256 + 4 * 2 ^ 288 + 2 ^ 320 + 2 ^ 352 + 32 * 2 ^ 384)

/-- The entry that the words of `reservedFill` leave at a head. -/
def reservedEntry : Entry := { pc := 64, word := (encode reservedFill).getD 0 0, ext := (encode reservedFill).getD 1 0 }

/-- C of cell 0 runs with `reservedFill` at its head, tensor 128, which the low 8 bits of the field name, is `rowsOfBytes`, and the page at
address 0 is HBM. -/
def reservedFillState : State :=
  (State.reset.modCell 0 fun x => { x with
    ec := { x.ec with started := true, queue := [reservedEntry] }
    tensors := x.tensors.set 128 rowsOfBytes
    pageRegs := List.replicate 7 (some ⟨0, 0, true, 31⟩, none) }).aim 0 (.stream .c)

theorem reservedFillState_atHead : AtHead reservedFillState .c reservedEntry := by
  constructor <;> decide +kernel

theorem reservedFillState_free : Free reservedFillState .c 3 := by
  constructor <;> decide +kernel

/-- A step that answers leads to some state. -/
def Acc.answers {α : Type} (a : Acc α) : Bool :=
  match a with
  | .ok _ => true
  | _ => false

theorem exists_of_answers {α : Type} {a : Acc α} (h : a.answers = true) : ∃ x, a = .ok x := by
  cases a with
  | ok x => exact ⟨x, rfl⟩
  | trap t => cases h
  | stall => cases h

/-- The only step of the fill finds its 128 bytes at address 0 writable. -/
theorem reservedFillState_steps : ∃ u, StepsTo (fillStep reservedFillState.focus.1 none (reservedFillState.here.descAt 384) 7)
    (reservedFillState.here.descAt 384).fillCount 0 reservedFillState u := by
  have hcount : (reservedFillState.here.descAt 384).fillCount = 1 := by decide +kernel
  obtain ⟨u, hu⟩ := exists_of_answers (a := fillStep reservedFillState.focus.1 none (reservedFillState.here.descAt 384) 7 0 reservedFillState) (by decide +kernel)
  rw [hcount]
  exact ⟨u, u, hu, rfl⟩

/-- Where C has `reservedFill` at its head and the tensor that its low bits name passes the checks, the clause of `CopyCommands` for `FILL`
would have it begin. -/
theorem not_copyCommands_of_reservedFill {s : State} {h : Entry} (k : AtHead s .c h) (free : Free s .c 3)
    (hmay : (s.here.descAt 384).may 1 = true) (hblk : (s.here.descAt 384).blk = 0)
    (hsteps : ∃ u, StepsTo (fillStep s.focus.1 none (s.here.descAt 384) 7) (s.here.descAt 384).fillCount 0 s u) : ¬Claims.CopyCommands := by
  intro hclaim
  obtain ⟨u, hsteps⟩ := hsteps
  obtain ⟨-, -, hfill, -⟩ := hclaim s u h 3 384 0 0 7 zeroCopy ⟨0, 0, 0, 0, 0, 0⟩ ⟨0, 0⟩ 0 0 0 0 k free
  exact not_begins_of_illFormed k (i := reservedFill) rfl free rfl u _ (hfill (by decide) hmay hblk hsteps)

/-- Refutes O33: its clause for `FILL` lacks the test of R110. The operand field 384 names no tile, and the tensor that its low 8 bits name
passes the checks, but a field that begins with `0b11` is reserved (R118): the command raises ILLEGAL and never begins
(`not_begins_of_illFormed`). -/
theorem not_copyAndDecode : ¬ Obligations.CopyAndDecode := by
  have hmay : (reservedFillState.here.descAt 384).may 1 = true := by decide +kernel
  have hblk : (reservedFillState.here.descAt 384).blk = 0 := by decide +kernel
  have hnot := not_copyCommands_of_reservedFill reservedFillState_atHead reservedFillState_free hmay hblk reservedFillState_steps
  exact fun hclaims => hnot hclaims.1

end Sys2Proof.Machine

/-! Rows of whole bytes in the cell's own scratchpad, as commands of C read and write them (R48, R259, R262). -/

namespace Sys2Proof.Machine

/-! ### Bytes and the numbers that they join to -/

/-- Reading bytes one by one from the number that they join to. -/
theorem map_bitsOf_leNat (l : List Byte) : (List.range l.length).map (bitsOf (leNat l) 0 8) = l.map BitVec.toNat := by
  induction l with
  | nil => rfl
  | cons b r ih =>
    have hb : b.toNat < 256 := b.isLt
    have hhead : bitsOf (leNat (b :: r)) 0 8 0 = b.toNat := by
      simp only [bitsOf, bitsAt, leNat]; omega
    have htail : ∀ e, bitsOf (leNat (b :: r)) 0 8 (e + 1) = bitsOf (leNat r) 0 8 e := by
      intro e
      have hpow : 2 ^ (0 + 8 * (e + 1)) = 256 * 2 ^ (0 + 8 * e) := by rw [Nat.mul_succ, ← Nat.add_assoc, Nat.pow_add, Nat.mul_comm]
      have hdiv : (b.toNat + 256 * leNat r) / 256 = leNat r := by omega
      simp only [bitsOf, bitsAt, leNat]
      rw [hpow, ← Nat.div_div_eq_div_mul, hdiv]
    simp only [List.length_cons, List.range_succ_eq_map, List.map_cons, List.map_map, hhead]
    exact congrArg (b.toNat :: ·) ((List.map_congr_left fun e _ => htail e).trans ih)

theorem joinBits_toNat (l : List Byte) : joinBits 8 (l.map BitVec.toNat) = leNat l := by
  induction l with
  | nil => rfl
  | cons b r ih =>
    have hb : b.toNat % 2 ^ 8 = b.toNat := Nat.mod_eq_of_lt b.isLt
    show b.toNat % 2 ^ 8 + 2 ^ 8 * joinBits 8 (r.map BitVec.toNat) = leNat (b :: r)
    rw [ih, hb]
    rfl

theorem leBytes_leNat (l : List Byte) : leBytes l.length (leNat l) = l := by
  induction l with
  | nil => rfl
  | cons b r ih =>
    have hb : b.toNat < 256 := b.isLt
    have hhead : BitVec.ofNat 8 (b.toNat + 256 * leNat r) = b := BitVec.eq_of_toNat_eq (by rw [BitVec.toNat_ofNat]; omega)
    have hdiv : (b.toNat + 256 * leNat r) / 256 = leNat r := by omega
    simp only [List.length_cons, leBytes, leNat, hhead, hdiv, ih]

/-- Elements from the `k`th on. -/
theorem joinBits_div (w : Nat) (l : List Nat) (k : Nat) : joinBits w l / (2 ^ w) ^ k = joinBits w (l.drop k) := by
  induction k generalizing l with
  | zero => rw [Nat.pow_zero, Nat.div_one, List.drop_zero]
  | succ k ih =>
    cases l with
    | nil => exact Nat.zero_div _
    | cons c r =>
      have hdiv : (c % 2 ^ w + 2 ^ w * joinBits w r) / 2 ^ w = joinBits w r := by
        rw [Nat.add_mul_div_left _ _ (Nat.two_pow_pos w), Nat.div_eq_of_lt (Nat.mod_lt _ (Nat.two_pow_pos w)), Nat.zero_add]
      show (c % 2 ^ w + 2 ^ w * joinBits w r) / (2 ^ w) ^ (k + 1) = _
      rw [Nat.pow_succ', ← Nat.div_div_eq_div_mul, hdiv, ih]
      rfl

/-! ### Reading -/

@[simp] theorem readN_length (m : Memory) (a n : Nat) : (m.readN a n).length = n := by rw [Memory.readN, List.length_map, List.length_range]

theorem getD_readN (m : Memory) (a : Nat) {n k : Nat} (h : k < n) : (m.readN a n).getD k 0 = m.read (a + k) := by
  rw [Memory.readN, List.getD_eq_getElem?_getD, List.getElem?_map, List.getElem?_range h]
  rfl

/-- The row of elements of 8 bits that bytes without a bad one give. -/
def byteRow (l : List Byte) : Row := { codes := l.map BitVec.toNat, bytes := l.length }

/-- No granule is poisoned, and no register or byte holds an uncorrectable error. -/
structure MemUnit.Clean (m : MemUnit) : Prop where
  poison : m.poison = []
  uncorr : m.uncorr = []

theorem AtHead.clean {s : State} {st : Stream} {h : Entry} {b : BitVec 4} (k : AtHead s st h) (free : Free s st b) : s.mem.Clean := ⟨free.clean, k.sound⟩

/-- A step that accesses no memory by address has nothing to check there. -/
theorem spansCheck_nil (s : State) (w : Who) : s.spansCheck w [] = .ok () := rfl

section
variable {s : State} (clean : s.mem.Clean) (w : Who)
include clean

/-- `n` bytes of the cell's own scratchpad from byte `o` on. -/
theorem readReq_bytes (o n : Nat) : s.readReq w (.tile (8 * o) 8 n) = (s, byteRow ((s.cell w.cell).pad.readN o n)) := by
  have hfirst : 8 * o / 8 = o := by omega
  have hcount : (8 * o + 8 * n + 7) / 8 - o = n := by omega
  have hbit : 8 * o % 8 = 0 := by omega
  have hcodes : (List.range n).map (bitsOf (leNat ((s.cell w.cell).pad.readN o n)) 0 8) = ((s.cell w.cell).pad.readN o n).map BitVec.toNat := by
    have h := map_bitsOf_leNat ((s.cell w.cell).pad.readN o n)
    rwa [readN_length] at h
  simp only [State.readReq, hfirst, hcount, hbit, hcodes, clean.poison, clean.uncorr, List.isEmpty_nil, Bool.and_self, if_true, byteRow, readN_length]
  rfl

/-- Rows of bytes are read one after the other, and change nothing. -/
theorem foldl_readReq_bytes (os : List Nat) (n : Nat) (l : List Row) :
    (os.map fun o => Req.tile (8 * o) 8 n).foldl (fun (s, l) r => let (s, x) := s.readReq w r; (s, l ++ [x])) (s, l) =
      (s, l ++ os.map fun o => byteRow ((s.cell w.cell).pad.readN o n)) := by
  induction os generalizing l with
  | nil => exact congrArg (Prod.mk s) (List.append_nil l).symm
  | cons o r ih =>
    simp only [List.map_cons, List.foldl_cons, readReq_bytes clean, ih, List.append_assoc, List.singleton_append]

/-- The rows of bytes that one step reads; there is nothing to consume that is bad. -/
theorem readRows_bytes (os : List Nat) (n : Nat) (consume : Bool) :
    s.readRows w (os.map fun o => .tile (8 * o) 8 n) consume = .ok (s, os.map fun o => byteRow ((s.cell w.cell).pad.readN o n)) := by
  have hspans : (os.map fun o => Req.tile (8 * o) 8 n).flatMap Req.spans = [] := by simp [Req.spans]
  have htraps : (os.map fun o => byteRow ((s.cell w.cell).pad.readN o n)).flatMap Row.traps = [] := by simp [byteRow]
  have hdetect : ∀ rs : List Req, rs.foldl (fun s r => s.reqDetect w r) s = s := by
    intro rs
    induction rs with
    | nil => rfl
    | cons r rs ih =>
      have hnone : s.reqDetect w r = s := if_pos (List.isEmpty_iff.mpr clean.uncorr)
      rw [List.foldl_cons, hnone, ih]
  have hpick : (if consume then pickTrap [] else none) = none := ite_self _
  rw [State.readRows, hspans, spansCheck_nil]
  simp only [foldl_readReq_bytes clean, List.nil_append, htraps, hdetect, hpick, ite_self]

end

end Sys2Proof.Machine

/-! What a step of C that stays in its own scratchpad writes, and `COPY` and `FILL` of tiles (O32). -/

namespace Sys2Proof.Machine

/-! ### Bytes written into the scratchpad -/

theorem writeN_append (m : Memory) (a : Nat) (l r : List Byte) : m.writeN a (l ++ r) = (m.writeN a l).writeN (a + l.length) r := by
  induction l generalizing m a with
  | nil => rfl
  | cons b l ih =>
    rw [List.cons_append, Memory.writeN, Memory.writeN, ih, List.length_cons, Nat.add_assoc, Nat.add_comm 1]

theorem foldl_write_zip (m : Memory) (o : Nat) (bs : List Byte) :
    (((List.range bs.length).map (o + ·)).zip bs).foldl (fun m (o, b) => m.write o b) m = m.writeN o bs := by
  induction bs generalizing m o with
  | nil => rfl
  | cons b r ih =>
    have hshift : ((o + ·) ∘ Nat.succ) = (o + 1 + ·) := by
      funext k
      exact (Nat.succ_add_eq_add_succ o k).symm
    rw [List.length_cons, List.range_succ_eq_map, List.map_cons, List.zip_cons_cons, List.foldl_cons, List.map_map, hshift, ih]
    rfl

/-- `t` is `s` after commands of C have written the bytes `bs` from byte `o` on into the scratchpad of cell `c` and counted `sb` source and `db`
destination bytes (R262): what they may change beside are energy, free values and the marks of C's rounding and copy status. -/
structure Wrote (s t : State) (c o : Nat) (bs : List Byte) (sb db : Nat) : Prop where
  focus : t.focus = s.focus
  cells : t.cells.length = s.cells.length
  mem : t.mem = s.mem
  pad : (t.cell c).pad = (s.cell c).pad.writeN o bs
  queue : (t.cell c).ec.queue = (s.cell c).ec.queue
  inprog : (t.cell c).ec.inprog = (s.cell c).ec.inprog
  sb : (t.cell c).c.sb = (s.cell c).c.sb + BitVec.ofNat 64 sb
  db : (t.cell c).c.db = (s.cell c).c.db + BitVec.ofNat 64 db
  m : (t.cell c).m = (s.cell c).m
  v : (t.cell c).v = (s.cell c).v
  s : (t.cell c).s = (s.cell c).s

theorem Wrote.trans {s t u : State} {c o : Nat} {bs bs' : List Byte} {sb db sb' db' : Nat} (h : Wrote s t c o bs sb db)
    (h' : Wrote t u c (o + bs.length) bs' sb' db') : Wrote s u c o (bs ++ bs') (sb + sb') (db + db') where
  focus := h'.focus.trans h.focus
  cells := h'.cells.trans h.cells
  mem := h'.mem.trans h.mem
  pad := by rw [h'.pad, h.pad, writeN_append]
  queue := h'.queue.trans h.queue
  inprog := h'.inprog.trans h.inprog
  sb := by rw [h'.sb, h.sb, BitVec.add_assoc, BitVec.ofNat_add]
  db := by rw [h'.db, h.db, BitVec.add_assoc, BitVec.ofNat_add]
  m := h'.m.trans h.m
  v := h'.v.trans h.v
  s := h'.s.trans h.s

/-- After what writes no byte. -/
theorem Wrote.nil_trans {s t u : State} {c o : Nat} {bs : List Byte} {sb db sb' db' : Nat} (h : Wrote s t c o [] sb db)
    (h' : Wrote t u c o bs sb' db') : Wrote s u c o bs (sb + sb') (db + db') :=
  h.trans h'

@[simp] theorem charge_pad (x : Cell) (n : Nat) : (x.charge n).pad = x.pad := by
  rcases charge_cases x n with ⟨_, h⟩ | ⟨_, h⟩ <;> rw [h]

@[simp] theorem charge_m (x : Cell) (n : Nat) : (x.charge n).m = x.m := by
  rcases charge_cases x n with ⟨_, h⟩ | ⟨_, h⟩ <;> rw [h]

@[simp] theorem charge_ec (x : Cell) (n : Nat) : (x.charge n).ec = x.ec := by
  rcases charge_cases x n with ⟨_, h⟩ | ⟨_, h⟩ <;> rw [h]

/-- Cell `x` with bytes counted, for the task's counters and the copy status (R262). -/
def Cell.counted (x : Cell) (sb db : Nat) : Cell :=
  { x with c := { x.c with
      sb := x.c.sb + BitVec.ofNat 64 sb, db := x.c.db + BitVec.ofNat 64 db
      statSrc := x.c.statSrc + BitVec.ofNat 64 sb, statDst := x.c.statDst + BitVec.ofNat 64 db } }

theorem cAccount_eq (s : State) (c sb db : Nat) :
    s.cAccount c sb db = s.modCell c fun x => (x.counted sb db).charge (x.weights.copyB.toNat * db) := rfl

/-- A free value that is taken writes nothing. -/
theorem wrote_free (s : State) (c o n : Nat) : Wrote s { s with free := n } c o [] 0 0 :=
  ⟨rfl, rfl, rfl, rfl, rfl, rfl, (BitVec.add_zero _).symm, (BitVec.add_zero _).symm, rfl, rfl, rfl⟩

section
variable {s : State} {c : Nat} (hc : c < s.cells.length)
include hc

/-- Bytes that are counted and charged (R262, R315). -/
theorem wrote_cAccount (o sb db : Nat) : Wrote s (s.cAccount c sb db) c o [] sb db := by
  rw [cAccount_eq]
  constructor
  case focus | mem => rfl
  case cells => exact modCell_length ..
  all_goals rw [cell_modCell _ _ _ hc]
  case sb | db => rw [charge_c]; rfl
  all_goals simp [Cell.counted, Memory.writeN]

/-- The mark of a command's rounding (R53). -/
theorem wrote_rounded (o : Nat) (b : Bool) : Wrote s (s.modCell c fun x => { x with ec := x.ec.rounded b }) c o [] 0 0 := by
  constructor
  case focus | mem => rfl
  case cells => exact modCell_length ..
  all_goals rw [cell_modCell _ _ _ hc]
  case sb | db => exact (BitVec.add_zero _).symm
  all_goals rfl

end

/-- Bytes from byte `o` on, put into the scratchpad one by one. -/
theorem padPut_bytes {s : State} (clean : s.mem.Clean) (c o : Nat) {n : Nat} {bs : List Byte} (hn : bs.length = n) :
    s.padPut c (((List.range n).map (o + ·)).zip bs) = s.modCell c fun x => { x with pad := x.pad.writeN o bs } := by
  subst hn
  simp only [State.padPut, modCell_mem, clean.poison, clean.uncorr, List.isEmpty_nil, Bool.and_self, if_true, foldl_write_zip]

/-- A row of elements without a poisoned one, from byte `o` on to the end of a byte (R87, R423). -/
theorem wrote_putRow {s : State} {w : Who} (hc : w.cell < s.cells.length) (clean : s.mem.Clean) (o wd : Nat) (codes : List Nat) {n : Nat}
    (hn : wd * codes.length = 8 * n) :
    Wrote s (s.putRow w (.tile (8 * o) wd codes [])) w.cell o (leBytes n (joinBits wd codes)) 0 0 := by
  have hfirst : 8 * o / 8 = o := by omega
  have hbit : 8 * o % 8 = 0 := by omega
  have htail : 8 * n % 8 = 0 := by omega
  have hlen : (8 * n + 7) / 8 = n := by omega
  have hoffs : badOffsets 0 wd [] = [] := rfl
  have heq : s.putRow w (.tile (8 * o) wd codes []) = s.modCell w.cell fun x => { x with pad := x.pad.writeN o (leBytes n (joinBits wd codes)) } := by
    simp only [State.putRow, hfirst, hbit, hn, Nat.zero_add, htail, hlen, if_true, Nat.pow_zero, Nat.mod_one, Nat.mul_one, Nat.add_zero, hoffs,
      List.isEmpty_nil, padPut_bytes clean w.cell o (leBytes_length n _)]
  rw [heq]
  constructor
  case focus | mem => rfl
  case cells => exact modCell_length ..
  all_goals rw [cell_modCell _ _ _ hc]
  case sb | db => exact (BitVec.add_zero _).symm

/-- The bytes that such a row counts (R262). -/
theorem putBytes_row {wd o n : Nat} {codes : List Nat} (hn : wd * codes.length = 8 * n) (bad : List Bool) :
    putBytes [.tile (8 * o) wd codes bad] = n := by
  have hranges : (Put.tile (8 * o) wd codes bad).ranges = [(true, o, n)] := by
    simp only [Put.ranges, hn, List.cons.injEq, Prod.mk.injEq, true_and, and_true]
    omega
  have hunion : unionBytes [(o, n)] = n := by
    simp only [unionBytes, List.foldl_cons, List.foldl_nil]
    omega
  have hnone : unionBytes [] = 0 := rfl
  simp [putBytes, hranges, hunion, hnone]

/-- One row that a step writes and counts. -/
theorem cPut_row {s : State} {c : Nat} (hc : c < s.cells.length) (clean : s.mem.Clean) (o wd sb : Nat) (codes : List Nat) {n : Nat}
    (hn : wd * codes.length = 8 * n) :
    ∃ t, s.cPut c sb [.tile (8 * o) wd codes []] = .ok t ∧ Wrote s t c o (leBytes n (joinBits wd codes)) sb n := by
  have hput : Wrote s _ c o _ 0 0 := wrote_putRow (w := s.whoOf c (.stream .c)) hc clean o wd codes hn
  have hcount := wrote_cAccount (hput.cells ▸ hc) (o + (leBytes n (joinBits wd codes)).length) sb n
  refine ⟨_, ?_, by simpa using hput.trans hcount⟩
  rw [State.cPut, putBytes_row hn]
  rfl

/-! ### Commands whose steps have written into tiles -/

/-- A command of C that begins from `t` leaves the cell as `t` has it, with the command in progress. -/
theorem begins_here {s t : State} {h : Entry} {i : Instr} {n : Nat} (hf : t.focus = s.focus) (hc : s.focus.1 < t.cells.length)
    (hx : Begins s .c h i t n) : ∃ u, exec i s = .next u ∧ u.here = (t.cell s.focus.1).issueHead .c i h n t.cycle ∧ u.mem = t.mem := by
  refine ⟨_, hx, ?_, rfl⟩
  rw [eConclude_issued, State.here, modCell_focus, hf, cell_modCell _ _ _ hc]

/-- Such a command has left the queue and is the last in progress; of the cell it changes only the common part of stream C (R259). -/
theorem issueHead_c (x : Cell) (i : Instr) (h : Entry) (n now : Nat) :
    let z := x.issueHead .c i h n now
    z.ec.queue = x.ec.queue.drop 1 ∧ z.ec.inprog.map (·.instr) = x.ec.inprog.map (·.instr) ++ [i] ∧ ∃ g, z = { x with ec := g } :=
  ⟨rfl, List.map_append, _, rfl⟩

/-- A command of C that begins with steps that have written bytes has left the queue, and all else is as the steps left it. -/
theorem begins_of_wrote {s t : State} {h : Entry} {i : Instr} {o sb db n : Nat} {bs : List Byte} (hc : s.focus.1 < s.cells.length)
    (hw : Wrote s t s.focus.1 o bs sb db) (hx : Begins s .c h i t n) :
    ∃ u, exec i s = .next u ∧ Issued s u .c i ∧ u.here.pad = s.here.pad.writeN o bs ∧ u.here.c.sb = s.here.c.sb + BitVec.ofNat 64 sb ∧
      u.here.c.db = s.here.c.db + BitVec.ofNat 64 db ∧ u.here.m = s.here.m ∧ u.here.v = s.here.v ∧ u.here.s = s.here.s ∧ u.mem = s.mem := by
  obtain ⟨u, hu, hhere, hmem⟩ := begins_here hw.focus (hw.cells ▸ hc) hx
  obtain ⟨hqueue, hinprog, g, hg⟩ := issueHead_c (t.cell s.focus.1) i h n t.cycle
  rw [← hhere] at hqueue hinprog
  rw [hg] at hhere
  refine ⟨u, hu, ⟨hqueue.trans (congrArg (List.drop 1) hw.queue), hinprog.trans (congrArg (List.map (·.instr) · ++ [i]) hw.inprog)⟩, ?_, ?_, ?_, ?_, ?_,
    ?_, hmem.trans hw.mem⟩
  all_goals rw [hhere]
  · exact hw.pad
  · exact hw.sb
  · exact hw.db
  · exact hw.m
  · exact hw.v
  · exact hw.s

end Sys2Proof.Machine

/-! `COPY` and `FILL` of tiles that C holds (O32). -/

namespace Sys2Proof.Machine

/-- A field that names a tile is no reserved one (R118). -/
theorem operandOk_of_tile {o : BitVec 9} {t : Nat} (h : operandTile o = some t) : operandOk o = true := by
  by_cases hx : o.extractLsb' 7 2 = 2
  · rw [operandOk, hx]; rfl
  · rw [operandTile, if_neg hx] at h
    cases h

/-- Tiles that C holds are open to it. -/
theorem closedTile_of_held {x : Cell} {os : List (BitVec 9)} (h : ∀ o ∈ os, ∀ t, operandTile o = some t → x.shutter t = 3) :
    x.closedTile .c os = none := by
  refine List.find?_eq_none.mpr fun t ht => ?_
  obtain ⟨o, ho, hot⟩ := List.mem_filterMap.mp ht
  exact fun hc => of_decide_eq_true hc (h o ho t hot)

/-! ### `FILL` -/

/-- Bytes that repeat a word. -/
def RepeatsWord (v : Word) (bs : List Byte) : Prop := ∀ j < bs.length, bs.getD j 0 = v.extractLsb' (8 * (j % 4)) 8

theorem RepeatsWord.append {v : Word} {l r : List Byte} (hl : RepeatsWord v l) (hr : RepeatsWord v r) (h4 : l.length % 4 = 0) :
    RepeatsWord v (l ++ r) := by
  intro j hj
  rw [List.length_append] at hj
  by_cases hjl : j < l.length
  · rw [List.getD_eq_getElem?_getD, List.getElem?_append_left hjl, ← List.getD_eq_getElem?_getD, hl j hjl]
  · have hmod : (j - l.length) % 4 = j % 4 := by omega
    rw [List.getD_eq_getElem?_getD, List.getElem?_append_right (Nat.le_of_not_lt hjl), ← List.getD_eq_getElem?_getD, hr (j - l.length) (by omega), hmod]

/-- Elements of 32 bits that are all `v`. -/
theorem repeatsWord_joinBits (v : Word) (n : Nat) : RepeatsWord v (leBytes (4 * n) (joinBits 32 (List.replicate n v.toNat))) := by
  intro j hj
  rw [leBytes_length] at hj
  obtain ⟨q, r, hr, rfl⟩ : ∃ q r, r < 4 ∧ j = 4 * q + r := ⟨j / 4, j % 4, Nat.mod_lt _ (by decide), (Nat.div_add_mod j 4).symm⟩
  have hq : n - q = (n - q - 1) + 1 := by omega
  have hv : v.toNat < 2 ^ 32 := v.isLt
  have hmod : (4 * q + r) % 4 = r := by omega
  have hpow : (256 : Nat) ^ (4 * q + r) = (2 ^ 32) ^ q * 256 ^ r := by
    have h256 : (256 : Nat) ^ 4 = 2 ^ 32 := rfl
    rw [Nat.pow_add, Nat.pow_mul, h256]
  rw [getD_leBytes _ hj, hmod, hpow, ← Nat.div_div_eq_div_mul, joinBits_div, List.drop_replicate, hq, List.replicate_succ]
  refine BitVec.eq_of_toNat_eq ?_
  rw [BitVec.toNat_ofNat, BitVec.extractLsb'_toNat, Nat.shiftRight_eq_div_pow]
  show (v.toNat % 2 ^ 32 + 2 ^ 32 * _) / 256 ^ r % 2 ^ 8 = v.toNat / 2 ^ (8 * r) % 2 ^ 8
  rw [Nat.mod_eq_of_lt hv]
  obtain rfl | rfl | rfl | rfl : r = 0 ∨ r = 1 ∨ r = 2 ∨ r = 3 := by omega
  all_goals omega

/-- The steps of `FILL` from the `k`th on, `n` of them, write the word into `n` lines of the tile (R271). -/
theorem fill_tile_steps {s : State} {c : Nat} (hc : c < s.cells.length) (clean : s.mem.Clean) (tile : Nat) (d : Desc) (v : Word) (n k : Nat) :
    ∃ t bs, StepsTo (fillStep c (some tile) d v) n k s t ∧ Wrote s t c (tile * 16384 + 256 * k) bs 0 (256 * n) ∧ bs.length = 256 * n ∧
      RepeatsWord v bs := by
  induction n generalizing s k with
  | zero => exact ⟨s, [], rfl, wrote_free s c _ s.free, rfl, fun j hj => absurd hj (Nat.not_lt_zero j)⟩
  | succ n ih =>
    obtain ⟨t, hstep, hw⟩ := cPut_row hc clean (tile * 16384 + 256 * k) 32 0 (List.replicate 64 v.toNat) (n := 256) (by rw [List.length_replicate])
    obtain ⟨u, bs, hsteps, hw', hlen, hrep⟩ := ih (hw.cells ▸ hc) (hw.mem ▸ clean) (k + 1)
    have hbit : 8 * (tile * 16384 + 256 * k) = tile * 131072 + 2048 * k := by omega
    have hnext : tile * 16384 + 256 * (k + 1) = tile * 16384 + 256 * k + (leBytes 256 (joinBits 32 (List.replicate 64 v.toNat))).length := by
      rw [leBytes_length]; omega
    have hcount : 256 + 256 * n = 256 * (n + 1) := by omega
    rw [hbit] at hstep
    rw [hnext] at hw'
    have hall := hw.trans hw'
    rw [hcount] at hall
    refine ⟨u, _, ⟨t, hstep, hsteps⟩, hall, by rw [List.length_append, leBytes_length, hlen, hcount], ?_⟩
    exact (repeatsWord_joinBits v 64).append hrep (by rw [leBytes_length])

/-- A fill of a tile that C holds issues with its 64 lines written (R271). -/
theorem fillTile : Claims.FillTile := by
  intro s h b d x td k free hwf ht hshut
  have ho : s.here.closedTile .c [d] = none := closedTile_of_held fun o ho t hot => by
    obtain rfl := List.mem_singleton.mp ho
    exact Option.some.inj (ht.symm.trans hot) ▸ hshut
  obtain ⟨t, bs, hsteps, hw, hlen, hrep⟩ := fill_tile_steps k.cell (k.clean free) td (s.here.descAt d) x 64 0
  have hx : Begins s .c h (.fill b d x) t 64 := by
    refine congrArg Host.Outcome.next (cCommand_issues k free (isNone_ck.mpr (operandOk_of_tile ht)) free.permits ho ?_ hsteps)
    simp only [ht]
    rfl
  obtain ⟨u, hu, hissued, hpad, hsb, hdb, hm, hv, -, hmem⟩ := begins_of_wrote k.cell hw hx
  refine ⟨u, hu, hissued, fun j hj => ?_, fun o ho => ?_, hdb, hsb.trans (BitVec.add_zero _), hm, hv, hmem⟩
  · rw [hpad, Memory.read_writeN _ _ _ hwf, if_pos (by omega)]
    have hj : td * 16384 + j - (td * 16384 + 256 * 0) = j := by omega
    rw [hj]
    exact hrep j (by omega)
  · rw [hpad, Memory.read_writeN _ _ _ hwf, if_neg (by omega)]

/-! ### `COPY` -/

/-- The plan of `COPY` of `n` bytes of tile `te` to tile `td` (R264). -/
def tileCopy (td te : Nat) (dd ds : Desc) (n : Nat) : CopyPlan :=
  { src := { tile := some te, d := ds, org := 0, p := 0, w := 8, len := n }, dst := { tile := some td, d := dd, org := 0, p := 0, w := 8, len := n }
    rows := 1, cols := n, tr := 0, fmt := 6, conv := false, rm := 0, satf := false, ok := true }

theorem copyPlan_tiles {x : Cell} {h : Entry} {d e : BitVec 9} {td te : Nat} (hd : operandTile d = some td) (he : operandTile e = some te) :
    x.copyPlan h d e 0 zeroCopy = tileCopy td te (x.descAt d) (x.descAt e) 16384 := by
  simp [Cell.copyPlan, hd, he, zeroCopy, tileCopy, pitchBytes, Region.fits, Region.bit, fmtWidth]

/-! ### Elements that share a byte with the source (R259) -/

theorem runsOf_cons_adjacent {p n : Nat} {l : List Nat} {t : List (Nat × Nat)} (h : runsOf l = (p + 1, n) :: t) :
    runsOf (p :: l) = (p, n + 1) :: t := by
  rw [runsOf] at h
  rw [runsOf, List.foldr_cons, h]
  exact if_pos rfl

theorem runsOf_range' (a n : Nat) : runsOf (List.range' a (n + 1)) = [(a, n + 1)] := by
  induction n generalizing a with
  | zero => rfl
  | succ n ih => exact runsOf_cons_adjacent (ih (a + 1))

/-- A row with free values in its elements. -/
theorem freed_tile (s : State) (bit0 w : Nat) (codes : List Nat) (bad : List Bool) :
    ∃ f l, (Put.tile bit0 w codes bad).freed s = ({ s with free := f }, .tile bit0 w l []) ∧ l.length = codes.length := by
  have hfold : ∀ (cs : List Nat) (f : Nat) (l : List Nat), ∃ g r,
      cs.foldl (fun ((s, r) : State × List Nat) _ => let (x, s) := s.takeFree; (s, r ++ [x.toNat]))
      ({ s with free := f }, l) = ({ s with free := g }, r) ∧ r.length = l.length + cs.length := by
    intro cs
    induction cs with
    | nil => exact fun f l => ⟨f, l, rfl, rfl⟩
    | cons a cs ih =>
      intro f l
      obtain ⟨g, r, hg, hr⟩ := ih (f + 1) (l ++ [(Config.freeValue f).toNat])
      exact ⟨g, r, hg, by rw [hr, List.length_append, List.length_cons, List.length_nil, List.length_cons]; omega⟩
  obtain ⟨g, r, hg, hr⟩ := hfold codes s.free []
  refine ⟨g, r, ?_, hr.trans (Nat.zero_add _)⟩
  show (let (s, l) := codes.foldl (fun ((s, r) : State × List Nat) _ => let (x, s) := s.takeFree; (s, r ++ [x.toNat])) (s, []); (s, Put.tile bit0 w l [])) = _
  exact congrArg (fun x : State × List Nat => (x.1, Put.tile bit0 w x.2 [])) hg

section
variable {s : State} {w : Who} {bit0 wd : Nat} {codes : List Nat} {bad : List Bool}

/-- Of elements whose flags are all `b`, none has the other flag. -/
theorem pick_none (p : Put) (n : Nat) (b : Bool) : p.pick (List.replicate n b) (!b) = [] := by
  have hnone : (List.range n).filter (fun e => (List.replicate n b).getD e false == !b) = [] := by
    refine List.filter_eq_nil_iff.mpr fun e he => ?_
    rw [getD_replicate_of_lt _ _ (List.mem_range.mp he)]
    cases b <;> decide
  rw [Put.pick, List.length_replicate, hnone]
  rfl

/-- They are one row of adjacent elements. -/
theorem pick_all (p : Put) (n : Nat) (b : Bool) : p.pick (List.replicate (n + 1) b) b = [p.slice 0 (n + 1)] := by
  have hall : (List.range (n + 1)).filter (fun e => (List.replicate (n + 1) b).getD e false == b) = List.range' 0 (n + 1) := by
    rw [← List.range_eq_range']
    refine List.filter_eq_self.mpr fun e he => ?_
    rw [getD_replicate_of_lt _ _ (List.mem_range.mp he)]
    exact beq_self_eq_true b
  rw [Put.pick, List.length_replicate, hall, runsOf_range']
  rfl

/-- Elements of a row share bytes with the source all alike. -/
theorem hits_eq_replicate {v : Cover} {b : Bool} (h : ∀ e < codes.length,
    v.meets (padCover w.cell ((bit0 + wd * e) / 8) ((bit0 + wd * e + wd - 1) / 8 - (bit0 + wd * e) / 8 + 1)) = b) :
    s.hits w v (.tile bit0 wd codes bad) = List.replicate codes.length b := by
  refine List.eq_replicate_iff.mpr ⟨by rw [State.hits, List.length_map, List.length_range], fun x hx => ?_⟩
  obtain ⟨e, he, rfl⟩ := List.mem_map.mp hx
  exact h e (List.mem_range.mp he)

end

end Sys2Proof.Machine

/-! `COPY` of a tile that C holds to another, and onto itself (O32). -/

namespace Sys2Proof.Machine

/-! ### The step of a copy -/

/-- The bytes of tiles share a place exactly when the tiles are the same. -/
theorem meets_padCover (c a b n k : Nat) : Cover.meets (padCover c a n) (padCover c b k) = (decide (a < b + k) && decide (b < a + n)) := by
  simp only [Cover.meets, Cover.touches, padCover, overlaps, padPa, List.any_cons, List.any_nil, Bool.or_false]
  congr 1
  · exact decide_eq_decide.mpr (by omega)
  · exact decide_eq_decide.mpr (by omega)

theorem bind_of_ok {α β : Type} {x : Acc α} {a : α} (h : x = .ok a) (f : α → Acc β) : x.bind f = f a := by rw [h]; rfl

/-- With no byte of the source in the way, no element takes a free value. -/
theorem putFree_apart (s : State) (w : Who) (bit0 wd : Nat) (codes : List Nat) (bad : List Bool) : s.putFree w [] [.tile bit0 wd codes bad] = s := by
  have hhits : s.hits w [] (.tile bit0 wd codes bad) = List.replicate codes.length false := hits_eq_replicate fun _ _ => rfl
  have hpick := pick_none (.tile bit0 wd codes bad) codes.length false
  simp only [State.putFree, List.flatMap_cons, List.flatMap_nil, hhits]
  rw [← Bool.not_false, hpick]
  rfl

/-- A row whose elements all share a byte with the source takes free values in all of them (R259). -/
theorem putFree_shared {s : State} {w : Who} (hc : w.cell < s.cells.length) (clean : s.mem.Clean) {v : Cover} {o n : Nat} {codes : List Nat}
    (hlen : codes.length = n + 1) {bad : List Bool} (hhits : s.hits w v (.tile (8 * o) 8 codes bad) = List.replicate (n + 1) true) :
    ∃ bs, Wrote s (s.putFree w v [.tile (8 * o) 8 codes bad]) w.cell o bs 0 0 ∧ bs.length = n + 1 := by
  obtain ⟨f, l, hfreed, hl⟩ := freed_tile s (8 * o + 8 * 0) 8 ((codes.drop 0).take (n + 1)) ((bad.drop 0).take (n + 1))
  have hfull : l.length = n + 1 := by rw [hl, List.drop_zero, List.take_of_length_le (Nat.le_of_eq hlen), hlen]
  have heq : s.putFree w v [.tile (8 * o) 8 codes bad] = ({ s with free := f } : State).putRow w (.tile (8 * o) 8 l []) := by
    simp only [State.putFree, List.flatMap_cons, List.flatMap_nil, List.append_nil, hhits, pick_all, Put.slice, List.foldl_cons, List.foldl_nil, hfreed]
    rfl
  have hput : Wrote { s with free := f } _ w.cell o _ 0 0 := wrote_putRow (s := { s with free := f }) hc clean o 8 l (n := n + 1) (by rw [hfull])
  rw [heq]
  exact ⟨_, (wrote_free s w.cell o f).trans hput, leBytes_length _ _⟩

/-- Nor is such a row written by a step; its bytes are counted all the same (R262). -/
theorem cPutApart_shared (s : State) (c sb : Nat) {p : Nat × Nat} {v : Cover} {o n : Nat} {codes : List Nat} (hlen : codes.length = n)
    (hhits : s.hits (s.whoOf c (.stream .c)) (p :: v) (.tile (8 * o) 8 codes []) = List.replicate n true) :
    s.cPutApart c sb (p :: v) [.tile (8 * o) 8 codes []] = .ok (s.cAccount c sb n) := by
  have hpick := pick_none (.tile (8 * o) 8 codes []) n true
  have hbytes := putBytes_row (wd := 8) (o := o) (n := n) (congrArg (8 * ·) hlen) []
  rw [Bool.not_true] at hpick
  simp only [State.cPutApart, List.isEmpty_cons, Bool.false_eq_true, if_false, List.flatMap_cons, List.flatMap_nil, hhits, hpick, hbytes]
  rfl

section
variable {s : State} {c td te n : Nat} {dd ds : Desc}

theorem tileCopy_read : (tileCopy td te dd ds n).src.read 0 0 n false = .tile (8 * (te * 16384)) 8 n := by
  have hbit : te * 131072 + 0 * n * 8 + 0 * 8 = 8 * (te * 16384) := by omega
  exact congrArg (Req.tile · 8 n) hbit

theorem tileCopy_puts (codes : List Nat) (bad : List Bool) : (tileCopy td te dd ds n).puts 0 codes bad = [.tile (8 * (td * 16384)) 8 codes bad] := by
  have hbit : td * 131072 + 0 * n * 8 + 0 * 8 = 8 * (td * 16384) := by omega
  exact congrArg (fun b => [Put.tile b 8 codes bad]) hbit

/-- The source of a copy of one tile to another shares no byte with the destination. -/
theorem tileCopy_cover_apart (h : td ≠ te) (w : Who) : (tileCopy td te dd ds n).cover s w = [] := by
  refine if_neg ?_
  show ¬Cover.meets (padCover w.cell (te * 16384) 16384) (padCover w.cell (td * 16384) 16384) = true
  rw [meets_padCover]
  simp only [Bool.and_eq_true, decide_eq_true_eq]
  omega

/-- That of a copy of a tile to itself is the destination. -/
theorem tileCopy_cover_self (w : Who) : (tileCopy td td dd ds n).cover s w = padCover w.cell (td * 16384) n := by
  have hmeets : Cover.meets (padCover w.cell (td * 16384) 16384) (padCover w.cell (td * 16384) 16384) = true := by
    rw [meets_padCover]
    simp
  have hfirst : 8 * (td * 16384) / 8 = td * 16384 := by omega
  have hlen : (8 * (td * 16384) + 8 * n + 7) / 8 - td * 16384 = n := by omega
  refine (if_pos hmeets).trans ?_
  show s.coverOf w [(tileCopy td td dd ds n).src.read 0 0 n false] = _
  rw [tileCopy_read]
  show padCover w.cell (8 * (td * 16384) / 8) ((8 * (td * 16384) + 8 * n + 7) / 8 - 8 * (td * 16384) / 8) ++ [] = _
  rw [hfirst, hlen, List.append_nil]

/-- The step reads the source row, writes it where it shares no byte with the source, and ends with free values where it does. -/
theorem tileCopy_step (clean : s.mem.Clean) {v : Cover} (hv : (tileCopy td te dd ds n).cover s (s.whoOf c (.stream .c)) = v) :
    (tileCopy td te dd ds n).step c 0 s =
      (s.cPutApart c n v [.tile (8 * (td * 16384)) 8 (((s.cell c).pad.readN (te * 16384) n).map BitVec.toNat) []]).bind fun t =>
        .ok ((t.putFree (t.whoOf c (.stream .c)) v [.tile (8 * (td * 16384)) 8 (List.replicate n 0) []]).modCell c fun x =>
          { x with ec := x.ec.rounded false }) := by
  have hread : s.readRows (s.whoOf c (.stream .c)) [.tile (8 * (te * 16384)) 8 n] false =
      .ok (s, [byteRow ((s.cell c).pad.readN (te * 16384) n)]) := readRows_bytes clean _ [te * 16384] n false
  have hreqs : (tileCopy td te dd ds n).src.read 0 0 (tileCopy td te dd ds n).cols (tileCopy td te dd ds n).conv ::
      (tileCopy td te dd ds n).scaleReqs 0 = [Req.tile (8 * (te * 16384)) 8 n] := congrArg (· :: []) tileCopy_read
  have hlast : ((List.range (tileCopy td te dd ds n).rows).flatMap fun r =>
      (tileCopy td te dd ds n).puts r (List.replicate (tileCopy td te dd ds n).cols 0) []) = [.tile (8 * (td * 16384)) 8 (List.replicate n 0) []] :=
    (List.append_nil _).trans (tileCopy_puts _ _)
  have hspans : ∀ codes bad, s.spansCheck (s.whoOf c (.stream .c)) ([Req.tile (8 * (te * 16384)) 8 n].flatMap Req.spans ++
      [Put.tile (8 * (td * 16384)) 8 codes bad].flatMap Put.spans) = .ok () := fun _ _ => rfl
  have hbytes : sourceBytes [byteRow ((s.cell c).pad.readN (te * 16384) n)] = n := (Nat.zero_add _).trans (readN_length _ _ _)
  have hconv : (tileCopy td te dd ds n).conv = false := rfl
  have hcodes : ∀ ph, (tileCopy td te dd ds n).codes 0 ph [byteRow ((s.cell c).pad.readN (te * 16384) n)] =
      ((s.cell c).pad.readN (te * 16384) n).map BitVec.toNat := fun _ => rfl
  have hbad : ([byteRow ((s.cell c).pad.readN (te * 16384) n)].headD { codes := [] }).bad = [] := rfl
  have hrows : 0 + 1 = (tileCopy td te dd ds n).rows := rfl
  rw [CopyPlan.step]
  simp only [hreqs, tileCopy_puts, hlast]
  rw [bind_of_ok (hspans _ _), hconv, bind_of_ok hread]
  simp only [hbytes, hcodes, hbad, hv, hrows, if_true, Bool.false_and]

/-- A copy of one tile to another writes the bytes that it has read. -/
theorem tileCopy_wrote_apart (hc : c < s.cells.length) (clean : s.mem.Clean) (h : td ≠ te) :
    ∃ t, (tileCopy td te dd ds n).step c 0 s = .ok t ∧ Wrote s t c (td * 16384) ((s.cell c).pad.readN (te * 16384) n) n n := by
  have hlen : 8 * (((s.cell c).pad.readN (te * 16384) n).map BitVec.toNat).length = 8 * n := by rw [List.length_map, readN_length]
  have hbytes : leBytes n (joinBits 8 (((s.cell c).pad.readN (te * 16384) n).map BitVec.toNat)) = (s.cell c).pad.readN (te * 16384) n := by
    have hle := leBytes_leNat ((s.cell c).pad.readN (te * 16384) n)
    rwa [joinBits_toNat, readN_length] at *
  obtain ⟨t, ht, hw⟩ := cPut_row hc clean (td * 16384) 8 n _ hlen
  rw [hbytes] at hw
  have hround := hw.trans (wrote_rounded (hw.cells ▸ hc) _ false)
  rw [List.append_nil] at hround
  refine ⟨_, ?_, hround⟩
  rw [tileCopy_step clean (tileCopy_cover_apart h _)]
  refine (bind_of_ok ht _).trans ?_
  rw [putFree_apart]

/-- A copy of a tile to itself leaves free values in all its bytes (R259). -/
theorem tileCopy_wrote_self (hc : c < s.cells.length) (clean : s.mem.Clean) :
    ∃ t bs, (tileCopy td td dd ds (n + 1)).step c 0 s = .ok t ∧ Wrote s t c (td * 16384) bs (n + 1) (n + 1) ∧ bs.length = n + 1 := by
  have hhits : ∀ (t : State) codes, codes.length = n + 1 → t.hits (t.whoOf c (.stream .c)) (padCover c (td * 16384) (n + 1))
      (.tile (8 * (td * 16384)) 8 codes []) = List.replicate (n + 1) true := fun t codes hlen => by
    refine (hits_eq_replicate fun e he => ?_).trans (congrArg (List.replicate · true) hlen)
    show Cover.meets (padCover c _ _) (padCover c _ _) = true
    rw [meets_padCover]
    simp only [Bool.and_eq_true, decide_eq_true_eq]
    omega
  have hlen : (((s.cell c).pad.readN (td * 16384) (n + 1)).map BitVec.toNat).length = n + 1 := by rw [List.length_map, readN_length]
  have hapart : s.cPutApart c (n + 1) (padCover c (td * 16384) (n + 1))
      [.tile (8 * (td * 16384)) 8 (((s.cell c).pad.readN (td * 16384) (n + 1)).map BitVec.toNat) []] = .ok (s.cAccount c (n + 1) (n + 1)) :=
    cPutApart_shared s c (n + 1) hlen (hhits s _ hlen)
  have hw := wrote_cAccount hc (td * 16384) (n + 1) (n + 1)
  obtain ⟨bs, hfree, hbs⟩ := putFree_shared (w := (s.cAccount c (n + 1) (n + 1)).whoOf c (.stream .c)) (hw.cells ▸ hc) (hw.mem ▸ clean)
    List.length_replicate (hhits (s.cAccount c (n + 1) (n + 1)) (List.replicate (n + 1) 0) List.length_replicate)
  have hround := (hw.nil_trans hfree).trans (wrote_rounded (by rw [hfree.cells, hw.cells]; exact hc) _ false)
  rw [List.append_nil] at hround
  refine ⟨_, bs, ?_, hround, hbs⟩
  rw [tileCopy_step clean (tileCopy_cover_self _)]
  exact bind_of_ok hapart _

end

/-- A copy of a tile to another that C holds too issues with its bytes copied (R264). -/
theorem copyTileToTile : Claims.CopyTileToTile := by
  intro s h b d e td te k free hwf hd he hsd hse
  have ho : s.here.closedTile .c [d, e] = none := closedTile_of_held fun o ho t hot => by
    have hmem : o = d ∨ o = e := by simpa using ho
    rcases hmem with rfl | rfl
    · exact Option.some.inj (hd.symm.trans hot) ▸ hsd
    · exact Option.some.inj (he.symm.trans hot) ▸ hse
  have hplan := copyPlan_tiles (x := s.here) (h := h) hd he
  have wf : (Instr.copy b d e 0).wellFormed = true := isNone_ck_ck.mpr ⟨⟨operandOk_of_tile hd, operandOk_of_tile he⟩, by decide⟩
  have hwrote : ∃ t bs, (s.here.copyPlan h d e 0 zeroCopy).step s.focus.1 0 s = .ok t ∧ Wrote s t s.focus.1 (td * 16384) bs 16384 16384 ∧
      bs.length = 16384 ∧ (td ≠ te → bs = s.here.pad.readN (te * 16384) 16384) := by
    rw [hplan]
    by_cases htd : td = te
    · subst htd
      obtain ⟨t, bs, ht, hw, hlen⟩ := tileCopy_wrote_self (td := td) (n := 16383) k.cell (k.clean free)
      exact ⟨t, bs, ht, hw, hlen, fun hne => absurd rfl hne⟩
    · obtain ⟨t, ht, hw⟩ := tileCopy_wrote_apart (n := 16384) k.cell (k.clean free) htd
      exact ⟨t, _, ht, hw, readN_length _ _ _, fun _ => rfl⟩
  obtain ⟨t, bs, ht, hw, hlen, hbs⟩ := hwrote
  have hx : Begins s .c h (.copy b d e 0) t 1 := by
    refine congrArg Host.Outcome.next (cCommand_issues k free wf free.permits ho ?_ ⟨t, ht, rfl⟩)
    have hok : (s.here.copyPlan h d e 0 zeroCopy).ok = true := by rw [hplan]; rfl
    have hrows : (s.here.copyPlan h d e 0 zeroCopy).rows = 1 := by rw [hplan]; rfl
    exact (checked hok).trans (congrArg (s.runCommand s.focus.1 .c · _) hrows)
  obtain ⟨u, hu, hissued, hpad, hsb, hdb, hm, hv, hs, hmem⟩ := begins_of_wrote k.cell hw hx
  refine ⟨u, hu, hissued, fun hne j hj => ?_, fun o ho => ?_, hsb, hdb, hm, hv, hs, hmem⟩
  · rw [hpad, Memory.read_writeN _ _ _ hwf, if_pos (by omega), Nat.add_sub_cancel_left, hbs hne, getD_readN _ _ hj]
  · rw [hpad, Memory.read_writeN _ _ _ hwf, if_neg (by omega)]

/-- Settles O32: both commands issue with steps that write the destination tile and nothing else (`copyTileToTile`, `fillTile`). -/
theorem tileCommands : Obligations.TileCommands := ⟨copyTileToTile, fillTile⟩

end Sys2Proof.Machine

/-! `LAND`, `COLL` and `CBAR` (O34). -/

namespace Sys2Proof.Machine

/-! ### What `COLL` sends -/

theorem otherWay_lt (p : BitVec 3) : otherWay p.toNat < 8 := by
  have hp : p.toNat < 8 := p.isLt
  unfold otherWay
  split
  · omega
  · omega

/-- Cell `x` after its collective has sent `n` lines and is charged for them (R281, R315). -/
def Cell.hasSent (x : Cell) (n : Nat) : Cell :=
  { x with ec := { x.ec with progress := (1, 0) } }.charge (x.weights.linkB.toNat * 256 * n)

theorem hasSent_ec (x : Cell) (n : Nat) : (x.hasSent n).ec = { x.ec with progress := (1, 0) } := charge_ec _ _

/-- What a collective that has sent leaves of its engine while it waits: the queue, and its progress past the sending. -/
theorem hasSent_waitHead (x : Cell) (n now : Nat) :
    ((x.hasSent n).waitHead .c now).ec.queue = x.ec.queue ∧ ((x.hasSent n).waitHead .c now).ec.progress = (1, 0) := by
  have hqueue : (x.hasSent n).ec.queue = x.ec.queue := by rw [hasSent_ec]
  have hprogress : (x.hasSent n).ec.progress = (1, 0) := by rw [hasSent_ec]
  exact ⟨hqueue, hprogress⟩

/-- The state in which a collective has sent `rows` on `port` (R281). -/
def State.collSent (s : State) (c port : Nat) (tag : BitVec 8) (rows : List Row) : State :=
  let t := s.modCell c fun x => x.hasSent rows.length
  t.send { dst := s.neighbour port, port := port, cell := c, agent := .stream .c, ctx := (t.cell c).res.ctx, sentAt := s.cycle
           payload := .chunk { port := BitVec.ofNat 3 (otherWay port), ctx := (s.cell c).res.ctx, tag := tag
                               lines := rows.map fun r => lineOfBytes r.codes, bad := badParts rows } }

theorem collSent_cell {s : State} {c : Nat} (hc : c < s.cells.length) (port : Nat) (tag : BitVec 8) (rows : List Row) :
    (s.collSent c port tag rows).cell c = (s.cell c).hasSent rows.length := cell_modCell s c (fun x => x.hasSent rows.length) hc

theorem collSent_length (s : State) (c port : Nat) (tag : BitVec 8) (rows : List Row) : (s.collSent c port tag rows).cells.length = s.cells.length :=
  modCell_length s c fun x => x.hasSent rows.length

/-- Where no byte is bad, the lines of the send tile are read and sent. -/
theorem collSend_eq {s : State} (clean : s.mem.Clean) (c st port op : Nat) (tag : BitVec 8) (n : Nat) :
    ∃ rows : List Row, rows.length = n ∧ s.collSend c st port op tag n = .ok (s.collSent c port tag rows) := by
  refine ⟨(List.range n).map fun k => byteRow ((s.cell c).pad.readN (st * 16384 + 256 * k) 256), by rw [List.length_map, List.length_range], ?_⟩
  have hlines : ((List.range n).map fun k => Req.tile (st * 131072 + 2048 * k) 8 256) =
      ((List.range n).map fun k => st * 16384 + 256 * k).map fun o => Req.tile (8 * o) 8 256 := by
    rw [List.map_map]
    refine List.map_congr_left fun k _ => ?_
    have hbit : st * 131072 + 2048 * k = 8 * (st * 16384 + 256 * k) := by omega
    rw [hbit]
    rfl
  have hread := readRows_bytes clean (s.whoOf c (.stream .c)) ((List.range n).map fun k => st * 16384 + 256 * k) 256 (decide (op ≠ 0))
  rw [← hlines, List.map_map] at hread
  refine (bind_of_ok hread _).trans ?_
  simp only [State.collSent, List.length_map, List.length_range]
  rfl

/-! ### What `LAND` takes -/

/-- The state in which cell `c` has counted `len` bytes and holds packet `q`, for its port to send to cell `k` of module `dst` (R262, R280). -/
def State.landTaken (t : State) (c len dst k : Nat) (q : Packet) : State :=
  (t.cAccount c len 0).modCell c fun y => { y with c := { y.c with landOut := some (dst, k, q) } }

theorem landTaken_length (t : State) (c len dst k : Nat) (q : Packet) : (t.landTaken c len dst k q).cells.length = t.cells.length :=
  (modCell_length ..).trans (modCell_length ..)

theorem landTaken_cell {t : State} {c : Nat} (hc : c < t.cells.length) (len dst k : Nat) (q : Packet) :
    ((t.landTaken c len dst k q).cell c).ec = (t.cell c).ec ∧ ((t.landTaken c len dst k q).cell c).c.landOut = some (dst, k, q) := by
  have hcount : ((t.cAccount c len 0).cell c).ec = (t.cell c).ec := by
    rw [cAccount_eq, cell_modCell _ _ _ hc, charge_ec]
    rfl
  have hlen : c < (t.cAccount c len 0).cells.length := by
    rw [cAccount_eq, modCell_length]
    exact hc
  rw [State.landTaken, cell_modCell _ _ _ hlen]
  exact ⟨hcount, rfl⟩

/-! ### `CBAR` -/

theorem exists_takeWhile_append {α : Type} (p : α → Bool) (l : List α) :
    ∃ r, l = l.takeWhile p ++ r ∧ l.drop (l.takeWhile p).length = r ∧ (∀ a ∈ l.takeWhile p, p a = true) ∧ ∀ a ∈ r.head?, p a = false := by
  induction l with
  | nil => exact ⟨[], rfl, rfl, nofun, nofun⟩
  | cons a l ih =>
    cases ha : p a with
    | false =>
      rw [List.takeWhile_cons_of_neg (by rw [ha]; decide)]
      exact ⟨a :: l, rfl, rfl, nofun, fun b hb => Option.some.inj hb ▸ ha⟩
    | true =>
      obtain ⟨r, hl, hdrop, hall, hhead⟩ := ih
      rw [List.takeWhile_cons_of_pos ha]
      refine ⟨r, congrArg (a :: ·) hl, hdrop, fun b hb => ?_, hhead⟩
      rcases List.mem_cons.mp hb with rfl | hb
      · exact ha
      · exact hall b hb

/-- An arrival is placed behind those that come first in the order of R366. -/
theorem sent_sendArrival (s : State) (c : Nat) (ag : Agent) (ctx : BitVec 16) (barrier : Nat) (bytes : DWord) :
    Claims.Sent s ⟨c, ag, ctx, barrier, bytes, s.cycle⟩ (s.sendArrival c ag ctx barrier bytes).disp.arrivals := by
  obtain ⟨r, hl, hdrop, hall, hhead⟩ := exists_takeWhile_append
    (fun b : Arrival => b.sent < s.cycle || 8 * b.cell + agentPlace b.agent ≤ 8 * c + agentPlace ag) s.disp.arrivals
  refine ⟨_, r, hl, ?_, fun b hb => ?_, fun b hb => ?_⟩
  · rw [State.sendArrival]
    exact congrArg (_ ++ _ :: ·) hdrop
  · simpa using hall b hb
  · simpa using hhead b hb

/-- The bytes that an arrival of `CBAR` brings: those written, those read, or its immediate (R282). -/
def Cell.arrivalBytes (x : Cell) (kind : BitVec 2) (im : BitVec 11) : DWord :=
  match kind.toNat with
  | 0 => x.c.db
  | 1 => x.c.sb
  | _ => im.setWidth 64

/-- The cell with its counts of bytes moved back at 0 (R282). -/
def Cell.clearCounts (x : Cell) : Cell := { x with c := { x.c with sb := 0, db := 0 } }

section
variable {s : State} {h : Entry} {b : BitVec 4} (k : AtHead s .c h) (free : Free s .c b)
include k free

/-- A command of C that waits for those in progress, of which there are none, does its own operation at once (R259). -/
theorem eIssue_afterAll {i : Instr} {body : Nat → Entry → State → EFin} {r : EFin} (wf : i.wellFormed = true)
    (hbody : body s.focus.1 h s = s.afterAll s.focus.1 .c r) :
    s.eIssue .c i { unbounded := b = 15 } body = s.eConclude s.focus.1 .c i h r := by
  rw [eIssue_atHead k wf free.permits nofun, hbody, afterAll_of_idle free.idle]

omit free in
/-- A trap of C at its head that has nothing to do with memory (R307). -/
theorem engineTraps_c {i : Instr} {t : TrapInfo} (hn : t.cause ≠ cNOTPRESENT) (hu : t.cause ≠ cUNCORR) (hp : t.cause ≠ cPOISON)
    (hx : exec i s = .next (s.eConclude s.focus.1 .c i h (.trap s t none))) : EngineTraps s .c h i t := by
  rw [eConclude_trap k.cell hn hu hp] at hx
  refine ⟨_, hx, ?_⟩
  have hcell : ∀ x, (s.setCell s.focus.1 x).here = x := fun x => cell_setCell s _ x k.cell
  rw [hcell]
  rw [show s.here = s.cell s.focus.1 from rfl]
  generalize s.cell s.focus.1 = x
  exact ⟨rfl, rfl, rfl, rfl, rfl, rfl, rfl, rfl, rfl⟩

/-- `CBAR` leaves the queue with the arrival sent and both byte counts 0 (R282). -/
theorem cbar_leaves {n : BitVec 8} {kind : BitVec 2} {im : BitVec 11} (wf : (Instr.cbar b n kind im).wellFormed = true)
    (hp : s.performedAt (s.focus.1, .stream .c) 4 = true) :
    exec (.cbar b n kind im) s = .next
      ((s.sendArrival s.focus.1 (.stream .c) s.here.res.ctx n.toNat (s.here.arrivalBytes kind im)).leave .c Cell.clearCounts) := by
  refine congrArg Host.Outcome.next ((eIssue_afterAll k free wf rfl).trans ?_)
  rw [checked hp]
  exact modCell_modCell (s.sendArrival s.focus.1 (.stream .c) s.here.res.ctx n.toNat (s.here.arrivalBytes kind im)) s.focus.1 Cell.clearCounts
    (fun x => x.leaveHead .c s.cycle) k.cell

/-! ### `COLL` -/

section
variable {tt r : BitVec 7} {p : BitVec 3} {y : CollQ} (wf : (Instr.coll b tt r p y).wellFormed = true)
  (ht : s.here.shutter tt.toNat = 3) (hr : s.here.shutter r.toNat = 3)
include wf ht hr

/-- A collective one of whose ports is or has gone DOWN raises LINKDOWN (R281). -/
theorem coll_down {q : Nat} (hq : s.collDown s.focus.1 p.toNat = some q) : EngineTraps s .c h (.coll b tt r p y) ⟨0x28, BitVec.ofNat 64 q⟩ := by
  have ht : (s.cell s.focus.1).shutter tt.toNat = agentCode (.stream .c) := ht
  have hr : (s.cell s.focus.1).shutter r.toNat = agentCode (.stream .c) := hr
  refine engineTraps_c k (show (0x28 : BitVec 8) ≠ 0x08 by decide) (show (0x28 : BitVec 8) ≠ 0x30 by decide) (show (0x28 : BitVec 8) ≠ 0x0A by decide)
    (congrArg Host.Outcome.next ((eIssue_afterAll k free wf rfl).trans (congrArg (s.eConclude s.focus.1 .c _ h) ?_)))
  simp only [ht, hr, hq, ne_eq, not_true_eq_false, or_self, if_false]
  rfl

/-- A collective that has sent, and whose chunk has come, issues with its lines combined and the chunk taken (R281). -/
theorem coll_combines {q : Chunk} {v : State} (hsent : s.here.ec.progress.1 = 1) (hdown : s.collDown s.focus.1 p.toNat = none)
    (hchunks : s.here.c.chunks = [q]) (hport : q.port.toNat = otherWay p.toNat) (hctx : q.ctx = s.here.res.ctx) (htag : q.tag = y.tag)
    (hlen : q.lines.length = y.nl.toNat + 1)
    (hsteps : StepsTo (fun k t => collStep s.focus.1 tt.toNat r.toNat y.op.toNat k q t) (y.nl.toNat + 1) 0 s v) :
    Begins s .c h (.coll b tt r p y) (v.modCell s.focus.1 fun z => { z with c := { z.c with chunks := z.c.chunks.erase q } }) (y.nl.toNat + 1) := by
  have ht : (s.cell s.focus.1).shutter tt.toNat = agentCode (.stream .c) := ht
  have hr : (s.cell s.focus.1).shutter r.toNat = agentCode (.stream .c) := hr
  have hsent : (s.cell s.focus.1).ec.progress.1 ≠ 0 := by
    rw [show (s.cell s.focus.1).ec.progress.1 = 1 from hsent]; decide
  have hport : q.port = BitVec.ofNat 3 (otherWay p.toNat) := by rw [← hport, BitVec.ofNat_toNat, BitVec.setWidth_eq]
  have hfind : ∀ w : Chunk → Bool, w q = true → (s.cell s.focus.1).c.chunks.find? w = some q := fun w hw => by
    rw [show (s.cell s.focus.1).c.chunks = [q] from hchunks]
    exact List.find?_cons_of_pos hw
  have hrun := runCommand_of_stepsTo k.whole free.running hsteps
  refine congrArg Host.Outcome.next ((eIssue_afterAll k free wf rfl).trans
    (congrArg (s.eConclude s.focus.1 .c (.coll b tt r p y) h) (a₂ := .issued _ (y.nl.toNat + 1)) ?_))
  simp only [ht, hr, hsent, hdown, ne_eq, not_true_eq_false, not_false_eq_true, or_self, if_false, decide_true, Bool.not_true, Bool.false_and,
    Bool.false_eq_true, if_true]
  rw [hfind _ (by simp only [hport, hctx, htag, hlen, decide_true, Bool.and_self])]
  simp only [hrun]

/-- A collective whose lines no earlier packet on another route holds sends them, and waits for its chunk, which has not come (R281, R409). -/
theorem coll_sends (hprog : s.here.ec.progress = (0, 0)) (hdown : s.collDown s.focus.1 p.toNat = none)
    (hheld : s.routeHeld s.focus.1 (s.neighbour p.toNat) p.toNat 3 = false) (hchunks : s.here.c.chunks = []) :
    ∃ rows : List Row, rows.length = y.nl.toNat + 1 ∧
      exec (.coll b tt r p y) s = .next (((s.collSent s.focus.1 p.toNat y.tag rows).modCell s.focus.1 fun x => x.waitHead .c s.cycle).stall) := by
  have ht : (s.cell s.focus.1).shutter tt.toNat = agentCode (.stream .c) := ht
  have hr : (s.cell s.focus.1).shutter r.toNat = agentCode (.stream .c) := hr
  have hnone : ¬(s.cell s.focus.1).ec.progress.1 ≠ 0 := by
    rw [show (s.cell s.focus.1).ec.progress = (0, 0) from hprog]; decide
  obtain ⟨rows, hrows, hsend⟩ := collSend_eq (k.clean free) s.focus.1 tt.toNat p.toNat y.op.toNat y.tag (y.nl.toNat + 1)
  refine ⟨rows, hrows, congrArg Host.Outcome.next ((eIssue_afterAll k free wf rfl).trans
    (congrArg (s.eConclude s.focus.1 .c (.coll b tt r p y) h) (a₂ := .wait (s.collSent s.focus.1 p.toNat y.tag rows)) ?_))⟩
  simp only [ht, hr, hnone, hdown, hheld, hsend, ne_eq, not_true_eq_false, or_self, if_false, decide_false, Bool.and_false, Bool.false_eq_true]
  have hempty : ((s.collSent s.focus.1 p.toNat y.tag rows).cell s.focus.1).c.chunks = [] := by
    rw [collSent_cell k.cell, Cell.hasSent, charge_c]
    exact hchunks
  rw [hempty]
  rfl

end

/-! ### `LAND` -/

section
variable {tt : BitVec 7} {l : BitVec 6} {n : BitVec 5} {hd : BitVec 3} {x : LandQ}

/-- A packet of the cell `c` that carries `bytes` under `tag`, for a handler (R40, R280). -/
structure LandPacket (c : Nat) (bytes : List Byte) (tag : BitVec 16) (q : Packet) : Prop where
  payload : q.payload = bytes
  tag : q.tag = tag
  scell : q.scell = BitVec.ofNat 8 c

omit k free in
/-- Once the handler list entry has been read, and a route is open, the lines are taken into a packet for the destination (R280). -/
theorem landRun_issued {t : State} {c base : Nat} {header : BitVec 512} {port : Nat} {hb : List Nat}
    (hread : s.engineBytes c .c (base + hdrField header 56 0 32 + 4 * hd.toNat) 4 = .ok (t, hb)) (clean : t.mem.Clean)
    (hin : s.inTorus (moduleAt x.x.toNat x.y.toNat x.z.toNat) = true) (hroute : s.route (moduleAt x.x.toNat x.y.toNat x.z.toNat) = some port)
    (hheld : s.routeHeld c (moduleAt x.x.toNat x.y.toNat x.z.toNat) port 2 = false) :
    ∃ q, LandPacket c ((t.cell c).pad.readN (tt.toNat * 16384 + l.toNat * 256) (8 * (n.toNat + 1))) (x.tag.setWidth 16) q ∧
      s.landRun c base header tt l n hd x = 
        .issued (t.landTaken c (8 * (n.toNat + 1)) (moduleAt x.x.toNat x.y.toNat x.z.toNat) x.cell.toNat q) 1 := by
  have hbit : tt.toNat * 131072 + l.toNat * 2048 = 8 * (tt.toNat * 16384 + l.toNat * 256) := by omega
  have hrow := readRows_bytes clean (t.whoOf c (.stream .c)) [tt.toNat * 16384 + l.toNat * 256] (8 * (n.toNat + 1)) true
  have hrun : (s.engineBytes c .c (base + hdrField header 56 0 32 + 4 * hd.toNat) 4).bind (fun (s, hb) =>
      (s.readRows (s.whoOf c (.stream .c)) [.tile (tt.toNat * 131072 + l.toNat * 2048) 8 (8 * (n.toNat + 1))] true).bind fun (s, rows) =>
        .ok (s, hb, rows)) = .ok (t, hb, [byteRow ((t.cell c).pad.readN (tt.toNat * 16384 + l.toNat * 256) (8 * (n.toNat + 1)))]) := by
    rw [bind_of_ok hread, hbit]
    exact bind_of_ok hrow _
  have hbytes : ∀ bs : List Byte, (bs.map BitVec.toNat).map (BitVec.ofNat 8) = bs := fun bs => by
    rw [List.map_map]
    exact List.map_id'' (fun b => (BitVec.ofNat_toNat 8 b).trans (BitVec.setWidth_eq b)) bs
  let q : Packet :=
    { payload := (t.cell c).pad.readN (tt.toNat * 16384 + l.toNat * 256) (8 * (n.toNat + 1)), tag := x.tag.setWidth 16, ctx := (s.cell c).res.ctx
      sender := BitVec.ofNat 12 s.moduleNumber, scell := BitVec.ofNat 8 c, handler := BitVec.ofNat 64 (base + joinBits 8 hb) }
  refine ⟨q, ⟨rfl, rfl, rfl⟩, ?_⟩
  simp only [State.landRun, hrun, hin, hroute, hheld, if_true, Bool.false_eq_true, if_false, List.headD_cons, byteRow, hbytes, q]
  rfl

/-- A `LAND` whose writes are performed and whose handler exists leaves the queue with its packet at the cell, for its port to send (R280). -/
theorem land_issues {t : State} {port : Nat} {hb : List Nat} (wf : (Instr.land b tt l n hd x).wellFormed = true)
    (hhandler : hd.toNat < hdrField (s.kernelOf s.focus.1).2 60 0 4) (ht : s.here.shutter tt.toNat = 3)
    (hp : s.performedAt (s.focus.1, .stream .c) 4 = true) (hin : s.inTorus (moduleAt x.x.toNat x.y.toNat x.z.toNat) = true)
    (hroute : s.route (moduleAt x.x.toNat x.y.toNat x.z.toNat) = some port)
    (hheld : s.routeHeld s.focus.1 (moduleAt x.x.toNat x.y.toNat x.z.toNat) port 2 = false)
    (hread : s.engineBytes s.focus.1 .c ((s.kernelOf s.focus.1).1 + hdrField (s.kernelOf s.focus.1).2 56 0 32 + 4 * hd.toNat) 4 = .ok (t, hb))
    (clean : t.mem.Clean) :
    ∃ q, LandPacket s.focus.1 ((t.cell s.focus.1).pad.readN (tt.toNat * 16384 + l.toNat * 256) (8 * (n.toNat + 1))) (x.tag.setWidth 16) q ∧
      Begins s .c h (.land b tt l n hd x) 
        (t.landTaken s.focus.1 (8 * (n.toNat + 1)) (moduleAt x.x.toNat x.y.toNat x.z.toNat) x.cell.toNat q) 1 := by
  obtain ⟨q, hq, hrun⟩ := landRun_issued (l := l) (n := n) hread clean hin hroute hheld
  have hshut : ¬((s.cell s.focus.1).shutter tt.toNat ≠ agentCode (.stream .c) ∨ (!s.performedAt (s.focus.1, .stream .c) 4) = true) := by
    rintro (hne | hnot)
    · exact hne ht
    · rw [hp] at hnot
      exact absurd hnot (by decide)
  refine ⟨q, hq, congrArg Host.Outcome.next ((eIssue_afterAll k free wf (if_neg (Nat.not_le_of_lt hhandler))).trans
    (congrArg (s.eConclude s.focus.1 .c (.land b tt l n hd x) h) (a₂ := .issued _ 1) ((if_neg hshut).trans hrun)))⟩

end

end

/-- Settles O34: `LAND` and the last step of `COLL` issue (`land_issues`, `coll_combines`), a `COLL` that has not sent waits after sending
(`coll_sends`) and one whose port is DOWN traps (`coll_down`), and `CBAR` leaves the queue (`cbar_leaves`). -/
theorem linkCommands : Obligations.LinkCommands := by
  intro s t h b tt r l n hd p x y port hb bn kind im k free c kern dst land coll cbar
  refine ⟨?land, ?send, fun q v wf ht hr hsent hdown hchunks hport hctx htag hlen hsteps => ?combine, fun q wf ht hr hq => coll_down k free wf ht hr hq,
    fun wf hp => ?cbar⟩
  case land =>
    intro wf hhandler hshut hp hin hroute hheld hread _ hpoison huncorr hec hfocus hcells
    obtain ⟨q, ⟨hpayload, htag, hscell⟩, hx⟩ := land_issues (l := l) (n := n) k free wf hhandler hshut hp hin hroute hheld hread ⟨hpoison, huncorr⟩
    obtain ⟨u, hu, hhere, -⟩ := begins_here (t := t.landTaken c _ dst _ q) hfocus ((landTaken_length ..).trans hcells ▸ k.cell) hx
    obtain ⟨hlec, hland⟩ := landTaken_cell (hcells ▸ k.cell : c < t.cells.length) (8 * (n.toNat + 1)) dst x.cell.toNat q
    obtain ⟨hqueue, hinprog, g, hg⟩ := issueHead_c ((t.landTaken c (8 * (n.toNat + 1)) dst x.cell.toNat q).cell c) land h 1 t.cycle
    have hout : u.here.c.landOut = some (dst, x.cell.toNat, q) := by
      rw [hhere]
      exact (congrArg (·.c.landOut) hg).trans hland
    refine ⟨u, q, hu, ⟨?_, ?_⟩, hout, hpayload, htag, hscell⟩
    all_goals rw [hhere]
    · exact hqueue.trans (congrArg (fun g : Engine => g.queue.drop 1) (hlec.trans hec))
    · exact hinprog.trans (congrArg (fun g : Engine => g.inprog.map (·.instr) ++ [land]) (hlec.trans hec))
  case send =>
    intro wf hpoison huncorr ht hr hprog hdown hheld hchunks
    obtain ⟨rows, hlen, hx⟩ := coll_sends k free wf ht hr hprog hdown hheld hchunks
    have hhere : ((s.collSent c p.toNat y.tag rows).modCell c fun x => x.waitHead .c s.cycle).stall.here =
        (s.here.hasSent rows.length).waitHead .c s.cycle := by
      show ((s.collSent c p.toNat y.tag rows).modCell c fun x => x.waitHead .c s.cycle).cell c = _
      rw [cell_modCell _ _ _ ((collSent_length ..).symm ▸ k.cell), collSent_cell k.cell]
    refine ⟨_, _, hx, rfl, ?_, ?_, rfl, rfl, rfl, _, rfl, rfl, ?_, ?_⟩
    · exact (congrArg (·.ec.progress) hhere).trans (hasSent_waitHead ..).2
    · exact (congrArg (·.ec.queue) hhere).trans (hasSent_waitHead ..).1
    · rw [BitVec.toNat_ofNat, Nat.mod_eq_of_lt (otherWay_lt p)]
    · rw [List.length_map, hlen]
  case combine => exact coll_combines k free wf ht hr hsent hdown hchunks hport hctx htag hlen hsteps
  case cbar =>
    have hhere : ((s.sendArrival c (.stream .c) s.here.res.ctx bn.toNat (s.here.arrivalBytes kind im)).leave .c Cell.clearCounts).here =
      s.here.clearCounts.leaveHead .c s.cycle := cell_modCell (s.sendArrival c _ _ _ _) c _ k.cell
    refine ⟨_, cbar_leaves k free wf hp, ?_, ?_, ?_, ?_, rfl, sent_sendArrival s c (.stream .c) _ _ _⟩
    all_goals rw [hhere]
    all_goals rfl

end Sys2Proof.Machine
